-- ==== Sys2Proof/Word.lean ====
section
/-!
DEFINITION. The word types of the part and their plainest arithmetic (spec/01 R40, spec/00 R7).
-/
namespace Sys2Proof

abbrev Byte := BitVec 8
abbrev U16 := BitVec 16
abbrev U32 := BitVec 32
abbrev U64 := BitVec 64
/-- An instruction address (R73). -/
abbrev Addr20 := BitVec 20

/-- The smallest integer at or above `a / b`, for `b > 0` (R40). -/
def ceilDiv (a b : Nat) : Nat := (a + (b - 1)) / b

/-- `x` as an unsigned integer clamped to `n` bits (R40, `sat_u`). -/
def satU (n : Nat) (x : Int) : BitVec n :=
  if x < 0 then 0#n else if x ≥ 2 ^ n then BitVec.allOnes n else BitVec.ofInt n x

/-- `x` clamped to the signed range of `n` bits (R40, `sat_s`). -/
def satS (n : Nat) (x : Int) : BitVec n :=
  if x < -(2 ^ (n - 1)) then BitVec.ofInt n (-(2 ^ (n - 1)))
  else if x > 2 ^ (n - 1) - 1 then BitVec.ofInt n (2 ^ (n - 1) - 1) else BitVec.ofInt n x

/-- The low bits `lo` up to `lo + len - 1` of a natural number. -/
def field (x lo len : Nat) : Nat := (x >>> lo) % 2 ^ len

/-- Bit `i` of a natural number. -/
def bitAt (x i : Nat) : Bool := (x >>> i) % 2 == 1

/-- The little-endian value of bytes (R7). -/
def leNat : List Byte → Nat
  | [] => 0
  | b :: bs => b.toNat + 256 * leNat bs

/-- The `n` little-endian bytes of a value (R7). -/
def leBytes : Nat → Nat → List Byte
  | 0, _ => []
  | n + 1, v => BitVec.ofNat 8 v :: leBytes n (v / 256)

end Sys2Proof
end

