-- ==== Sys2Proof/Machine/Num.lean ====
section
/-!
DEFINITION. Numbers (spec/02): element formats, exact values, rounding with its flags, block scales,
stochastic generators and the reduction tree.
-/
namespace Sys2Proof.Machine

open Sys2Proof

/-! Flag bits of `sys.sflag` (R38). -/

def fSCH : U32 := 0x1000#32
def fNX : U32 := 0x800#32
def fUF : U32 := 0x400#32
def fOF : U32 := 0x200#32
def fDZ : U32 := 0x100#32
def fNV : U32 := 0x80#32
def fINV : U32 := 0x40#32
def fEMP : U32 := 0x20#32
def fPOI : U32 := 0x10#32
def fFMT : U32 := 0x8#32
def fRES : U32 := 0x4#32
def fPWF : U32 := 0x2#32
def fWIN : U32 := 0x1#32

/-- A flag when a condition holds. -/
def flagIf (b : Bool) (f : U32) : U32 := if b then f else 0#32

/-- An exact value (R53): NaN, poison, an infinity, or the number `±m·2^e`. -/
inductive Val where
  | nan
  | poison
  | inf (neg : Bool)
  | fin (neg : Bool) (m : Nat) (e : Int)
  deriving DecidableEq, Repr

/-- `2^k` for a natural exponent held as an integer, 1 for a negative one. -/
def pow2 (k : Int) : Nat := 2 ^ k.toNat

/-- `a·2^x ≤ b·2^y`. -/
def leScaled (a : Nat) (x : Int) (b : Nat) (y : Int) : Bool :=
  if x ≤ y then a ≤ b * pow2 (y - x) else a * pow2 (x - y) ≤ b

/-- The classes of floating target (R56). -/
inductive FKind where
  | ieee | ext | fin
  deriving DecidableEq, Repr

/-- A floating format: precision `p`, exponent `emin` of its subnormal spacing, largest finite magnitude
`maxM·2^maxE`, width in bits. -/
structure FloatFmt where
  p : Nat
  emin : Int
  maxM : Nat
  maxE : Int
  kind : FKind
  uns : Bool
  bits : Nat
  deriving DecidableEq, Repr

def fp32 : FloatFmt := { p := 24, emin := -149, maxM := 2 ^ 24 - 1, maxE := 104, kind := .ieee, uns := false, bits := 32 }
def bf16 : FloatFmt := { p := 8, emin := -133, maxM := 2 ^ 8 - 1, maxE := 120, kind := .ieee, uns := false, bits := 16 }
def fp16 : FloatFmt := { p := 11, emin := -24, maxM := 2 ^ 11 - 1, maxE := 5, kind := .ieee, uns := false, bits := 16 }

/-- The value of a nonnegative magnitude code of a format with subnormals (R45, IEEE 754). -/
def magOf (p : Nat) (emin : Int) (code : Nat) : Nat × Int :=
  let t := 2 ^ (p - 1)
  if code < t then (code, emin) else (t + code % t, emin + (code / t : Nat) - 1)

/-- A binary8 format by its code 0x01-0x1F (R42-R45, R49). -/
def b8 (f : Nat) : FloatFmt :=
  let p := f % 8
  let uns := bitAt f 4
  let fin := bitAt f 3
  let b : Nat := if uns then 2 ^ (8 - p) else 2 ^ (7 - p)
  let emin : Int := 1 - (b : Int) - ((p - 1 : Nat) : Int)
  let top := if uns then (if fin then 0xFE else 0xFD) else (if fin then 0x7F else 0x7E)
  let mx := magOf p emin top
  { p := p, emin := emin, maxM := mx.1, maxE := mx.2, kind := if fin then .fin else .ext, uns := uns, bits := 8 }

/-- An element format (R49). -/
inductive Fmt where
  | flt (f : FloatFmt)
  | int (bits : Nat) (signed : Bool)
  deriving DecidableEq, Repr

/-- The numeric format of a code, none for raw, structural, reserved and poison codes (R49). -/
def fmtOf (c : Nat) : Option Fmt :=
  if c < 0x20 then (if c % 8 = 0 then none else some (.flt (b8 c)))
  else match c with
    | 0x20 => some (.flt bf16)
    | 0x21 => some (.flt fp16)
    | 0x22 => some (.flt fp32)
    | 0x28 => some (.int 8 true)
    | 0x29 => some (.int 8 false)
    | 0x2A => some (.int 4 true)
    | 0x2B => some (.int 16 true)
    | 0x2C => some (.int 32 true)
    | _ => none

/-- A code that R49 does not list. -/
def fmtReserved (c : Nat) : Bool :=
  (fmtOf c).isNone && !(c = 0 || c = 0x30 || c = 0x31 || c = 0x38 || c = 0x7F)

/-- The width of a format in bits. -/
def Fmt.bits : Fmt → Nat
  | .flt f => f.bits
  | .int b _ => b

/-- The largest finite magnitude of a format (R62). -/
def Fmt.maxFin : Fmt → Nat × Int
  | .flt f => (f.maxM, f.maxE)
  | .int b s => (if s then 2 ^ (b - 1) - 1 else 2 ^ b - 1, 0)

/-- The canonical NaN of a floating format (R44, R46). -/
def FloatFmt.nanCode (f : FloatFmt) : Nat :=
  match f.kind with
  | .ieee => if f.bits = 32 then 0x7FC00000 else if f.p = 8 then 0x7FC0 else 0x7E00
  | _ => if f.uns then 0xFF else 0x80

/-- The code of an infinity in a format that has it. -/
def FloatFmt.infCode (f : FloatFmt) (neg : Bool) : Nat :=
  match f.kind with
  | .ieee => (if neg then 2 ^ (f.bits - 1) else 0) + (if f.bits = 32 then 0x7F800000 else if f.p = 8 then 0x7F80 else 0x7C00)
  | _ => if f.uns then 0xFE else if neg then 0xFF else 0x7F

/-- The magnitude code of `m·2^q` with `m` within the precision or just carried out of it (R42, R45). -/
def FloatFmt.magCode (f : FloatFmt) (m : Nat) (q : Int) : Nat :=
  let t := 2 ^ (f.p - 1)
  if m < t then m else (q - f.emin + 1).toNat * t + (m - t)

/-- A signed code from a magnitude code; binary8 has one zero (R44). -/
def FloatFmt.signed (f : FloatFmt) (neg : Bool) (mag : Nat) : Nat :=
  if f.uns then mag else if neg && (mag ≠ 0 || f.kind = .ieee) then 2 ^ (f.bits - 1) + mag else mag

/-- The exact value of an element's bits at scale exponent `s` (R42-R47, R53). -/
def decFmt (f : Fmt) (x : Nat) (s : Int) : Val :=
  match f with
  | .int b sg =>
    let v := x % 2 ^ b
    if sg && 2 ^ (b - 1) ≤ v then .fin true (2 ^ b - v) s else .fin false v s
  | .flt f =>
    let x := x % 2 ^ f.bits
    match f.kind with
    | .ieee =>
      let neg := bitAt x (f.bits - 1)
      let mag := x % 2 ^ (f.bits - 1)
      let top := f.infCode false
      if mag = top then .inf neg else if top < mag then .nan
      else let r := magOf f.p f.emin mag; .fin neg r.1 (r.2 + s)
    | k =>
      if f.uns then
        if x = 0xFF then .nan else if x = 0xFE && k = .ext then .inf false
        else let r := magOf f.p f.emin x; .fin false r.1 (r.2 + s)
      else if x = 0x80 then .nan
      else if x = 0x7F && k = .ext then .inf false
      else if x = 0xFF && k = .ext then .inf true
      else
        let r := magOf f.p f.emin (x % 128)
        .fin (bitAt x 7) r.1 (r.2 + s)

/-- The format code and scale code of a descriptor (R48). -/
def descFmt (d : U16) : Nat := d.toNat / 512
def descScale (d : U16) : Nat := d.toNat % 512

/-- The descriptor of a format code and scale code. -/
def mkDesc (f e : Nat) : U16 := BitVec.ofNat 16 (f * 512 + e)

/-- A line of this descriptor is poison or reserved to a byte read (R52). -/
def tagPoison (d : U16) : Bool := descFmt d = 0x7F || fmtReserved (descFmt d)

/-- The sticky flags of reading such a line (R52). -/
def tagFlags (d : U16) : U32 :=
  flagIf (tagPoison d) fPOI ||| flagIf (fmtReserved (descFmt d)) fFMT

/-- Decodes an element of format code `c` under scale code `e` (R53): the value and the flags. -/
def dec (x c e : Nat) : Val × U32 :=
  match fmtOf c with
  | none => (.poison, fPOI ||| flagIf (c ≠ 0x7F) fFMT)
  | some f => if e = 511 then (.nan, 0#32) else (decFmt f x ((e : Int) - 255), 0#32)

/-! ## Rounding (R54-R59) -/

/-- A rounding code (R54) with the random half word of R59. -/
structure Rc where
  sat : Bool := false
  mode : Nat := 0
  rn : Nat := 0
  deriving DecidableEq, Repr

/-- A rounding code of four bits. -/
def rcOf (c : Nat) : Rc := { sat := bitAt c 3, mode := c % 8 }

def rne : Rc := {}
def rup : Rc := { mode := 2 }

/-- `floor(log2(n/d))` for positive `n` and `d`. -/
def log2Rat (n d : Nat) : Int :=
  let k : Int := (n.log2 : Int) - (d.log2 : Int)
  if leScaled d k n 0 then k else k - 1

/-- Rounds the magnitude `n/d·2^e` to precision `p` with least spacing `2^emin` in an unbounded range: the
neighbour chosen as `m·2^q`, and whether it is inexact (R55, R59). -/
def roundMag (p : Nat) (emin : Int) (c : Rc) (neg : Bool) (n d : Nat) (e : Int) : Nat × Int × Bool :=
  if n = 0 then (0, emin, false)
  else
    let q := max emin (e + log2Rat n d - ((p : Int) - 1))
    let num := if q ≤ e then n * pow2 (e - q) else n
    let den := if q ≤ e then d else d * pow2 (q - e)
    let a := num / den
    let r := num % den
    let t := 2 ^ (p - 1)
    let code := if a < t then a else (q - emin + 1).toNat * t + (a - t)
    let up : Bool :=
      if r = 0 then false
      else match c.mode with
        | 1 => false
        | 2 => !neg
        | 3 => neg
        | 4 => 2 ^ 16 ≤ r * 2 ^ 16 / den + c.rn
        | _ => den < 2 * r || (2 * r = den && code % 2 = 1)
    (if up then a + 1 else a, q, r ≠ 0)

/-- What overflow becomes (R56): the code of the result for a finite magnitude beyond the largest. -/
def FloatFmt.overflow (f : FloatFmt) (c : Rc) (neg : Bool) : Nat :=
  let mx := f.signed neg (f.magCode f.maxM f.maxE)
  let big := if f.kind = .fin then f.nanCode else f.infCode neg
  if c.sat then mx
  else match c.mode with
    | 1 => mx
    | 2 => if neg then mx else big
    | 3 => if neg then big else mx
    | _ => big

/-- Rounds `±n/d·2^e` into a floating format (R55-R58): the code and the flags. -/
def rndRat (f : FloatFmt) (c : Rc) (neg : Bool) (n d : Nat) (e : Int) : Nat × U32 :=
  let tiny := !(leScaled d (f.emin + ((f.p - 1 : Nat) : Int)) n e)
  if f.uns && neg && n ≠ 0 then (if c.sat then (0, fNX ||| flagIf tiny fUF) else (f.nanCode, fNV))
  else
    let r := roundMag f.p f.emin c neg n d e
    if leScaled r.1 r.2.1 f.maxM f.maxE then
      (f.signed neg (f.magCode r.1 r.2.1),
        flagIf r.2.2 fNX |||
        flagIf (r.2.2 && tiny) fUF)
    else (f.overflow c neg, fOF ||| fNX)

/-- `rnd(x, f, m)` for a floating format (R55-R58). -/
def rndVal (f : FloatFmt) (c : Rc) (x : Val) : Nat × U32 :=
  match x with
  | .nan => (f.nanCode, 0#32)
  | .poison => (f.nanCode, 0#32)
  | .inf neg =>
    if f.uns && neg then (if c.sat then (0, fNX) else (f.nanCode, fNV))
    else if c.sat then (f.signed neg (f.magCode f.maxM f.maxE), fNX)
    else if f.kind = .fin then (f.nanCode, fNV) else (f.infCode neg, 0#32)
  | .fin neg m e => rndRat f c neg m 1 e

/-- Rounds into an integer format (R57). `src` says that the source element is of an integer format. -/
def rndInt (b : Nat) (sg : Bool) (c : Rc) (src : Bool) (x : Val) : Nat × U32 :=
  let lo : Int := if sg then -(2 ^ (b - 1) : Nat) else 0
  let hi : Int := if sg then (2 ^ (b - 1) : Nat) - 1 else (2 ^ b : Nat) - 1
  let put (v : Int) : Nat := (v % (2 ^ b : Nat)).toNat
  match x with
  | .nan => (0, fNV)
  | .poison => (0, 0#32)
  | .inf neg => (put (if neg then lo else hi), fOF ||| flagIf (!src) fNX)
  | .fin neg m e =>
    let r := roundMag 4096 0 c neg m 1 e
    let v : Int := if neg then -((r.1 * pow2 r.2.1 : Nat) : Int) else ((r.1 * pow2 r.2.1 : Nat) : Int)
    let out : Bool := v < lo || hi < v
    (put (if out && c.sat then (if v < lo then lo else hi) else v),
      flagIf out fOF ||| flagIf (r.2.2 || (out && !src)) fNX)

/-- `rnd(x, f, m)` for any element format. -/
def rndFmt (f : Fmt) (c : Rc) (src : Bool) (x : Val) : Nat × U32 :=
  match f with
  | .flt f => rndVal f c x
  | .int b sg => rndInt b sg c src x

/-! ## Exact arithmetic -/

/-- `±m·2^e` as an integer multiple of `2^k`, for `k ≤ e`. -/
def toUnits (neg : Bool) (m : Nat) (e k : Int) : Int :=
  let v : Int := (m * pow2 (e - k) : Nat)
  if neg then -v else v

/-- An integer multiple of `2^k`, with the sign that a zero result takes. -/
def ofUnits (zneg : Bool) (v k : Int) : Val :=
  if v = 0 then .fin zneg 0 0 else .fin (v < 0) v.natAbs k

/-- The value is NaN or poison. -/
def Val.bad : Val → Bool
  | .nan => true
  | .poison => true
  | _ => false

/-- What two values make when one is NaN or poison: poison if either is (R53). -/
def Val.worse (a b : Val) : Val := if a = .poison || b = .poison then .poison else .nan

def Val.neg : Val → Val
  | .inf n => .inf (!n)
  | .fin n m e => .fin (!n) m e
  | v => v

def Val.abs : Val → Val
  | .inf _ => .inf false
  | .fin _ m e => .fin false m e
  | v => v

/-- A zero of either sign. -/
def Val.isZero : Val → Bool
  | .fin _ m _ => m = 0
  | _ => false

/-- The sign bit of a number. -/
def Val.isNeg : Val → Bool
  | .inf n => n
  | .fin n _ _ => n
  | _ => false

/-- The exact sum (R55 for the sign of a zero; `rdn` when rounding down). -/
def vadd (rdn : Bool) (a b : Val) : Val × U32 :=
  match a, b with
  | .inf x, .inf y => if x = y then (.inf x, 0#32) else (.nan, fNV)
  | .inf x, .fin _ _ _ => (.inf x, 0#32)
  | .fin _ _ _, .inf y => (.inf y, 0#32)
  | .fin x m e, .fin y n f =>
    let k := min e f
    let z := if m = 0 && n = 0 && x = y then x else rdn
    (ofUnits z (toUnits x m e k + toUnits y n f k) k, 0#32)
  | a, b => (a.worse b, 0#32)

/-- The exact product; `0 × ∞` is NaN with NV. -/
def vmul (a b : Val) : Val × U32 :=
  if a.bad || b.bad then (a.worse b, 0#32)
  else
    let s := a.isNeg != b.isNeg
    match a, b with
    | .fin _ m e, .fin _ n f => (.fin s (m * n) (e + f), 0#32)
    | x, y => if x.isZero || y.isZero then (.nan, fNV) else (.inf s, 0#32)

/-- `a < b` on numbers, −0 equal to +0; false on NaN and poison. -/
def vlt (a b : Val) : Bool :=
  match a, b with
  | .inf x, .inf y => x && !y
  | .inf x, .fin _ _ _ => x
  | .fin _ _ _, .inf y => !y
  | .fin x m e, .fin y n f =>
    let k := min e f
    toUnits x m e k < toUnits y n f k
  | _, _ => false

/-- `a = b` on numbers, −0 equal to +0; false on NaN and poison. -/
def veq (a b : Val) : Bool := !(a.bad || b.bad) && !(vlt a b) && !(vlt b a)

/-- The larger value with −0 below +0; NaN or poison if either is (R68). -/
def vmax (a b : Val) : Val :=
  if a.bad || b.bad then a.worse b
  else if vlt a b then b else if vlt b a then a else if a.isNeg then b else a

/-- The smaller value with −0 below +0; NaN or poison if either is (R68). -/
def vmin (a b : Val) : Val :=
  if a.bad || b.bad then a.worse b
  else if vlt a b then a else if vlt b a then b else if a.isNeg then a else b

/-- The quotient rounded into a floating format, with DZ and NV (R58). -/
def rndDiv (f : FloatFmt) (c : Rc) (a b : Val) : Nat × U32 :=
  if a.bad || b.bad then (f.nanCode, 0#32)
  else
    let s := a.isNeg != b.isNeg
    match a, b with
    | .inf _, .inf _ => (f.nanCode, fNV)
    | .inf _, _ => rndVal f c (.inf s)
    | .fin _ _ _, .inf _ => rndVal f c (.fin s 0 0)
    | .fin _ m e, .fin _ n k =>
      if n = 0 then
        if m = 0 then (f.nanCode, fNV)
        else let r := rndVal f c (.inf s); (r.1, r.2 ||| fDZ)
      else rndRat f c s m n (e - k)
    | _, _ => (f.nanCode, 0#32)

/-- An FP32 code as a value. -/
def ofF32 (x : Nat) : Val := decFmt (.flt fp32) x 0

/-- `rnd(x, FP32, RNE)`. -/
def toF32 (x : Val) : Nat × U32 := rndVal fp32 rne x

/-- The canonical FP32 NaN. -/
def nan32 : Nat := 0x7FC00000

/-! ## Stochastic generators (R59, R60) -/

/-- One step of a generator (R60). -/
def stepConv (x : U32) : U32 :=
  let x := x ^^^ (x <<< 13)
  let x := x ^^^ (x >>> 17)
  x ^^^ (x <<< 5)

/-- The seed of converter `conv` of a core (R60). -/
def seedConv (k : U64) (core conv : Nat) : U32 :=
  let s := k.setWidth 32 ^^^ (k >>> 32).setWidth 32 ^^^ (BitVec.ofNat 32 (32 * core + conv) * 0x9E3779B9#32)
  if s = 0#32 then 1#32 else s

/-- The random half word of element `i` of a chunk under state `s` (R59). -/
def randHalf (s : U32) (i : Nat) : Nat := (s.rotateLeft ((5 * i) % 32)).toNat % 2 ^ 16

/-- A rounding code whose random bits are those of element `i` under state `s`. -/
def Rc.at (c : Rc) (s : U32) (i : Nat) : Rc := { c with rn := randHalf s i }

/-! ## Block scales (R62) -/

/-- The largest finite magnitude of a list, exactly. -/
def amax : List Val → Nat × Int
  | [] => (0, 0)
  | .fin _ m e :: t => let r := amax t; if leScaled m e r.1 r.2 then r else (m, e)
  | _ :: t => amax t

/-- The least integer `k` with `a·2^x ≤ b·2^(y+k)`, for positive `a` and `b`. -/
def ceilLog2Ratio (a : Nat) (x : Int) (b : Nat) (y : Int) : Int :=
  let k := (a.log2 : Int) + x - ((b.log2 : Int) + y) - 1
  if leScaled a x b (y + k) then k else if leScaled a x b (y + k + 1) then k + 1 else k + 2

/-- The scale code of a block of target `f` (R62). -/
def blockScale (f : Fmt) (unit : Bool) (vs : List Val) : Nat :=
  let ieee := match f with | .flt f => f.kind = .ieee | .int _ _ => false
  let m := amax vs
  if ieee || unit || m.1 = 0 then 255
  else
    let mx := f.maxFin
    let k := 255 + ceilLog2Ratio m.1 m.2 mx.1 mx.2
    (max 0 (min 510 k)).toNat

/-- A value divided by `2^s`. -/
def Val.scale (s : Int) : Val → Val
  | .fin n m e => .fin n m (e - s)
  | v => v

/-! ## The reduction tree (R68) -/

/-- Combines a list by the tree of R68, threading a state through the combinations in the order left
subtree, right subtree, node. `fuel` bounds the depth. -/
def tree {σ α : Type} (op : σ → α → α → σ × α) (dflt : α) : Nat → σ → List α → σ × α
  | _, s, [] => (s, dflt)
  | _, s, [x] => (s, x)
  | 0, s, x :: _ => (s, x)
  | fuel + 1, s, xs =>
    let m := 2 ^ (xs.length - 1).log2
    let l := tree op dflt fuel s (xs.take m)
    let r := tree op dflt fuel l.1 (xs.drop m)
    op r.1 l.2 r.2

/-! ## Keyed mixer (R269) -/

/-- One round of the mixer. -/
def mixRound (k x : U64) (rd : Nat) : U64 :=
  let x := x + k + BitVec.ofNat 64 rd * 0x9E3779B97F4A7C15#64
  let x := x ^^^ (x >>> 31)
  let x := x * 0xBF58476D1CE4E5B9#64
  x ^^^ (x >>> 27)

/-- The keyed mixer (R269). -/
def mix (k n : U64) : U64 := mixRound k (mixRound k (mixRound k (mixRound k n 0) 1) 2) 3

end Sys2Proof.Machine
end

