-- ==== Sys2Proof/Machine/Trans.lean ====
section
/-!
DEFINITION. The special functions of spec/07 R218 and spec/09 R267, correctly rounded: each is computed in
fixed point to `prec` fractional bits and rounded once, and the cases with an exact result stand apart.
-/
namespace Sys2Proof.Machine

open Sys2Proof

/-- Fractional bits of the fixed-point computations. -/
def prec : Nat := 1200

/-- One in fixed point. -/
def one' : Int := (2 ^ prec : Nat)

/-- A product in fixed point, rounded down. -/
def fmul (a b : Int) : Int := (a * b) / one'

/-- A quotient in fixed point, rounded down. -/
def fdiv (a b : Int) : Int := (a * one') / b

/-- `Σ z^(2k+1)/(2k+1)` from term `k` with power `p`, for `|z| ≤ 1/3`: the inverse hyperbolic tangent. -/
def atanhSum (z2 : Int) : Nat → Nat → Int → Int
  | 0, _, _ => 0
  | n + 1, k, p => p / (2 * k + 1 : Nat) + atanhSum z2 n (k + 1) (fmul p z2)

/-- The inverse hyperbolic tangent of `z`. -/
def atanh' (z : Int) : Int := atanhSum (fmul z z) 400 0 z

/-- The natural logarithm of 2. -/
def ln2 : Int := 2 * atanh' (one' / 3)

/-- `Σ (−1)^k (1/n)^(2k+1)/(2k+1)`: the inverse tangent of `1/n`. -/
def atanSum (n2 : Int) : Nat → Nat → Int → Int
  | 0, _, _ => 0
  | m + 1, k, p => p / (2 * k + 1 : Nat) - atanSum n2 m (k + 1) (p / n2)

/-- π by Machin's formula. -/
def pi' : Int := 4 * (4 * atanSum 25 300 0 (one' / 5) - atanSum 57121 150 0 (one' / 239))

/-- `Σ x^k/k!` from term `k` with term `t`. -/
def expSum (x : Int) : Nat → Nat → Int → Int
  | 0, _, _ => 0
  | n + 1, k, t => t + expSum x n (k + 1) (fmul t x / (k : Int))

/-- `e^x` for `0 ≤ x < 1`. -/
def expFrac (x : Int) : Int := expSum x 260 1 one'

/-- `e^x` as a fixed-point mantissa in [1, 2] and an exponent of two. -/
def expFix (x : Int) : Int × Int :=
  let k := x / ln2
  (expFrac (x - k * ln2), k)

/-- A number `v·2^-prec·2^k` rounded into `f`, as an inexact result (every exact case is handled before).
DEDUCED (log entry 14): `prec` leaves the true value on the same side of every rounding boundary. -/
def rndFix (f : FloatFmt) (c : Rc) (v k : Int) : Nat × U32 :=
  let r := rndRat f c (v < 0) v.natAbs 1 (k - (prec : Int))
  (r.1, r.2 ||| fNX)

/-- `±m·2^e` in fixed point, rounded down. -/
def toFix (neg : Bool) (m : Nat) (e : Int) : Int :=
  let k := e + (prec : Int)
  let v : Int := if 0 ≤ k then ((m * pow2 k : Nat) : Int) else ((m / pow2 (-k) : Nat) : Int)
  if neg then -v else v

/-- A fixed-point number as an exact value. -/
def ofFix (v : Int) : Val := ofUnits false v (-(prec : Int))

/-- A positive value too large for any format. -/
def hugeVal : Nat × Int := (1, 4000)

/-- Rounds a positive value too small for any format. -/
def rndTiny (f : FloatFmt) (c : Rc) (neg : Bool) : Nat × U32 := rndRat f c neg 1 1 (-4000)

/-- `2^x` or `e^x` rounded (R218): `nat` selects the natural base. -/
def expR (nat : Bool) (f : FloatFmt) (c : Rc) (x : Val) : Nat × U32 :=
  match x with
  | .inf true => rndVal f c (.fin false 0 0)
  | .inf false => rndVal f c (.inf false)
  | .fin neg m e =>
    if m = 0 then rndVal f c (.fin false 1 0)
    else if !(leScaled m e 2048 0) then
      (if neg then rndTiny f c false else rndVal f c (.fin false 1 4000))
    else if !nat && 0 ≤ e then
      rndVal f c (.fin false 1 (if neg then -((m * pow2 e : Nat) : Int) else ((m * pow2 e : Nat) : Int)))
    else if !nat && m % pow2 (-e) = 0 then
      let k : Int := ((m / pow2 (-e) : Nat) : Int)
      rndVal f c (.fin false 1 (if neg then -k else k))
    else
      let v := toFix neg m e
      let r := if nat then expFix v else
        let k := v / one'
        (expFrac (fmul (v - k * one') ln2), k)
      rndFix f c r.1 r.2
  | v => rndVal f c v

/-- The base-2 logarithm of `m·2^e`, in fixed point. -/
def log2Fix (m : Nat) (e : Int) : Int :=
  let k : Int := (m.log2 : Int)
  let y := toFix false m (-k)
  2 * fdiv (atanh' (fdiv (y - one') (y + one'))) ln2 + (k + e) * one'

/-- `log2 x` rounded (R218). -/
def log2R (f : FloatFmt) (c : Rc) (x : Val) : Nat × U32 :=
  match x with
  | .inf true => (f.nanCode, fNV)
  | .inf false => rndVal f c (.inf false)
  | .fin neg m e =>
    if m = 0 then let r := rndVal f c (.inf true); (r.1, r.2 ||| fDZ)
    else if neg then (f.nanCode, fNV)
    else if m = 2 ^ m.log2 then
      let k : Int := (m.log2 : Int) + e
      rndVal f c (.fin (k < 0) k.natAbs 0)
    else rndFix f c (log2Fix m e) 0
  | v => rndVal f c v

/-- Newton steps of an integer square root from above. -/
def isqrtLoop (n : Nat) : Nat → Nat → Nat
  | 0, x => x
  | k + 1, x =>
    let y := (x + n / x) / 2
    if y < x then isqrtLoop n k y else x

/-- The integer square root. -/
def isqrt (n : Nat) : Nat := if n = 0 then 0 else isqrtLoop n 800 (2 ^ (n.log2 / 2 + 1))

/-- The square root of `n/d·2^e`, or its reciprocal, rounded: exact up to a sticky bit below. -/
def sqrtRat (f : FloatFmt) (c : Rc) (n d : Nat) (e : Int) : Nat × U32 :=
  let e1 := if e % 2 = 0 then e else e - 1
  let n1 := if e % 2 = 0 then n else 2 * n
  let big := n1 * 2 ^ 400
  let q := big / d
  let s := isqrt q
  let exact := s * s = q && big % d = 0
  rndRat f c false (4 * s + (if exact then 0 else 1)) 4 (e1 / 2 - 200)

/-- `√x` rounded (R218). -/
def sqrtR (f : FloatFmt) (c : Rc) (x : Val) : Nat × U32 :=
  match x with
  | .inf true => (f.nanCode, fNV)
  | .fin neg m e =>
    if m = 0 then rndVal f c x else if neg then (f.nanCode, fNV) else sqrtRat f c m 1 e
  | v => rndVal f c v

/-- `1/√x` rounded (R218). -/
def rsqrtR (f : FloatFmt) (c : Rc) (x : Val) : Nat × U32 :=
  match x with
  | .inf true => (f.nanCode, fNV)
  | .inf false => rndVal f c (.fin false 0 0)
  | .fin neg m e =>
    if m = 0 then let r := rndVal f c (.inf neg); (r.1, r.2 ||| fDZ)
    else if neg then (f.nanCode, fNV) else sqrtRat f c 1 m (-e)
  | v => rndVal f c v

/-- `e^-|x|` in fixed point, 0 when it is below every bit of a result. -/
def expNeg (v : Int) : Int :=
  let r := expFix (-v.natAbs : Int)
  if r.2 < -(prec : Int) then 0 else if 0 ≤ r.2 then r.1 * pow2 r.2 else r.1 / (pow2 (-r.2) : Int)

/-- The logistic function in fixed point. -/
def sigmFix (v : Int) : Int :=
  let t := expNeg v
  if v < 0 then fdiv t (one' + t) else fdiv one' (one' + t)

/-- `σ(x)` rounded (R218). -/
def sigmR (f : FloatFmt) (c : Rc) (x : Val) : Nat × U32 :=
  match x with
  | .inf neg => rndVal f c (.fin false (if neg then 0 else 1) 0)
  | .fin neg m e =>
    if m = 0 then rndVal f c (.fin false 1 (-1))
    else if !(leScaled m e 400 0) then
      (if neg then rndTiny f c false else rndRat f c false (2 ^ 600 - 1) (2 ^ 600) 0)
    else rndFix f c (sigmFix (toFix neg m e)) 0
  | v => rndVal f c v

/-- `tanh x` rounded (R218). -/
def tanhR (f : FloatFmt) (c : Rc) (x : Val) : Nat × U32 :=
  match x with
  | .inf neg => rndVal f c (.fin neg 1 0)
  | .fin neg m e =>
    if m = 0 then rndVal f c x
    else if !(leScaled m e 400 0) then rndRat f c neg (2 ^ 600 - 1) (2 ^ 600) 0
    else
      let t := expNeg (2 * toFix false m e)
      let v := fdiv (one' - t) (one' + t)
      rndFix f c (if neg then -v else v) 0
  | v => rndVal f c v

/-- `x·σ(x)` rounded (R218). -/
def siluR (f : FloatFmt) (c : Rc) (x : Val) : Nat × U32 :=
  match x with
  | .inf true => rndVal f c (.fin true 0 0)
  | .inf false => rndVal f c (.inf false)
  | .fin neg m e =>
    if m = 0 then rndVal f c x
    else if !(leScaled m e 400 0) then
      (if neg then rndTiny f c true else rndRat f c false (m * 2 ^ 600 - 1) (2 ^ 600) e)
    else
      let v := toFix neg m e
      rndFix f c (fmul v (sigmFix v)) 0
  | v => rndVal f c v

/-- `Σ (−1)^n z^(2n+1)/(n!(2n+1))` from term `n` with `t = z^(2n+1)/n!`. -/
def erfSum (z2 : Int) : Nat → Nat → Int → Int
  | 0, _, _ => 0
  | k + 1, n, t => t / (2 * n + 1 : Nat) - erfSum z2 k (n + 1) (fmul t z2 / (n + 1 : Nat))

/-- The square root of a nonnegative fixed-point number. -/
def fsqrt (v : Int) : Int := (isqrt (v.natAbs * 2 ^ prec) : Nat)

/-- The normal distribution function in fixed point: `1/2 + erf(x/√2)/2`. -/
def phiFix (v : Int) : Int :=
  let z := fdiv v (fsqrt (2 * one'))
  one' / 2 + fdiv (erfSum (fmul z z) 900 0 z) (fsqrt pi')

/-- `x·Φ(x)` rounded (R218). -/
def geluR (f : FloatFmt) (c : Rc) (x : Val) : Nat × U32 :=
  match x with
  | .inf true => rndVal f c (.fin true 0 0)
  | .inf false => rndVal f c (.inf false)
  | .fin neg m e =>
    if m = 0 then rndVal f c x
    else if !(leScaled m e 15 0) then
      (if neg then rndTiny f c true else rndRat f c false (m * 2 ^ 600 - 1) (2 ^ 600) e)
    else
      let v := toFix neg m e
      rndFix f c (fmul v (phiFix v)) 0
  | v => rndVal f c v

/-- `Σ (−1)^k x^(2k+i)/(2k+i)!` from the term `t` of index `i`. -/
def trigSum (x2 : Int) : Nat → Nat → Int → Int
  | 0, _, _ => 0
  | n + 1, i, t => t - trigSum x2 n (i + 2) (fmul t x2 / ((i + 1) * (i + 2) : Nat))

/-- The sine of `r`, for `|r| ≤ 1`. -/
def sinSmall (r : Int) : Int := trigSum (fmul r r) 130 1 r
/-- The cosine of `r`, for `|r| ≤ 1`. -/
def cosSmall (r : Int) : Int := trigSum (fmul r r) 130 0 one'

/-- The sine of `x + q·π/2`, with `x` reduced exactly by multiples of π/2 first (R218). -/
def trigR (q : Nat) (f : FloatFmt) (c : Rc) (x : Val) : Nat × U32 :=
  match x with
  | .inf _ => (f.nanCode, fNV)
  | .fin neg m e =>
    if m = 0 then (if q = 0 then rndVal f c x else rndVal f c (.fin false 1 0))
    else
      let v := toFix neg m e
      let h := pi' / 2
      let k := (v + h / 2) / h
      let r := v - k * h
      let s := match ((k + (q : Int)) % 4).toNat with
        | 0 => sinSmall r
        | 1 => cosSmall r
        | 2 => -(sinSmall r)
        | _ => -(cosSmall r)
      rndFix f c s 0
  | v => rndVal f c v

/-- `1/x` rounded (R218). -/
def rcpR (f : FloatFmt) (c : Rc) (x : Val) : Nat × U32 :=
  if x.bad then (f.nanCode, 0#32) else
    let r := rndDiv f c (.fin false 1 0) x
    r

/-- The special function of a vector opcode 0x1C-0x27 (R126, R218). -/
def special (opc : Nat) (f : FloatFmt) (c : Rc) (x : Val) : Nat × U32 :=
  match opc with
  | 0x1C => expR false f c x
  | 0x1D => log2R f c x
  | 0x1E => rcpR f c x
  | 0x1F => rsqrtR f c x
  | 0x20 => sqrtR f c x
  | 0x21 => expR true f c x
  | 0x22 => tanhR f c x
  | 0x23 => sigmR f c x
  | 0x24 => siluR f c x
  | 0x25 => geluR f c x
  | 0x26 => trigR 0 f c x
  | _ => trigR 1 f c x

/-- `2^x` for FP32 codes, RNE, no flags (R267). -/
def exp2F (x : Val) : Val := ofF32 (expR false fp32 rne x).1

end Sys2Proof.Machine
end

