-- ==== Sys2Proof/Machine/Draw.lean ====
section
/-!
DEFINITION. Draw pairs, weights and the merge rule (spec/09 R266-R272), with the exact sums of weights that
the Panner and the verifier compare and take logarithms of.
-/
namespace Sys2Proof.Machine

open Sys2Proof

/-- The empty pair (R266). -/
def emptyPair : U64 := 0xFF800000FFFFFFFF#64

/-- The λ of a pair, as an FP32 code. -/
def pairLam (p : U64) : Nat := p.toNat / 2 ^ 32

/-- The index of a pair. -/
def pairIdx (p : U64) : U32 := p.setWidth 32

/-- A pair of an FP32 code and an index. -/
def mkPair (lam : Nat) (idx : U32) : U64 := BitVec.ofNat 32 lam ++ idx

/-- The value that stands for a poison pair in a merge: its λ is NaN (R266). -/
def poisonPair : U64 := mkPair nan32 0#32

/-- The pair has zero mass: its λ is −∞ (R266). -/
def pairZero (p : U64) : Bool := pairLam p = 0xFF800000

/-- A pair is valid in a merge: its λ is no NaN, and in weighted mode not +∞ (R266). -/
def pairValid (greedy : Bool) (p : U64) : Bool :=
  let v := ofF32 (pairLam p)
  v ≠ .nan && (greedy || v ≠ .inf false)

/-- The modes that a temperature selects (R267). -/
inductive TauMode where
  | weighted | greedy | invalid
  deriving DecidableEq, Repr

/-- The mode of an FP32 temperature (R267). -/
def tauMode (tau : U32) : TauMode :=
  match ofF32 tau.toNat with
  | .fin neg m _ => if m = 0 then .greedy else if neg then .invalid else .weighted
  | .inf false => .weighted
  | _ => .invalid

/-- The FP32 constant L2E (R267). -/
def l2e : Val := ofF32 0x3FB8AA3B

/-- `lam(l, τ)` for a positive τ (R267). -/
def lamOf (l tau : Val) : Val × U32 :=
  match l with
  | .nan => (.inf true, fNV)
  | .poison => (.inf true, fPOI)
  | .inf n => (.inf n, 0#32)
  | .fin _ _ _ =>
    let r := rndDiv fp32 rne (vmul l l2e).1 tau
    (ofF32 r.1, r.2)

/-- The +∞ rule of R267: if a row holds +∞, each +∞ becomes 0 and every other λ becomes −∞. -/
def adjustInf (row : List Val) : List Val :=
  if row.contains (.inf false) then row.map (fun v => if v = .inf false then .fin false 0 0 else .inf true)
  else row

/-- `a − b` of two finite values, as a multiple of `2^-prec`, rounded down, at most 0 for `a ≤ b`. -/
def diffFix (a b : Val) : Int :=
  match (vadd false a b.neg).1 with
  | .fin n m e =>
    let v := toFix false m e
    if n then -(if 0 ≤ e + (prec : Int) || m % pow2 (-(e + (prec : Int))) = 0 then v else v + 1) else v
  | _ => 0

/-- `2^d` in fixed point for `d ≤ 0`, at least one unit: exact for the integers in range, otherwise rounded
down. -/
def exp2Fix (d : Int) : Int :=
  let k := d / one'
  let f := if d % one' = 0 then one' else expFrac (fmul (d - k * one') ln2)
  if k < -((prec : Nat) : Int) then 1 else max 1 (f / ((pow2 (-k) : Nat) : Int))

/-- The largest finite λ of a list; none when every λ is −∞. -/
def maxLam : List Val → Option Val
  | [] => none
  | v :: t =>
    match v, maxLam t with
    | .fin _ _ _, none => some v
    | .fin _ _ _, some w => some (if vlt w v then v else w)
    | _, r => r

/-- The exact mass `Σ 2^λ` relative to `2^m`, in fixed point (log entry 14). -/
def massFix (m : Val) (row : List Val) : Int :=
  row.foldl (fun acc v => match v with | .fin _ _ _ => acc + exp2Fix (diffFix v m) | _ => acc) 0

/-- Every finite λ of the row differs from `m` by an integer of at most `prec`. -/
def allWhole (m : Val) (row : List Val) : Bool :=
  row.all (fun v => match v with
    | .fin _ _ _ => diffFix v m % one' = 0 && -(1100 * one') < diffFix v m
    | _ => true)

/-- `rnd(log2 Σ 2^λ, FP32)` of a row under a rounding code, −∞ for zero mass (R271, R279). The exact case,
in which the sum is a power of two times `2^m`, stands apart. -/
def logMass (c : Rc) (row : List Val) : Nat × U32 :=
  match maxLam row with
  | none => rndVal fp32 c (.inf true)
  | some m =>
    let s := massFix m row
    if allWhole m row && s.toNat = 2 ^ s.toNat.log2 then
      rndVal fp32 c (vadd false m (.fin false (s.toNat.log2 - prec) 0)).1
    else
      let v := (vadd false m (ofFix (max 1 (log2Fix s.toNat (-((prec : Nat) : Int)))))).1
      let r := rndVal fp32 c v
      (r.1, r.2 ||| fNX)

/-- merge(A, B, mode, U) (R271): the pair and the flags EMP, INV and those of its roundings. -/
def mergePair (a b : U64) (greedy : Bool) (u : U32) : U64 × U32 :=
  if !(pairValid greedy a && pairValid greedy b) then (emptyPair, fINV)
  else if pairZero a && pairZero b then (emptyPair, fEMP)
  else if pairZero b then (a, 0#32)
  else if pairZero a then (b, 0#32)
  else
    let va := ofF32 (pairLam a)
    let vb := ofF32 (pairLam b)
    if greedy then
      (if vlt va vb || (veq va vb && (pairIdx b).toNat < (pairIdx a).toNat) then b else a, 0#32)
    else
      let l := logMass { sat := true } [va, vb]
      let p := expR false fp32 rne (vadd false vb (ofF32 l.1).neg).1
      let below := vlt (.fin false u.toNat (-32)) (ofF32 p.1)
      (mkPair l.1 (if below then pairIdx b else pairIdx a), l.2 ||| p.2)

end Sys2Proof.Machine
end

