-- ==== Sys2Proof/Config.lean ====
section
/-!
DEFINITION. What an implementation fixes and the values that the spec leaves open: constants with no body,
so that no statement can rest on one of their values. The uses of each are in the assumption log.
-/
namespace Sys2Proof.Config

/-- A free choice, by its number (log entries 4 and 12). -/
opaque freeBit : Nat → Bool

/-- A free 64-bit value, by its number (log entry 4). -/
opaque freeWord : Nat → U64

/-- The SHA-512 digest of bytes (R397, R402, R419, R420; log entry 13). -/
opaque sha512 : List Byte → BitVec 512

/-- The ECDSA P-521 signature (r, s) of bytes under the module's identity key, 66 bytes each (R420). -/
opaque sign : List Byte → BitVec 1056

/-- The certificate chain of the module's identity key (R402, R420). -/
opaque certificates : List Byte

/-- The ephemeral P-521 key of a session setup, by its number: the private key (R402). -/
opaque ephemeral : Nat → BitVec 528

/-- The public key of a private key, x before y, and the ECDH secret of a private and a public key (R402). -/
opaque publicKey : BitVec 528 → BitVec 1056
opaque ecdh : BitVec 528 → BitVec 1056 → BitVec 528

/-- The nonce of a session setup, by its number (R402). -/
opaque nonce : Nat → BitVec 256

/-- The digest of the boot ROM (R420). -/
opaque romDigest : BitVec 512

/-- The two 32-byte session keys that HKDF-SHA-512 gives for an ECDH secret, the nonces and the two node
identifiers, lower node first (R402). -/
opaque sessionKeys : BitVec 528 → BitVec 512 → BitVec 20 → BitVec 20 → BitVec 512

end Sys2Proof.Config
end

