-- ==== Sys2Proof/Machine/Forms.lean ====
section
/-!
DEFINITION. The operand fields of the words, as the instructions of `Syntax.lean` carry them (spec/03 R78, R85,
R86-R91), the names of the illegal-encoding codes (R93), and what the outside world supplies to a step of the device.
-/
namespace Sys2Proof

/-- The source of a short move (R78, R82, R83): a register or result port, or an immediate with no, one
or two literal words (`l1` the first in address order). -/
inductive Src where
  | reg (unit : BitVec 5) (sel : BitVec 6)
  | imm (low : BitVec 11)
  | imm1 (l1 : BitVec 28) (low : BitVec 11)
  | imm2 (l1 l2 : BitVec 28) (low : BitVec 11)
  deriving DecidableEq, Repr

/-- What every short move carries beside its destination: guard index, guard negation, end of bundle
and source (R77, R78). -/
structure Trig where
  g : BitVec 4
  n : Bool
  e : Bool
  src : Src
  deriving DecidableEq, Repr

/-- An operand specifier (R86). -/
structure Opnd where
  space : BitVec 3
  index : BitVec 6
  rs : BitVec 6
  str : BitVec 6
  deriving DecidableEq, Repr

/-- The fields of a vector word beside its opcode (R85); `u` is false on `vx0`, true on `vx1`. -/
structure VWord where
  g : BitVec 4
  n : Bool
  e : Bool
  u : Bool
  opm : BitVec 4
  rnd : BitVec 4
  cls : BitVec 4
  a : Opnd
  b : Opnd
  d : Opnd
  deriving DecidableEq, Repr

/-- The fields that every engine word shares (R88). -/
structure EngCommon where
  g : BitVec 4
  n : Bool
  e : Bool
  kin0 : BitVec 6
  kin1 : BitVec 6
  kin2 : BitVec 6
  kout : BitVec 6
  stamp : BitVec 32
  rcl : BitVec 4
  aft : BitVec 16
  deriving DecidableEq, Repr

/-- A matrix word (R89). -/
structure MxWord where
  c : EngCommon
  zero : Bool
  surv : Bool
  fmt : BitVec 7
  xa : BitVec 2
  bin : Opnd
  cur : BitVec 2
  es : BitVec 6
  m1 : BitVec 7
  x : Opnd
  wo : BitVec 20
  wa : BitVec 5
  deriving DecidableEq, Repr

/-- A Winze word (R90). -/
structure WzWord where
  c : EngCommon
  wr : BitVec 4
  df : BitVec 7
  dc : BitVec 4
  pm : BitVec 2
  ce : Bool
  ci : Bool
  ck : BitVec 2
  pa : BitVec 5
  xs : BitVec 6
  ls : BitVec 6
  da : BitVec 5
  sa : BitVec 5
  deriving DecidableEq, Repr

/-- A Panner word (R91). -/
structure PanWord where
  c : EngCommon
  xs : BitVec 6
  aa : BitVec 5
  ns : BitVec 6
  row1 : BitVec 7
  ts : BitVec 6
  lg : Opnd
  da : BitVec 5
  deriving DecidableEq, Repr

/-- The three engine ports of a core (R36). -/
inductive EngKind where
  | mx | wz | pan
  deriving DecidableEq, Repr

/-- What the physical steps of a start report (R414): the outcome of each step, and `upTo`, the number
of the last step the start runs before the outside world interrupts it or it goes on in a later step (8 for a start left
alone). `fwGood` says that the signature of the image verifies, `portsUp` and `eth` which Levanter and Ethernet ports train,
`energy` and `idle` are the energies of step 6 in units of 2^-64 J (R417), and `dcc` is the DCC when the last of these steps
ends. -/
structure StartRun where
  retained : Bool
  pllLocks : Bool
  fwGood : Bool
  pcieTrains : Bool
  dieLinkTrains : Bool
  portsUp : BitVec 24
  eth : BitVec 2
  memTrains : Bool
  gradesGood : Bool
  defects : List (BitVec 8)
  energy : Nat
  idle : Nat
  dcc : U64
  upTo : Nat
  deriving DecidableEq, Repr

/-- A firmware image (R419, R420): its version, the digests of the Shiftboss and of the shadow-core code, the digest of
the key that signed it, and whether its signature verifies under that key. -/
structure FwImage where
  version : BitVec 32
  digest : BitVec 512
  shadow : BitVec 512
  key : BitVec 512
  good : Bool
  deriving DecidableEq, Repr

/-- The parameters of a launch queue (R370). `dev` says that the submission ring lies in device memory,
`cdev` that the completion ring does. -/
structure QueueParams where
  ring : U64
  dev : Bool
  entries : Nat
  prio : BitVec 3
  cring : U64
  cdev : Bool
  centries : Nat
  vec : BitVec 11
  deriving DecidableEq, Repr

/-- Where Shiftboss places an accepted launch (R373, R381, R334, R104): the Gallery base in 64 KiB units,
the physical addresses of the launch block and of the code copy, and for each window section its virtual
base and the physical address behind it. -/
structure LoadPlan where
  gbase : Nat
  lblk : Nat
  code : Nat
  wins : List (U64 × Nat)
  deriving DecidableEq, Repr

/-- What a read of a block or line finds (R351, R357): no error, one correctable unit, or more. -/
inductive EccFind where
  | clean | one | more
  deriving DecidableEq, Repr

/-- How a remote copy ended at its destination (R202). -/
inductive RemoteEnd where
  | ok | rpage | link
  deriving DecidableEq, Repr

/-- The payload of a remote copy as it comes over the links (R202, R355): the module and the copy it belongs to, the
launch and the address, the bytes, the descriptor and the metadata of each source block, the kind of checksum and the
value that it starts from. -/
structure Payload where
  node : BitVec 20
  id : Nat
  launch : Nat
  da : U64
  bytes : List (BitVec 8)
  blocks : List (BitVec 16 × Option U64)
  ck : BitVec 2
  start : U32
  began : U64 := 0#64
  deriving DecidableEq, Repr

/-- What the links bring of remote copies (R202, R319, R393): a payload that another module sends here, or the answer to a
copy that this module sent, with the checksum over the bytes written there; `written` is the step at which the writes of a
payload here have performed and its answer is sent. -/
inductive RemoteMsg where
  | payload (p : Payload)
  | answer (id : Nat) (how : RemoteEnd) (sum : U32)
  | written (node : BitVec 20) (id : Nat)
  deriving DecidableEq, Repr

/-- A change of one page-table entry by Shiftboss (R331): the launch whose table it is, a virtual address,
the level of the entry on that address's walk, and the new entry. -/
structure PteChange where
  launch : Nat
  va : U64
  level : Nat
  entry : U64
  deriving DecidableEq, Repr

/-- A message of a collective (R397-R400): a partial from a child or ring predecessor, the result from
the root, an abort, or word that a member became unreachable or that the tables differ. `mask` lists the contributing
entries. -/
inductive CollMsg where
  | part (entry : Nat) (digest : BitVec 512) (mask : List Nat) (data : List (BitVec 8)) (descs : List (BitVec 16))
  | result (digest : BitVec 512) (mask : List Nat) (data : List (BitVec 8)) (descs : List (BitVec 16))
  | abort
  | unreachable
  | mismatch
  deriving DecidableEq, Repr

/-- What a peer sends to set up a session (R402): its node, its ephemeral public key, its nonce and the digest of its
identity key, with the verdict on its certificate chain and signature. `sid` is the identifier of the session. -/
structure PeerHello where
  sid : U32
  node : BitVec 20
  keyDigest : BitVec 512
  pub : BitVec 1056
  nonce : BitVec 256
  signed : Bool
  deriving DecidableEq, Repr

/-- A received session frame (R403): its session, its counter, whether its tag verifies, and what it carries. -/
structure Frame where
  sid : U32
  counter : U64
  tagGood : Bool
  payload : List (BitVec 8)
  deriving DecidableEq, Repr

/-- The on-die storage of a core or cluster in which an uncorrectable error is found (R351). -/
inductive SramKind where
  | scratchpad | tile | accumulator | queue | instruction | trace
  deriving DecidableEq, Repr

/-- What the outside world, Shiftboss or the schedule supplies to a step that has no word: which cluster,
access, queue or register it concerns and the data that comes with it. -/
inductive Input where
  | none
  | start (r : StartRun)
  | image (f : FwImage)
  | die (b : Bool)
  | nonce (n : BitVec 512)
  | verdict (ok : Bool)
  | queue (q : BitVec 4)
  | queueNew (q : BitVec 4) (p : QueueParams)
  | write (q : BitVec 4) (v : U64)
  | reg (off : BitVec 16) (v : U64)
  | submit (q : BitVec 4) (entry : BitVec 512) (plan : LoadPlan)
  | slot (s : BitVec 6)
  | bindTo (s : BitVec 6) (launch team : Nat)
  | resume (s : BitVec 6) (go : Bool)
  | gang (tag : U64) (gsize : Nat) (start : U64)
  | access (id : Nat)
  | perform (id : Nat) (found : EccFind)
  | engine (s : BitVec 6) (core : BitVec 3) (eng : EngKind) (pos : Nat)
  | part (s : BitVec 6) (core : BitVec 3) (pos : Nat) (write : Bool) (n : Nat)
  | remote (m : RemoteMsg)
  | flit (port : BitVec 5) (good : Bool)
  | timing (port : BitVec 5) (node : BitVec 20) (offset : Int)
  | reply (id : U64) (status : Byte)
  | replyRecord (r : BitVec 128)
  | pte (c : PteChange)
  | migrate (launch : Nat) (va : U64) (frame : U64)
  | patrol (mem : BitVec 2) (granule : Nat) (found : EccFind)
  | ring (n : Nat)
  | coll (ring : Nat) (index : U32) (m : CollMsg)
  | hello (p : PeerHello)
  | rekey (sid : U32) (pub : BitVec 1056) (nonce : BitVec 256)
  | frame (f : Frame)
  | digests (l : List (BitVec 512))
  | ringMap (launch : Nat) (crb : U64) (size : U32)
  | route (q : BitVec 4) (pri : Bool) (pasid : BitVec 20)
  | service (req : U64) (reqEntries : Nat) (rep : U64) (repDev : Bool) (repEntries : Nat)
  | govern (s : BitVec 6) (drain : Bool) (rates : List (Nat × U32))
  | sram (cluster : BitVec 6) (core : BitVec 3) (kind : SramKind) (line : Nat) (found : EccFind)
  deriving DecidableEq, Repr

/-- The illegal-encoding codes of R93, by name. -/
inductive Illegal where
  | unit | opcode | selector | reserved | space | twice | triggers | count | literal | noEnd | order
  | inLoop | fileTrigger | rounding | badLiteral | tokenSelf
  deriving DecidableEq, Repr

end Sys2Proof
end

