-- ==== Sys2Proof/Syntax.lean ====
section
/-!
DEFINITION. The syntax of the part: one constructor of `Instr` for each row of the opcode table. Rows
with a word of their own carry the fields of that word (spec/03 R78, R85, R88-R91); the other rows are
steps of the device, and what the outside world supplies to such a step is an `Input` in the state.
-/
namespace Sys2Proof

/-- The rows of the opcode table. -/
inductive Instr where
  | move (du : BitVec 5) (ds : BitVec 6) (t : Trig)
  | sflagWrite (t : Trig)
  | iaAdd (u : Bool) (t : Trig)
  | iaSub (u : Bool) (t : Trig)
  | iaAdds (u : Bool) (t : Trig)
  | iaSubs (u : Bool) (t : Trig)
  | iaAddus (u : Bool) (t : Trig)
  | iaSubus (u : Bool) (t : Trig)
  | iaMin (u : Bool) (t : Trig)
  | iaMax (u : Bool) (t : Trig)
  | iaMinu (u : Bool) (t : Trig)
  | iaMaxu (u : Bool) (t : Trig)
  | iaAnd (u : Bool) (t : Trig)
  | iaOr (u : Bool) (t : Trig)
  | iaXor (u : Bool) (t : Trig)
  | iaShl (u : Bool) (t : Trig)
  | iaShr (u : Bool) (t : Trig)
  | iaSar (u : Bool) (t : Trig)
  | iaRotl (u : Bool) (t : Trig)
  | iaClz (u : Bool) (t : Trig)
  | iaCtz (u : Bool) (t : Trig)
  | iaPopc (u : Bool) (t : Trig)
  | iaExt (u : Bool) (t : Trig)
  | iaExtu (u : Bool) (t : Trig)
  | iaIns (u : Bool) (t : Trig)
  | iaCeq (u : Bool) (t : Trig)
  | iaCne (u : Bool) (t : Trig)
  | iaClt (u : Bool) (t : Trig)
  | iaCle (u : Bool) (t : Trig)
  | iaCltu (u : Bool) (t : Trig)
  | iaCleu (u : Bool) (t : Trig)
  | iaMul (u : Bool) (t : Trig)
  | iaMulh (u : Bool) (t : Trig)
  | iaMulhu (u : Bool) (t : Trig)
  | iaDiv (u : Bool) (t : Trig)
  | iaDivu (u : Bool) (t : Trig)
  | iaRem (u : Bool) (t : Trig)
  | iaRemu (u : Bool) (t : Trig)
  | agAdd (u : Bool) (t : Trig)
  | agSub (u : Bool) (t : Trig)
  | agAddx (u : Bool) (t : Trig)
  | agAnd (u : Bool) (t : Trig)
  | agLtu (u : Bool) (t : Trig)
  | agBnd (u : Bool) (t : Trig)
  | agKv (u : Bool) (t : Trig)
  | agKvmax (u : Bool) (t : Trig)
  | agKvlen (u : Bool) (t : Trig)
  | agKvget (u : Bool) (t : Trig)
  | ctlPbr (t : Trig)
  | ctlBr (t : Trig)
  | ctlCall (t : Trig)
  | ctlRet (t : Trig)
  | ctlLoop (t : Trig)
  | ctlJt (t : Trig)
  | ctlTwait (t : Trig)
  | ctlTpoll (t : Trig)
  | ctlSkip (t : Trig)
  | ctlLbrk (t : Trig)
  | ctlPand (t : Trig)
  | ctlPor (t : Trig)
  | ctlPxor (t : Trig)
  | lsLd (w : BitVec 2) (t : Trig)
  | lsLdn (w : BitVec 2) (t : Trig)
  | lsLdf (w : BitVec 2) (t : Trig)
  | lsLdh (w : BitVec 2) (t : Trig)
  | lsSt (w : BitVec 2) (t : Trig)
  | lsStn (w : BitVec 2) (t : Trig)
  | lsStf (w : BitVec 2) (t : Trig)
  | lsSth (w : BitVec 2) (t : Trig)
  | lsVld (t : Trig)
  | lsVst (t : Trig)
  | lsVldh (t : Trig)
  | lsVsth (t : Trig)
  | lsXlat (t : Trig)
  | lsPreq (t : Trig)
  | lsMeta (t : Trig)
  | lsSetmeta (t : Trig)
  | lsLdd (t : Trig)
  | lsStd (t : Trig)
  | lsFence (t : Trig)
  | lsPst (t : Trig)
  | gaAdd (t : Trig)
  | gaAnd (t : Trig)
  | gaOr (t : Trig)
  | gaXor (t : Trig)
  | gaMaxs (t : Trig)
  | gaMins (t : Trig)
  | gaSwap (t : Trig)
  | gaCas (t : Trig)
  | gaFadd (t : Trig)
  | gaFmax (t : Trig)
  | gaMdraw (t : Trig)
  | gaBar (t : Trig)
  | gaAddFar (t : Trig)
  | gaAndFar (t : Trig)
  | gaOrFar (t : Trig)
  | gaXorFar (t : Trig)
  | gaMaxsFar (t : Trig)
  | gaMinsFar (t : Trig)
  | gaSwapFar (t : Trig)
  | gaCasFar (t : Trig)
  | gaFaddFar (t : Trig)
  | gaFmaxFar (t : Trig)
  | gaMdrawFar (t : Trig)
  | gaBarFar (t : Trig)
  | xcSnd (t : Trig)
  | xcBcs (t : Trig)
  | xcRcv (t : Trig)
  | xcSync (t : Trig)
  | qCfg (t : Trig)
  | qClr (t : Trig)
  | qCnt (t : Trig)
  | qLink (t : Trig)
  | zSet (t : Trig)
  | zRst (t : Trig)
  | zPos (t : Trig)
  | panMerge (t : Trig)
  | panRand (t : Trig)
  | panCtr (t : Trig)
  | panClrf (t : Trig)
  | verCfg (t : Trig)
  | verCand (t : Trig)
  | verChk (t : Trig)
  | verFin (t : Trig)
  | verSetf (t : Trig)
  | verStop (t : Trig)
  | sysHalt (t : Trig)
  | sysTret (t : Trig)
  | sysIfence (t : Trig)
  | sysTrap (t : Trig)
  | sysBrk (t : Trig)
  | sysTmark (t : Trig)
  | sysTarm (t : Trig)
  | sysTfrz (t : Trig)
  | sysTmrs (t : Trig)
  | sysTmrc (t : Trig)
  | sysYield (t : Trig)
  | sysSeed (t : Trig)
  | sysDi (t : Trig)
  | sysEi (t : Trig)
  | vxMov (w : VWord)
  | vxAdd (w : VWord)
  | vxSub (w : VWord)
  | vxMul (w : VWord)
  | vxMulz (w : VWord)
  | vxDiv (w : VWord)
  | vxMin (w : VWord)
  | vxMax (w : VWord)
  | vxAbs (w : VWord)
  | vxNeg (w : VWord)
  | vxAnd (w : VWord)
  | vxOr (w : VWord)
  | vxXor (w : VWord)
  | vxShl (w : VWord)
  | vxShr (w : VWord)
  | vxSar (w : VWord)
  | vxFma (w : VWord)
  | vxFms (w : VWord)
  | vxFnma (w : VWord)
  | vxSel (w : VWord)
  | vxCeq (w : VWord)
  | vxCne (w : VWord)
  | vxClt (w : VWord)
  | vxCle (w : VWord)
  | vxCnan (w : VWord)
  | vxMget (w : VWord)
  | vxMput (w : VWord)
  | vxMcnt (w : VWord)
  | vxExp2 (w : VWord)
  | vxLog2 (w : VWord)
  | vxRcp (w : VWord)
  | vxRsqrt (w : VWord)
  | vxSqrt (w : VWord)
  | vxExp (w : VWord)
  | vxTanh (w : VWord)
  | vxSigm (w : VWord)
  | vxSilu (w : VWord)
  | vxGelu (w : VWord)
  | vxSin (w : VWord)
  | vxCos (w : VWord)
  | vxRsum (w : VWord)
  | vxRmax (w : VWord)
  | vxRmin (w : VWord)
  | vxRmaxi (w : VWord)
  | vxScan (w : VWord)
  | vxTrn (w : VWord)
  | vxGth (w : VWord)
  | vxSct (w : VWord)
  | vxDot (w : VWord)
  | vxCvt (w : VWord)
  | vxBndLip (w : VWord)
  | vxBndCvt (w : VWord)
  | vxBndAdd (w : VWord)
  | vxShape (w : VWord)
  | vxClamp (w : VWord)
  | mxStep (w : MxWord)
  | mxRes (w : MxWord)
  | mxZero (w : MxWord)
  | mxDrain (w : MxWord)
  | mxAssay (w : MxWord)
  | mxCurGet (w : MxWord)
  | mxCurSet (w : MxWord)
  | mxBias (w : MxWord)
  | mxSurvey (w : MxWord)
  | mxLoad (w : MxWord)
  | mxAset (w : MxWord)
  | mxMark (w : MxWord)
  | panDraw (w : PanWord)
  | panShort (w : PanWord)
  | panPen (w : PanWord)
  | panBias (w : PanWord)
  | panScale (w : PanWord)
  | panFull (w : PanWord)
  | panLse (w : PanWord)
  | wzCopy (w : WzWord)
  | wzCopyk (w : WzWord)
  | wzFill (w : WzWord)
  | wzGat2 (w : WzWord)
  | wzSct2 (w : WzWord)
  | wzGat4 (w : WzWord)
  | wzSct4 (w : WzWord)
  | wzExpd (w : WzWord)
  | wzPack (w : WzWord)
  | wzRcopy (w : WzWord)
  | wzMark (w : WzWord)
  | mainPowerApplied
  | hostReset
  | pllLockTimeout
  | firmwareUpdate
  | thermalPreempt
  | thermalRecover
  | thermalTrip
  | thermalTripRecordRead
  | attestationRequest
  | dieLinkLoss
  | dieLinkRetrainRequest
  | dieLinkRetrain
  | queueCreate
  | queueDestroy
  | doorbellWrite
  | submissionTake
  | killWrite
  | killackWrite
  | injectWrite
  | bar0RegisterWrite
  | sliceBoundary
  | escalationWindowExpiry
  | saveComplete
  | bind
  | teamStart
  | gangAgreement
  | gangAgreementTimeout
  | teamRetirement
  | completionRecordWrite
  | bundleIssue
  | holdEnd
  | canaryExpiry
  | memoryReplyArrival
  | resultCompletion
  | xcArrival
  | trapEntry
  | timerFire
  | accessLeave
  | accessAdvance
  | accessPerform
  | engineCommandStart
  | engineCommandComplete
  | remoteCopyPayload
  | linkFlitReceive
  | linkAckTimeout
  | timingMessage
  | dccSynchronised
  | pageReply
  | priResponse
  | priRequestSend
  | pageRequestTimeout
  | pageTableChange
  | migrationStart
  | firebossRead
  | firebossWrite
  | collectiveDescriptorTake
  | collectiveMessage
  | quorumClose
  | sessionSetup
  | sessionRekey
  | sessionFrameReceive
  | mainPowerRemoved
  | debuggerResume
  | pageRequestRouteSelect
  | allowListInstall
  | collectiveRingMap
  deriving DecidableEq, Repr

end Sys2Proof
end

