-- ==== Sys2Proof/Machine/Legal.lean ====
section
/-!
DEFINITION. Which words are legal (spec/03 R92, R93; spec/04 R112-R134): the register, port and opcode
tables, the operand spaces of each operation, and the list of illegal-encoding codes that apply to one
decoded word.
-/
namespace Sys2Proof.Machine

open Sys2Proof

/-- The numbers of R93. -/
def illegalCode : Illegal → Nat
  | .unit => 1 | .opcode => 2 | .selector => 3 | .reserved => 4 | .space => 5 | .twice => 6
  | .triggers => 7 | .count => 8 | .literal => 9 | .noEnd => 10 | .order => 11 | .inLoop => 12
  | .fileTrigger => 13 | .rounding => 14 | .badLiteral => 15 | .tokenSelf => 16

/-- The opcode of a vector word (R126), with its three fields. -/
def vxOf : Instr → Option (Nat × VWord)
  | .vxMov w => some (0x00, w)
  | .vxAdd w => some (0x01, w)
  | .vxSub w => some (0x02, w)
  | .vxMul w => some (0x03, w)
  | .vxMulz w => some (0x04, w)
  | .vxDiv w => some (0x05, w)
  | .vxMin w => some (0x06, w)
  | .vxMax w => some (0x07, w)
  | .vxAbs w => some (0x08, w)
  | .vxNeg w => some (0x09, w)
  | .vxAnd w => some (0x0A, w)
  | .vxOr w => some (0x0B, w)
  | .vxXor w => some (0x0C, w)
  | .vxShl w => some (0x0D, w)
  | .vxShr w => some (0x0E, w)
  | .vxSar w => some (0x0F, w)
  | .vxFma w => some (0x10, w)
  | .vxFms w => some (0x11, w)
  | .vxFnma w => some (0x12, w)
  | .vxSel w => some (0x13, w)
  | .vxCeq w => some (0x14, w)
  | .vxCne w => some (0x15, w)
  | .vxClt w => some (0x16, w)
  | .vxCle w => some (0x17, w)
  | .vxCnan w => some (0x18, w)
  | .vxMget w => some (0x19, w)
  | .vxMput w => some (0x1A, w)
  | .vxMcnt w => some (0x1B, w)
  | .vxExp2 w => some (0x1C, w)
  | .vxLog2 w => some (0x1D, w)
  | .vxRcp w => some (0x1E, w)
  | .vxRsqrt w => some (0x1F, w)
  | .vxSqrt w => some (0x20, w)
  | .vxExp w => some (0x21, w)
  | .vxTanh w => some (0x22, w)
  | .vxSigm w => some (0x23, w)
  | .vxSilu w => some (0x24, w)
  | .vxGelu w => some (0x25, w)
  | .vxSin w => some (0x26, w)
  | .vxCos w => some (0x27, w)
  | .vxRsum w => some (0x28, w)
  | .vxRmax w => some (0x29, w)
  | .vxRmin w => some (0x2A, w)
  | .vxRmaxi w => some (0x2B, w)
  | .vxScan w => some (0x2C, w)
  | .vxTrn w => some (0x2D, w)
  | .vxGth w => some (0x2E, w)
  | .vxSct w => some (0x2F, w)
  | .vxDot w => some (0x30, w)
  | .vxCvt w => some (0x31, w)
  | .vxBndLip w => some (0x32, w)
  | .vxBndCvt w => some (0x33, w)
  | .vxBndAdd w => some (0x34, w)
  | .vxShape w => some (0x35, w)
  | .vxClamp w => some (0x36, w)
  | _ => none

/-- The opcode of a matrix word (R127). -/
def mxOf : Instr → Option (Nat × MxWord)
  | .mxStep w => some (0x00, w)
  | .mxRes w => some (0x01, w)
  | .mxZero w => some (0x02, w)
  | .mxDrain w => some (0x03, w)
  | .mxAssay w => some (0x04, w)
  | .mxCurGet w => some (0x05, w)
  | .mxCurSet w => some (0x06, w)
  | .mxBias w => some (0x07, w)
  | .mxSurvey w => some (0x08, w)
  | .mxLoad w => some (0x09, w)
  | .mxAset w => some (0x0A, w)
  | .mxMark w => some (0x0B, w)
  | _ => none

/-- The opcode of a Winze word (R131). -/
def wzOf : Instr → Option (Nat × WzWord)
  | .wzCopy w => some (0x00, w)
  | .wzCopyk w => some (0x01, w)
  | .wzFill w => some (0x02, w)
  | .wzGat2 w => some (0x03, w)
  | .wzSct2 w => some (0x04, w)
  | .wzGat4 w => some (0x05, w)
  | .wzSct4 w => some (0x06, w)
  | .wzExpd w => some (0x07, w)
  | .wzPack w => some (0x08, w)
  | .wzRcopy w => some (0x09, w)
  | .wzMark w => some (0x0A, w)
  | _ => none

/-- The opcode of a Panner engine word (R128). -/
def panOf : Instr → Option (Nat × PanWord)
  | .panDraw w => some (0x00, w)
  | .panShort w => some (0x01, w)
  | .panPen w => some (0x02, w)
  | .panBias w => some (0x03, w)
  | .panScale w => some (0x04, w)
  | .panFull w => some (0x05, w)
  | .panLse w => some (0x06, w)
  | _ => none

/-- The destination half of a short move (R78): T, DUNIT, DSEL, and what every short move carries. -/
def shortOf : Instr → Option (Bool × BitVec 5 × BitVec 6 × Trig)
  | .move du ds t => some (false, du, ds, t)
  | .sflagWrite t => some (false, 0x18#5, 0x03#6, t)
  | .iaAdd u t => some (true, if u then 0x09#5 else 0x08#5, 0x00#6, t)
  | .iaSub u t => some (true, if u then 0x09#5 else 0x08#5, 0x01#6, t)
  | .iaAdds u t => some (true, if u then 0x09#5 else 0x08#5, 0x02#6, t)
  | .iaSubs u t => some (true, if u then 0x09#5 else 0x08#5, 0x03#6, t)
  | .iaAddus u t => some (true, if u then 0x09#5 else 0x08#5, 0x04#6, t)
  | .iaSubus u t => some (true, if u then 0x09#5 else 0x08#5, 0x05#6, t)
  | .iaMin u t => some (true, if u then 0x09#5 else 0x08#5, 0x06#6, t)
  | .iaMax u t => some (true, if u then 0x09#5 else 0x08#5, 0x07#6, t)
  | .iaMinu u t => some (true, if u then 0x09#5 else 0x08#5, 0x08#6, t)
  | .iaMaxu u t => some (true, if u then 0x09#5 else 0x08#5, 0x09#6, t)
  | .iaAnd u t => some (true, if u then 0x09#5 else 0x08#5, 0x0A#6, t)
  | .iaOr u t => some (true, if u then 0x09#5 else 0x08#5, 0x0B#6, t)
  | .iaXor u t => some (true, if u then 0x09#5 else 0x08#5, 0x0C#6, t)
  | .iaShl u t => some (true, if u then 0x09#5 else 0x08#5, 0x0D#6, t)
  | .iaShr u t => some (true, if u then 0x09#5 else 0x08#5, 0x0E#6, t)
  | .iaSar u t => some (true, if u then 0x09#5 else 0x08#5, 0x0F#6, t)
  | .iaRotl u t => some (true, if u then 0x09#5 else 0x08#5, 0x10#6, t)
  | .iaClz u t => some (true, if u then 0x09#5 else 0x08#5, 0x11#6, t)
  | .iaCtz u t => some (true, if u then 0x09#5 else 0x08#5, 0x12#6, t)
  | .iaPopc u t => some (true, if u then 0x09#5 else 0x08#5, 0x13#6, t)
  | .iaExt u t => some (true, if u then 0x09#5 else 0x08#5, 0x14#6, t)
  | .iaExtu u t => some (true, if u then 0x09#5 else 0x08#5, 0x15#6, t)
  | .iaIns u t => some (true, if u then 0x09#5 else 0x08#5, 0x16#6, t)
  | .iaCeq u t => some (true, if u then 0x09#5 else 0x08#5, 0x17#6, t)
  | .iaCne u t => some (true, if u then 0x09#5 else 0x08#5, 0x18#6, t)
  | .iaClt u t => some (true, if u then 0x09#5 else 0x08#5, 0x19#6, t)
  | .iaCle u t => some (true, if u then 0x09#5 else 0x08#5, 0x1A#6, t)
  | .iaCltu u t => some (true, if u then 0x09#5 else 0x08#5, 0x1B#6, t)
  | .iaCleu u t => some (true, if u then 0x09#5 else 0x08#5, 0x1C#6, t)
  | .iaMul u t => some (true, if u then 0x09#5 else 0x08#5, 0x20#6, t)
  | .iaMulh u t => some (true, if u then 0x09#5 else 0x08#5, 0x21#6, t)
  | .iaMulhu u t => some (true, if u then 0x09#5 else 0x08#5, 0x22#6, t)
  | .iaDiv u t => some (true, if u then 0x09#5 else 0x08#5, 0x23#6, t)
  | .iaDivu u t => some (true, if u then 0x09#5 else 0x08#5, 0x24#6, t)
  | .iaRem u t => some (true, if u then 0x09#5 else 0x08#5, 0x25#6, t)
  | .iaRemu u t => some (true, if u then 0x09#5 else 0x08#5, 0x26#6, t)
  | .agAdd u t => some (true, if u then 0x0B#5 else 0x0A#5, 0x00#6, t)
  | .agSub u t => some (true, if u then 0x0B#5 else 0x0A#5, 0x01#6, t)
  | .agAddx u t => some (true, if u then 0x0B#5 else 0x0A#5, 0x02#6, t)
  | .agAnd u t => some (true, if u then 0x0B#5 else 0x0A#5, 0x03#6, t)
  | .agLtu u t => some (true, if u then 0x0B#5 else 0x0A#5, 0x04#6, t)
  | .agBnd u t => some (true, if u then 0x0B#5 else 0x0A#5, 0x05#6, t)
  | .agKv u t => some (true, if u then 0x0B#5 else 0x0A#5, 0x06#6, t)
  | .agKvmax u t => some (true, if u then 0x0B#5 else 0x0A#5, 0x07#6, t)
  | .agKvlen u t => some (true, if u then 0x0B#5 else 0x0A#5, 0x08#6, t)
  | .agKvget u t => some (true, if u then 0x0B#5 else 0x0A#5, 0x09#6, t)
  | .ctlPbr t => some (true, 0x0D#5, 0x00#6, t)
  | .ctlBr t => some (true, 0x0D#5, 0x01#6, t)
  | .ctlCall t => some (true, 0x0D#5, 0x02#6, t)
  | .ctlRet t => some (true, 0x0D#5, 0x03#6, t)
  | .ctlLoop t => some (true, 0x0D#5, 0x04#6, t)
  | .ctlJt t => some (true, 0x0D#5, 0x05#6, t)
  | .ctlTwait t => some (true, 0x0D#5, 0x06#6, t)
  | .ctlTpoll t => some (true, 0x0D#5, 0x07#6, t)
  | .ctlSkip t => some (true, 0x0D#5, 0x08#6, t)
  | .ctlLbrk t => some (true, 0x0D#5, 0x09#6, t)
  | .ctlPand t => some (true, 0x0D#5, 0x0A#6, t)
  | .ctlPor t => some (true, 0x0D#5, 0x0B#6, t)
  | .ctlPxor t => some (true, 0x0D#5, 0x0C#6, t)
  | .lsLd w t => some (true, 0x0C#5, 0x00#6 + w.setWidth 6, t)
  | .lsLdn w t => some (true, 0x0C#5, 0x04#6 + w.setWidth 6, t)
  | .lsLdf w t => some (true, 0x0C#5, 0x08#6 + w.setWidth 6, t)
  | .lsLdh w t => some (true, 0x0C#5, 0x0C#6 + w.setWidth 6, t)
  | .lsSt w t => some (true, 0x0C#5, 0x10#6 + w.setWidth 6, t)
  | .lsStn w t => some (true, 0x0C#5, 0x14#6 + w.setWidth 6, t)
  | .lsStf w t => some (true, 0x0C#5, 0x18#6 + w.setWidth 6, t)
  | .lsSth w t => some (true, 0x0C#5, 0x1C#6 + w.setWidth 6, t)
  | .lsVld t => some (true, 0x0C#5, 0x20#6, t)
  | .lsVst t => some (true, 0x0C#5, 0x21#6, t)
  | .lsVldh t => some (true, 0x0C#5, 0x22#6, t)
  | .lsVsth t => some (true, 0x0C#5, 0x23#6, t)
  | .lsXlat t => some (true, 0x0C#5, 0x24#6, t)
  | .lsPreq t => some (true, 0x0C#5, 0x25#6, t)
  | .lsMeta t => some (true, 0x0C#5, 0x26#6, t)
  | .lsSetmeta t => some (true, 0x0C#5, 0x27#6, t)
  | .lsLdd t => some (true, 0x0C#5, 0x28#6, t)
  | .lsStd t => some (true, 0x0C#5, 0x29#6, t)
  | .lsFence t => some (true, 0x0C#5, 0x2A#6, t)
  | .lsPst t => some (true, 0x0C#5, 0x2B#6, t)
  | .gaAdd t => some (true, 0x0F#5, 0x00#6, t)
  | .gaAnd t => some (true, 0x0F#5, 0x01#6, t)
  | .gaOr t => some (true, 0x0F#5, 0x02#6, t)
  | .gaXor t => some (true, 0x0F#5, 0x03#6, t)
  | .gaMaxs t => some (true, 0x0F#5, 0x04#6, t)
  | .gaMins t => some (true, 0x0F#5, 0x05#6, t)
  | .gaSwap t => some (true, 0x0F#5, 0x06#6, t)
  | .gaCas t => some (true, 0x0F#5, 0x07#6, t)
  | .gaFadd t => some (true, 0x0F#5, 0x08#6, t)
  | .gaFmax t => some (true, 0x0F#5, 0x09#6, t)
  | .gaMdraw t => some (true, 0x0F#5, 0x0A#6, t)
  | .gaBar t => some (true, 0x0F#5, 0x0B#6, t)
  | .gaAddFar t => some (true, 0x0F#5, 0x20#6, t)
  | .gaAndFar t => some (true, 0x0F#5, 0x21#6, t)
  | .gaOrFar t => some (true, 0x0F#5, 0x22#6, t)
  | .gaXorFar t => some (true, 0x0F#5, 0x23#6, t)
  | .gaMaxsFar t => some (true, 0x0F#5, 0x24#6, t)
  | .gaMinsFar t => some (true, 0x0F#5, 0x25#6, t)
  | .gaSwapFar t => some (true, 0x0F#5, 0x26#6, t)
  | .gaCasFar t => some (true, 0x0F#5, 0x27#6, t)
  | .gaFaddFar t => some (true, 0x0F#5, 0x28#6, t)
  | .gaFmaxFar t => some (true, 0x0F#5, 0x29#6, t)
  | .gaMdrawFar t => some (true, 0x0F#5, 0x2A#6, t)
  | .gaBarFar t => some (true, 0x0F#5, 0x2B#6, t)
  | .xcSnd t => some (true, 0x0E#5, 0x00#6, t)
  | .xcBcs t => some (true, 0x0E#5, 0x01#6, t)
  | .xcRcv t => some (true, 0x0E#5, 0x02#6, t)
  | .xcSync t => some (true, 0x0E#5, 0x03#6, t)
  | .qCfg t => some (true, 0x16#5, 0x00#6, t)
  | .qClr t => some (true, 0x16#5, 0x01#6, t)
  | .qCnt t => some (true, 0x16#5, 0x02#6, t)
  | .qLink t => some (true, 0x16#5, 0x03#6, t)
  | .zSet t => some (true, 0x17#5, 0x00#6, t)
  | .zRst t => some (true, 0x17#5, 0x01#6, t)
  | .zPos t => some (true, 0x17#5, 0x02#6, t)
  | .panMerge t => some (true, 0x13#5, 0x20#6, t)
  | .panRand t => some (true, 0x13#5, 0x21#6, t)
  | .panCtr t => some (true, 0x13#5, 0x22#6, t)
  | .panClrf t => some (true, 0x13#5, 0x23#6, t)
  | .verCfg t => some (true, 0x14#5, 0x00#6, t)
  | .verCand t => some (true, 0x14#5, 0x01#6, t)
  | .verChk t => some (true, 0x14#5, 0x02#6, t)
  | .verFin t => some (true, 0x14#5, 0x03#6, t)
  | .verSetf t => some (true, 0x14#5, 0x04#6, t)
  | .verStop t => some (true, 0x14#5, 0x05#6, t)
  | .sysHalt t => some (true, 0x18#5, 0x00#6, t)
  | .sysTret t => some (true, 0x18#5, 0x01#6, t)
  | .sysIfence t => some (true, 0x18#5, 0x02#6, t)
  | .sysTrap t => some (true, 0x18#5, 0x03#6, t)
  | .sysBrk t => some (true, 0x18#5, 0x04#6, t)
  | .sysTmark t => some (true, 0x18#5, 0x05#6, t)
  | .sysTarm t => some (true, 0x18#5, 0x06#6, t)
  | .sysTfrz t => some (true, 0x18#5, 0x07#6, t)
  | .sysTmrs t => some (true, 0x18#5, 0x08#6, t)
  | .sysTmrc t => some (true, 0x18#5, 0x09#6, t)
  | .sysYield t => some (true, 0x18#5, 0x0A#6, t)
  | .sysSeed t => some (true, 0x18#5, 0x0B#6, t)
  | .sysDi t => some (true, 0x18#5, 0x0C#6, t)
  | .sysEi t => some (true, 0x18#5, 0x0D#6, t)
  | _ => none

/-- A unit identifier that R79 reserves. -/
def unitReserved (u : Nat) : Bool := (0x05 ≤ u && u ≤ 0x07) || 0x19 ≤ u

/-- How many registers a register-file identifier names (R80), 0 for a function unit. -/
def fileSize (u : Nat) : Nat :=
  match u with
  | 0 => 64 | 1 => 32 | 2 => 32 | 3 => 28 | 4 => 64
  | _ => 0

/-- A result port or readable control register (R114, R123). -/
def isResult (u s : Nat) : Bool :=
  match u with
  | 0x08 | 0x09 | 0x0A | 0x0B | 0x0D | 0x16 | 0x17 => s == 0
  | 0x0C => s ≤ 3
  | 0x0E | 0x0F | 0x13 | 0x14 => s ≤ 1
  | 0x18 => s ≤ 10
  | _ => false

/-- An operand port or writable control register (R114, R123). -/
def isOperand (u s : Nat) : Bool :=
  match u with
  | 0x08 | 0x09 => s ≤ 1
  | 0x0A | 0x0B => s ≤ 5
  | 0x0C => s ≤ 3
  | 0x0D | 0x13 | 0x17 => s == 0
  | 0x0E => s ≤ 1
  | 0x0F | 0x14 | 0x16 => s ≤ 2
  | 0x18 => s == 3 || s == 4 || s == 5 || s == 7 || s == 10
  | _ => false

/-- The codes of a move's source (R80, R83, R114, R133). -/
def srcCodes : Src → List Illegal
  | .reg u s =>
    if unitReserved u.toNat then [.unit]
    else if fileSize u.toNat ≠ 0 then (if s.toNat < fileSize u.toNat then [] else [.selector])
    else if isResult u.toNat s.toNat then [] else [.selector]
  | .imm _ => []
  | .imm1 _ _ => []
  | .imm2 _ l2 _ => if l2.toNat < 2 ^ 25 then [] else [.reserved]

/-- The codes of a destination that is no trigger (R29, R80, R114, R123, R133). -/
def destCodes (u s : Nat) : List Illegal :=
  if unitReserved u then [.unit]
  else if u = 4 then [.fileTrigger]
  else if fileSize u ≠ 0 then (if s < fileSize u then [] else [.selector])
  else if isOperand u s then [] else [.selector]

/-- The codes of a trigger whose opcode no table lists (R80, R112, R133). -/
def noTrigCodes (u : Nat) : List Illegal :=
  if unitReserved u then [.unit] else if fileSize u ≠ 0 then [.fileTrigger] else [.opcode]

/-- `c` when `b` holds. -/
def codeIf (b : Bool) (c : Illegal) : List Illegal := if b then [c] else []

/-- An operand specifier outside the table of R86. -/
def opndBad (o : Opnd) : Bool :=
  let i := o.index.toNat
  let flat := o.rs = 0#6 && o.str = 0#6
  match o.space.toNat with
  | 0 => !(i = 0 && flat)
  | 1 | 4 | 5 => 32 ≤ i
  | 2 => 16 ≤ i || !flat
  | 3 => 8 ≤ i || !flat
  | 6 => 8 ≤ i
  | _ => !flat

/-- An operand whose space is not among those permitted, or whose specifier is bad (code 5). -/
def opndCodes (allowed : List Nat) (o : Opnd) : List Illegal :=
  codeIf (!(allowed.contains o.space.toNat) || opndBad o) .space

/-- A bound vector or assay image must have RS = 0 and STR = 1 in spaces 1, 4 and 5 (R225, R234). -/
def boundCodes (o : Opnd) : List Illegal :=
  codeIf ((o.space = 1#3 || o.space = 4#3 || o.space = 5#3) && !(o.rs = 0#6 && o.str = 1#6)) .space

/-- The operand spaces that a vector operation permits for A, B and D (R208). -/
def vxSpaces (opc : Nat) : List Nat × List Nat × List Nat :=
  let any := [1, 2, 3, 4, 5, 6, 7]
  let out := [1, 2, 4, 5]
  let rw := [1, 4, 5]
  if opc = 0x00 || opc = 0x08 || opc = 0x09 || (0x1C ≤ opc && opc ≤ 0x27) then (any, [0], out)
  else if (0x01 ≤ opc && opc ≤ 0x07) || (0x0A ≤ opc && opc ≤ 0x0F) || opc = 0x13 then (any, any, out)
  else if (0x10 ≤ opc && opc ≤ 0x12) || opc = 0x36 then (any, any, rw)
  else if 0x14 ≤ opc && opc ≤ 0x17 then (any, any, [0])
  else if opc = 0x18 || opc = 0x1A then (any, [0], [0])
  else if opc = 0x19 || opc = 0x1B then ([0], [0], out)
  else if (0x28 ≤ opc && opc ≤ 0x2D) then (any, [0], out)
  else if opc = 0x30 || opc = 0x2E then (any, any, out)
  else if opc = 0x2F then (any, any, rw)
  else if opc = 0x31 || opc = 0x32 then (any, [7], out)
  else if opc = 0x33 || opc = 0x34 then (any, any, out)
  else ([7], [0], [0])

/-- The operation takes the OPM family of arithmetic (R125, R206). -/
def vxArith (opc : Nat) : Bool :=
  (0x01 ≤ opc && opc ≤ 0x09) || (0x10 ≤ opc && opc ≤ 0x12) || (0x1C ≤ opc && opc ≤ 0x2C) ||
    opc = 0x30 || opc = 0x36

/-- A special function (R218). -/
def vxSpecial (opc : Nat) : Bool := 0x1C ≤ opc && opc ≤ 0x27

/-- OPM names a mask (R125). -/
def vxMasked (opc : Nat) : Bool := 0x13 ≤ opc && opc ≤ 0x1B

/-- The operation rounds (column R of R126). -/
def vxRounds (opc : Nat) : Bool :=
  (0x01 ≤ opc && opc ≤ 0x05) || (0x10 ≤ opc && opc ≤ 0x12) || (0x1C ≤ opc && opc ≤ 0x2A) ||
    opc = 0x2C || (0x30 ≤ opc && opc ≤ 0x34)

/-- The codes of a vector word beside those of its raw bits (R85, R125, R126, R208, R225). -/
def vxCodes (opc : Nat) (w : VWord) : List Illegal :=
  let mem (o : Opnd) := o.space = 4#3 || o.space = 5#3
  let sp := vxSpaces opc
  codeIf (w.cls ≠ 0#4 && !(mem w.a || mem w.b || mem w.d)) .reserved ++
  codeIf (if vxArith opc then (4 ≤ w.opm.toNat || (vxSpecial opc && 2 ≤ w.opm.toNat))
    else !(vxMasked opc) && w.opm ≠ 0#4) .reserved ++
  (if vxRounds opc then codeIf (5 ≤ w.rnd.toNat % 8) .rounding else codeIf (w.rnd ≠ 0#4) .reserved) ++
  opndCodes sp.1 w.a ++ opndCodes sp.2.1 w.b ++ opndCodes sp.2.2 w.d ++
  (if 0x32 ≤ opc && opc ≤ 0x34 then boundCodes w.a ++ boundCodes w.d else []) ++
  (if opc = 0x34 then boundCodes w.b else [])

/-- The code of an engine word whose produced token is one it consumes (R35). -/
def tokenCodes (c : EngCommon) : List Illegal :=
  codeIf (c.kout ≠ 0#6 && (c.kout = c.kin0 || c.kout = c.kin1 || c.kout = c.kin2)) .tokenSelf

/-- A binary8 format code (R49). -/
def isB8 (f : Nat) : Bool := f < 0x20 && f % 8 ≠ 0

/-- The empty operand specifier. -/
def noOpnd : Opnd := { space := 0#3, index := 0#6, rs := 0#6, str := 0#6 }

/-- The codes of a matrix word (R127, R234, R235). -/
def mxCodes (opc : Nat) (w : MxWord) : List Illegal :=
  let step := opc = 0x00 || opc = 0x01
  let tile := step || opc = 0x08
  let rows := tile || opc = 0x03 || opc = 0x07 || opc = 0x09
  let wide := isB8 w.fmt.toNat || [0x20, 0x21, 0x22, 0x28, 0x29, 0x2B, 0x2C].contains w.fmt.toNat
  let nar := isB8 w.fmt.toNat || [0x20, 0x21, 0x28, 0x29].contains w.fmt.toNat
  let zeroIf (b : Bool) := codeIf b .reserved
  tokenCodes w.c ++
  zeroIf (!step && (w.zero || w.surv)) ++
  zeroIf (!tile && (w.wo ≠ 0#20 || w.wa ≠ 0#5)) ++
  zeroIf (!rows && w.m1 ≠ 0#7) ++
  zeroIf (!(step || opc = 0x03 || opc = 0x06) && w.es ≠ 0#6) ++
  zeroIf (!(tile || opc = 0x02 || opc = 0x05 || opc = 0x06) && w.cur ≠ 0#2) ++
  zeroIf ((opc = 0x05 || opc = 0x06 || opc = 0x0B) && w.xa ≠ 0#2) ++
  zeroIf (w.fmt ≠ 0#7 && !(if tile then nar else if rows then wide else false)) ++
  (if step then opndCodes [1, 4, 5] w.x
   else if opc = 0x03 then opndCodes [1, 2, 4, 5] w.x
   else if opc = 0x04 || opc = 0x0A then opndCodes [1, 4, 5] w.x ++ boundCodes w.x
   else if opc = 0x07 then opndCodes [1, 4, 5, 7] w.x
   else if opc = 0x08 || opc = 0x09 then opndCodes [1, 4, 5] w.x
   else codeIf (w.x ≠ noOpnd) .reserved) ++
  (if opc = 0x00 then opndCodes [0, 1, 4, 5, 7] w.bin ++ boundCodes w.bin
   else if opc = 0x01 then opndCodes [0] w.bin
   else if opc = 0x08 then opndCodes [1, 4, 5] w.bin ++ boundCodes w.bin
   else codeIf (w.bin ≠ noOpnd) .reserved)

/-- The codes of a Panner engine word (R274). -/
def panCodes (opc : Nat) (w : PanWord) : List Illegal :=
  let logits := opc = 0x02 || opc = 0x03 || opc = 0x04
  tokenCodes w.c ++
  codeIf (logits && w.da ≠ 0#5) .reserved ++
  codeIf (logits && w.ts ≠ 0#6) .reserved ++
  codeIf (!(opc = 0x02 || opc = 0x03) && w.aa ≠ 0#5) .reserved ++
  codeIf (!(opc = 0x01 || logits) && w.xs ≠ 0#6) .reserved ++
  opndCodes [1, 4, 5] w.lg

/-- The command reads WR (R131). -/
def wzConverts (opc : Nat) : Bool :=
  opc = 0x00 || opc = 0x01 || opc = 0x03 || opc = 0x05 || opc = 0x08

/-- The codes of a Winze word (R90, R131, R191). -/
def wzCodes (opc : Nat) (w : WzWord) : List Illegal :=
  let zeroIf (b : Bool) := codeIf b .reserved
  let noCk := w.ck ≠ 0#2 || w.ci || w.ce
  tokenCodes w.c ++
  zeroIf (w.ck = 3#2 || w.pm = 3#2) ++
  (if wzConverts opc then
    codeIf (w.wr.toNat % 8 = 4) .reserved ++ codeIf (5 ≤ w.wr.toNat % 8) .rounding else []) ++
  (match opc with
   | 0x00 => zeroIf (noCk || w.pa ≠ 0#5)
   | 0x01 => zeroIf (w.pm ≠ 0#2 || w.pa ≠ 0#5 || w.ck = 0#2)
   | 0x02 => zeroIf (w.sa ≠ 0#5 || noCk || w.pm ≠ 0#2 || w.pa ≠ 0#5 || w.df ≠ 0#7)
   | 0x03 | 0x05 => zeroIf noCk
   | 0x04 | 0x06 => zeroIf (noCk || w.df ≠ 0#7)
   | 0x07 => zeroIf (noCk || w.pm ≠ 0#2 || w.pa ≠ 0#5 || w.df ≠ 0#7)
   | 0x08 => zeroIf (noCk || w.pm ≠ 0#2 || w.pa ≠ 0#5)
   | 0x09 => zeroIf (w.pm ≠ 0#2 || w.pa ≠ 0#5 || w.df ≠ 0#7)
   | _ => zeroIf (w.wr ≠ 0#4 || w.df ≠ 0#7 || w.dc ≠ 0#4 || w.pm ≠ 0#2 || noCk || w.pa ≠ 0#5 ||
       w.xs ≠ 0#6 || w.ls ≠ 0#6 || w.da ≠ 0#5 || w.sa ≠ 0#5))

/-- Every code of R93 that applies to one word by itself. -/
def wordCodes (i : Instr) : List Illegal :=
  match shortOf i with
  | some (trig, du, ds, t) =>
    srcCodes t.src ++ (if trig then [] else destCodes du.toNat ds.toNat)
  | none =>
    match vxOf i with
    | some (opc, w) => vxCodes opc w
    | none =>
      match mxOf i with
      | some (opc, w) => mxCodes opc w
      | none =>
        match panOf i with
        | some (opc, w) => panCodes opc w
        | none =>
          match wzOf i with
          | some (opc, w) => wzCodes opc w
          | none => []

/-- A row that has a word of its own. -/
def isWord (i : Instr) : Bool :=
  (shortOf i).isSome || (vxOf i).isSome || (mxOf i).isSome || (panOf i).isSome || (wzOf i).isSome

end Sys2Proof.Machine
end

