-- ==== Sys2Proof/WellFormed.lean ====
section
/-!
DEFINITION. Well-formed instructions: those to which no illegal-encoding code of R93 applies by
themselves, in the one spelling that the encoding has for them.
-/
namespace Sys2Proof

/-- A `move` names no opcode of its own row: the sticky flag register is written by `sflagWrite`. -/
def Instr.spelled : Instr → Bool
  | .move du ds _ => !(du = 0x18#5 && ds = 3#6)
  | _ => true

/-- The instruction has a word, is legal by itself (R92, R93) and is spelled as its row. -/
def Instr.wf (i : Instr) : Bool :=
  Machine.isWord i && (Machine.wordCodes i).isEmpty && i.spelled

end Sys2Proof
end

