-- ==== Sys2Proof/Decode.lean ====
section
/-!
DEFINITION. Decoding and encoding: words to instructions and back (spec/03 R77-R91), bundles out of
instruction memory (R74, R75), and the illegal-encoding codes of a bundle (R92-R94).
-/
namespace Sys2Proof

open Machine

/-- The bits `lo` up to `lo + len - 1` of a word. -/
def bits {w : Nat} (x : BitVec w) (lo len : Nat) : BitVec len := x.extractLsb' lo len

/-- One bit of a word. -/
def bit {w : Nat} (x : BitVec w) (i : Nat) : Bool := x.getLsbD i

/-- The class of a word (R77). -/
def classOf (p : U32) : Nat := (bits p 0 2).toNat

/-- The parcels a word of a class takes (R77). -/
def parcelsOf (cls : Nat) : Nat :=
  match cls with
  | 1 => 3
  | 2 => 6
  | _ => 1

/-- The opcodes of unit 0x08 in short form. -/
def unit08 (ds : Nat) (t : Trig) : Option Instr :=
  match ds with
  | 0x00 => some (.iaAdd false t)
  | 0x01 => some (.iaSub false t)
  | 0x02 => some (.iaAdds false t)
  | 0x03 => some (.iaSubs false t)
  | 0x04 => some (.iaAddus false t)
  | 0x05 => some (.iaSubus false t)
  | 0x06 => some (.iaMin false t)
  | 0x07 => some (.iaMax false t)
  | 0x08 => some (.iaMinu false t)
  | 0x09 => some (.iaMaxu false t)
  | 0x0A => some (.iaAnd false t)
  | 0x0B => some (.iaOr false t)
  | 0x0C => some (.iaXor false t)
  | 0x0D => some (.iaShl false t)
  | 0x0E => some (.iaShr false t)
  | 0x0F => some (.iaSar false t)
  | 0x10 => some (.iaRotl false t)
  | 0x11 => some (.iaClz false t)
  | 0x12 => some (.iaCtz false t)
  | 0x13 => some (.iaPopc false t)
  | 0x14 => some (.iaExt false t)
  | 0x15 => some (.iaExtu false t)
  | 0x16 => some (.iaIns false t)
  | 0x17 => some (.iaCeq false t)
  | 0x18 => some (.iaCne false t)
  | 0x19 => some (.iaClt false t)
  | 0x1A => some (.iaCle false t)
  | 0x1B => some (.iaCltu false t)
  | 0x1C => some (.iaCleu false t)
  | 0x20 => some (.iaMul false t)
  | 0x21 => some (.iaMulh false t)
  | 0x22 => some (.iaMulhu false t)
  | 0x23 => some (.iaDiv false t)
  | 0x24 => some (.iaDivu false t)
  | 0x25 => some (.iaRem false t)
  | 0x26 => some (.iaRemu false t)
  | _ => none

/-- The opcodes of unit 0x09 in short form. -/
def unit09 (ds : Nat) (t : Trig) : Option Instr :=
  match ds with
  | 0x00 => some (.iaAdd true t)
  | 0x01 => some (.iaSub true t)
  | 0x02 => some (.iaAdds true t)
  | 0x03 => some (.iaSubs true t)
  | 0x04 => some (.iaAddus true t)
  | 0x05 => some (.iaSubus true t)
  | 0x06 => some (.iaMin true t)
  | 0x07 => some (.iaMax true t)
  | 0x08 => some (.iaMinu true t)
  | 0x09 => some (.iaMaxu true t)
  | 0x0A => some (.iaAnd true t)
  | 0x0B => some (.iaOr true t)
  | 0x0C => some (.iaXor true t)
  | 0x0D => some (.iaShl true t)
  | 0x0E => some (.iaShr true t)
  | 0x0F => some (.iaSar true t)
  | 0x10 => some (.iaRotl true t)
  | 0x11 => some (.iaClz true t)
  | 0x12 => some (.iaCtz true t)
  | 0x13 => some (.iaPopc true t)
  | 0x14 => some (.iaExt true t)
  | 0x15 => some (.iaExtu true t)
  | 0x16 => some (.iaIns true t)
  | 0x17 => some (.iaCeq true t)
  | 0x18 => some (.iaCne true t)
  | 0x19 => some (.iaClt true t)
  | 0x1A => some (.iaCle true t)
  | 0x1B => some (.iaCltu true t)
  | 0x1C => some (.iaCleu true t)
  | 0x20 => some (.iaMul true t)
  | 0x21 => some (.iaMulh true t)
  | 0x22 => some (.iaMulhu true t)
  | 0x23 => some (.iaDiv true t)
  | 0x24 => some (.iaDivu true t)
  | 0x25 => some (.iaRem true t)
  | 0x26 => some (.iaRemu true t)
  | _ => none

/-- The opcodes of unit 0x0A in short form. -/
def unit0A (ds : Nat) (t : Trig) : Option Instr :=
  match ds with
  | 0x00 => some (.agAdd false t)
  | 0x01 => some (.agSub false t)
  | 0x02 => some (.agAddx false t)
  | 0x03 => some (.agAnd false t)
  | 0x04 => some (.agLtu false t)
  | 0x05 => some (.agBnd false t)
  | 0x06 => some (.agKv false t)
  | 0x07 => some (.agKvmax false t)
  | 0x08 => some (.agKvlen false t)
  | 0x09 => some (.agKvget false t)
  | _ => none

/-- The opcodes of unit 0x0B in short form. -/
def unit0B (ds : Nat) (t : Trig) : Option Instr :=
  match ds with
  | 0x00 => some (.agAdd true t)
  | 0x01 => some (.agSub true t)
  | 0x02 => some (.agAddx true t)
  | 0x03 => some (.agAnd true t)
  | 0x04 => some (.agLtu true t)
  | 0x05 => some (.agBnd true t)
  | 0x06 => some (.agKv true t)
  | 0x07 => some (.agKvmax true t)
  | 0x08 => some (.agKvlen true t)
  | 0x09 => some (.agKvget true t)
  | _ => none

/-- The opcodes of unit 0x0C in short form. -/
def unit0C (ds : Nat) (t : Trig) : Option Instr :=
  match ds with
  | 0x00 => some (.lsLd 0#2 t)
  | 0x01 => some (.lsLd 1#2 t)
  | 0x02 => some (.lsLd 2#2 t)
  | 0x03 => some (.lsLd 3#2 t)
  | 0x04 => some (.lsLdn 0#2 t)
  | 0x05 => some (.lsLdn 1#2 t)
  | 0x06 => some (.lsLdn 2#2 t)
  | 0x07 => some (.lsLdn 3#2 t)
  | 0x08 => some (.lsLdf 0#2 t)
  | 0x09 => some (.lsLdf 1#2 t)
  | 0x0A => some (.lsLdf 2#2 t)
  | 0x0B => some (.lsLdf 3#2 t)
  | 0x0C => some (.lsLdh 0#2 t)
  | 0x0D => some (.lsLdh 1#2 t)
  | 0x0E => some (.lsLdh 2#2 t)
  | 0x0F => some (.lsLdh 3#2 t)
  | 0x10 => some (.lsSt 0#2 t)
  | 0x11 => some (.lsSt 1#2 t)
  | 0x12 => some (.lsSt 2#2 t)
  | 0x13 => some (.lsSt 3#2 t)
  | 0x14 => some (.lsStn 0#2 t)
  | 0x15 => some (.lsStn 1#2 t)
  | 0x16 => some (.lsStn 2#2 t)
  | 0x17 => some (.lsStn 3#2 t)
  | 0x18 => some (.lsStf 0#2 t)
  | 0x19 => some (.lsStf 1#2 t)
  | 0x1A => some (.lsStf 2#2 t)
  | 0x1B => some (.lsStf 3#2 t)
  | 0x1C => some (.lsSth 0#2 t)
  | 0x1D => some (.lsSth 1#2 t)
  | 0x1E => some (.lsSth 2#2 t)
  | 0x1F => some (.lsSth 3#2 t)
  | 0x20 => some (.lsVld t)
  | 0x21 => some (.lsVst t)
  | 0x22 => some (.lsVldh t)
  | 0x23 => some (.lsVsth t)
  | 0x24 => some (.lsXlat t)
  | 0x25 => some (.lsPreq t)
  | 0x26 => some (.lsMeta t)
  | 0x27 => some (.lsSetmeta t)
  | 0x28 => some (.lsLdd t)
  | 0x29 => some (.lsStd t)
  | 0x2A => some (.lsFence t)
  | 0x2B => some (.lsPst t)
  | _ => none

/-- The opcodes of unit 0x0D in short form. -/
def unit0D (ds : Nat) (t : Trig) : Option Instr :=
  match ds with
  | 0x00 => some (.ctlPbr t)
  | 0x01 => some (.ctlBr t)
  | 0x02 => some (.ctlCall t)
  | 0x03 => some (.ctlRet t)
  | 0x04 => some (.ctlLoop t)
  | 0x05 => some (.ctlJt t)
  | 0x06 => some (.ctlTwait t)
  | 0x07 => some (.ctlTpoll t)
  | 0x08 => some (.ctlSkip t)
  | 0x09 => some (.ctlLbrk t)
  | 0x0A => some (.ctlPand t)
  | 0x0B => some (.ctlPor t)
  | 0x0C => some (.ctlPxor t)
  | _ => none

/-- The opcodes of unit 0x0E in short form. -/
def unit0E (ds : Nat) (t : Trig) : Option Instr :=
  match ds with
  | 0x00 => some (.xcSnd t)
  | 0x01 => some (.xcBcs t)
  | 0x02 => some (.xcRcv t)
  | 0x03 => some (.xcSync t)
  | _ => none

/-- The opcodes of unit 0x0F in short form. -/
def unit0F (ds : Nat) (t : Trig) : Option Instr :=
  match ds with
  | 0x00 => some (.gaAdd t)
  | 0x01 => some (.gaAnd t)
  | 0x02 => some (.gaOr t)
  | 0x03 => some (.gaXor t)
  | 0x04 => some (.gaMaxs t)
  | 0x05 => some (.gaMins t)
  | 0x06 => some (.gaSwap t)
  | 0x07 => some (.gaCas t)
  | 0x08 => some (.gaFadd t)
  | 0x09 => some (.gaFmax t)
  | 0x0A => some (.gaMdraw t)
  | 0x0B => some (.gaBar t)
  | 0x20 => some (.gaAddFar t)
  | 0x21 => some (.gaAndFar t)
  | 0x22 => some (.gaOrFar t)
  | 0x23 => some (.gaXorFar t)
  | 0x24 => some (.gaMaxsFar t)
  | 0x25 => some (.gaMinsFar t)
  | 0x26 => some (.gaSwapFar t)
  | 0x27 => some (.gaCasFar t)
  | 0x28 => some (.gaFaddFar t)
  | 0x29 => some (.gaFmaxFar t)
  | 0x2A => some (.gaMdrawFar t)
  | 0x2B => some (.gaBarFar t)
  | _ => none

/-- The opcodes of unit 0x13 in short form. -/
def unit13 (ds : Nat) (t : Trig) : Option Instr :=
  match ds with
  | 0x20 => some (.panMerge t)
  | 0x21 => some (.panRand t)
  | 0x22 => some (.panCtr t)
  | 0x23 => some (.panClrf t)
  | _ => none

/-- The opcodes of unit 0x14 in short form. -/
def unit14 (ds : Nat) (t : Trig) : Option Instr :=
  match ds with
  | 0x00 => some (.verCfg t)
  | 0x01 => some (.verCand t)
  | 0x02 => some (.verChk t)
  | 0x03 => some (.verFin t)
  | 0x04 => some (.verSetf t)
  | 0x05 => some (.verStop t)
  | _ => none

/-- The opcodes of unit 0x16 in short form. -/
def unit16 (ds : Nat) (t : Trig) : Option Instr :=
  match ds with
  | 0x00 => some (.qCfg t)
  | 0x01 => some (.qClr t)
  | 0x02 => some (.qCnt t)
  | 0x03 => some (.qLink t)
  | _ => none

/-- The opcodes of unit 0x17 in short form. -/
def unit17 (ds : Nat) (t : Trig) : Option Instr :=
  match ds with
  | 0x00 => some (.zSet t)
  | 0x01 => some (.zRst t)
  | 0x02 => some (.zPos t)
  | _ => none

/-- The opcodes of unit 0x18 in short form. -/
def unit18 (ds : Nat) (t : Trig) : Option Instr :=
  match ds with
  | 0x00 => some (.sysHalt t)
  | 0x01 => some (.sysTret t)
  | 0x02 => some (.sysIfence t)
  | 0x03 => some (.sysTrap t)
  | 0x04 => some (.sysBrk t)
  | 0x05 => some (.sysTmark t)
  | 0x06 => some (.sysTarm t)
  | 0x07 => some (.sysTfrz t)
  | 0x08 => some (.sysTmrs t)
  | 0x09 => some (.sysTmrc t)
  | 0x0A => some (.sysYield t)
  | 0x0B => some (.sysSeed t)
  | 0x0C => some (.sysDi t)
  | 0x0D => some (.sysEi t)
  | _ => none

/-- The short move of a trigger: unit `du`, opcode `ds` (R116-R124, R128, R130). -/
def trigOf (du ds : Nat) (t : Trig) : Option Instr :=
  match du with
  | 0x08 => unit08 ds t
  | 0x09 => unit09 ds t
  | 0x0A => unit0A ds t
  | 0x0B => unit0B ds t
  | 0x0C => unit0C ds t
  | 0x0D => unit0D ds t
  | 0x0E => unit0E ds t
  | 0x0F => unit0F ds t
  | 0x13 => unit13 ds t
  | 0x14 => unit14 ds t
  | 0x16 => unit16 ds t
  | 0x17 => unit17 ds t
  | 0x18 => unit18 ds t
  | _ => none

/-- The vector operations by opcode (R126). -/
def vxInstr (opc : Nat) (w : VWord) : Option Instr :=
  match opc with
  | 0x00 => some (.vxMov w)
  | 0x01 => some (.vxAdd w)
  | 0x02 => some (.vxSub w)
  | 0x03 => some (.vxMul w)
  | 0x04 => some (.vxMulz w)
  | 0x05 => some (.vxDiv w)
  | 0x06 => some (.vxMin w)
  | 0x07 => some (.vxMax w)
  | 0x08 => some (.vxAbs w)
  | 0x09 => some (.vxNeg w)
  | 0x0A => some (.vxAnd w)
  | 0x0B => some (.vxOr w)
  | 0x0C => some (.vxXor w)
  | 0x0D => some (.vxShl w)
  | 0x0E => some (.vxShr w)
  | 0x0F => some (.vxSar w)
  | 0x10 => some (.vxFma w)
  | 0x11 => some (.vxFms w)
  | 0x12 => some (.vxFnma w)
  | 0x13 => some (.vxSel w)
  | 0x14 => some (.vxCeq w)
  | 0x15 => some (.vxCne w)
  | 0x16 => some (.vxClt w)
  | 0x17 => some (.vxCle w)
  | 0x18 => some (.vxCnan w)
  | 0x19 => some (.vxMget w)
  | 0x1A => some (.vxMput w)
  | 0x1B => some (.vxMcnt w)
  | 0x1C => some (.vxExp2 w)
  | 0x1D => some (.vxLog2 w)
  | 0x1E => some (.vxRcp w)
  | 0x1F => some (.vxRsqrt w)
  | 0x20 => some (.vxSqrt w)
  | 0x21 => some (.vxExp w)
  | 0x22 => some (.vxTanh w)
  | 0x23 => some (.vxSigm w)
  | 0x24 => some (.vxSilu w)
  | 0x25 => some (.vxGelu w)
  | 0x26 => some (.vxSin w)
  | 0x27 => some (.vxCos w)
  | 0x28 => some (.vxRsum w)
  | 0x29 => some (.vxRmax w)
  | 0x2A => some (.vxRmin w)
  | 0x2B => some (.vxRmaxi w)
  | 0x2C => some (.vxScan w)
  | 0x2D => some (.vxTrn w)
  | 0x2E => some (.vxGth w)
  | 0x2F => some (.vxSct w)
  | 0x30 => some (.vxDot w)
  | 0x31 => some (.vxCvt w)
  | 0x32 => some (.vxBndLip w)
  | 0x33 => some (.vxBndCvt w)
  | 0x34 => some (.vxBndAdd w)
  | 0x35 => some (.vxShape w)
  | 0x36 => some (.vxClamp w)
  | _ => none

/-- The matrix commands by opcode (R127). -/
def mxInstr (opc : Nat) (w : MxWord) : Option Instr :=
  match opc with
  | 0x00 => some (.mxStep w)
  | 0x01 => some (.mxRes w)
  | 0x02 => some (.mxZero w)
  | 0x03 => some (.mxDrain w)
  | 0x04 => some (.mxAssay w)
  | 0x05 => some (.mxCurGet w)
  | 0x06 => some (.mxCurSet w)
  | 0x07 => some (.mxBias w)
  | 0x08 => some (.mxSurvey w)
  | 0x09 => some (.mxLoad w)
  | 0x0A => some (.mxAset w)
  | 0x0B => some (.mxMark w)
  | _ => none

/-- The Winze commands by opcode (R131). -/
def wzInstr (opc : Nat) (w : WzWord) : Option Instr :=
  match opc with
  | 0x00 => some (.wzCopy w)
  | 0x01 => some (.wzCopyk w)
  | 0x02 => some (.wzFill w)
  | 0x03 => some (.wzGat2 w)
  | 0x04 => some (.wzSct2 w)
  | 0x05 => some (.wzGat4 w)
  | 0x06 => some (.wzSct4 w)
  | 0x07 => some (.wzExpd w)
  | 0x08 => some (.wzPack w)
  | 0x09 => some (.wzRcopy w)
  | 0x0A => some (.wzMark w)
  | _ => none

/-- The Panner commands by opcode (R128). -/
def panInstr (opc : Nat) (w : PanWord) : Option Instr :=
  match opc with
  | 0x00 => some (.panDraw w)
  | 0x01 => some (.panShort w)
  | 0x02 => some (.panPen w)
  | 0x03 => some (.panBias w)
  | 0x04 => some (.panScale w)
  | 0x05 => some (.panFull w)
  | 0x06 => some (.panLse w)
  | _ => none

/-- What one word decodes to: every code of R93 that applies to it, and the instruction it names, if any. -/
structure WordDec where
  codes : List Illegal
  instr : Option Instr
  deriving DecidableEq, Repr

/-- A word that names the instruction `i`, with the codes `cs` of its raw bits. -/
def wordDec (cs : List Illegal) (i : Instr) : WordDec := { codes := cs ++ wordCodes i, instr := some i }

/-- The source of a short move with attached literals (R82, R83). Literals beyond two, and literals
before a move with I = 0, are code 9. -/
def decodeSrc (lits : List (BitVec 28)) (p : U32) : Src :=
  if bit p 8 then
    match lits with
    | [] => .imm (bits p 9 11)
    | [l1] => .imm1 l1 (bits p 9 11)
    | l1 :: l2 :: _ => .imm2 l1 l2 (bits p 9 11)
  else .reg (bits p 15 5) (bits p 9 6)

/-- Decodes a short move (R78) with the literals attached to it. -/
def decodeShort (lits : List (BitVec 28)) (p : U32) : WordDec :=
  let t : Trig := { g := bits p 4 4, n := bit p 3, e := bit p 2, src := decodeSrc lits p }
  let du := bits p 26 5
  let ds := bits p 20 6
  let lit := codeIf (lits ≠ [] && !(bit p 8)) .literal
  if bit p 31 then
    match trigOf du.toNat ds.toNat t with
    | some i => wordDec lit i
    | none => { codes := lit ++ srcCodes t.src ++ noTrigCodes du.toNat, instr := none }
  else if du = 0x18#5 && ds = 3#6 then wordDec lit (.sflagWrite t)
  else wordDec lit (.move du ds t)

/-- An operand specifier from its 21 bits (R86). -/
def decodeOpnd (x : BitVec 21) : Opnd :=
  { space := bits x 18 3, index := bits x 12 6, rs := bits x 6 6, str := bits x 0 6 }

/-- Decodes a vector word (R85). -/
def decodeVector (x : BitVec 96) : WordDec :=
  let unit := (bits x 9 5).toNat
  let w : VWord :=
    { g := bits x 4 4, n := bit x 3, e := bit x 2, u := bit x 9, opm := bits x 28 4, rnd := bits x 24 4,
      cls := bits x 20 4, a := decodeOpnd (bits x 32 21), b := decodeOpnd (bits x 53 21),
      d := decodeOpnd (bits x 74 21) }
  let raw := codeIf (bit x 95 || bit x 8) .reserved
  let mem (o : Opnd) := o.space = 4#3 || o.space = 5#3
  let cls := codeIf (w.cls ≠ 0#4 && !(mem w.a || mem w.b || mem w.d)) .reserved
  if unit = 0x10 || unit = 0x11 then
    match vxInstr (bits x 14 6).toNat w with
    | some i => wordDec raw i
    | none => { codes := .opcode :: raw ++ cls, instr := none }
  else { codes := .unit :: raw ++ cls, instr := none }

/-- The fields that every engine word shares (R88). -/
def decodeCommon (x : BitVec 192) : EngCommon :=
  { g := bits x 4 4, n := bit x 3, e := bit x 2, kin0 := bits x 104 6, kin1 := bits x 110 6,
    kin2 := bits x 116 6, kout := bits x 122 6, stamp := bits x 128 32, rcl := bits x 167 4,
    aft := bits x 171 16 }

/-- Decodes an engine word (R88-R91). -/
def decodeEngine (x : BitVec 192) : WordDec :=
  let opc := (bits x 14 6).toNat
  let c := decodeCommon x
  let miss (raw : List Illegal) : WordDec := { codes := .opcode :: raw ++ tokenCodes c, instr := none }
  match (bits x 9 5).toNat with
  | 0x12 =>
    let raw := codeIf (bit x 8 || bits x 189 3 ≠ 0#3) .reserved
    let w : MxWord :=
      { c := c, zero := bit x 187, surv := bit x 188, fmt := bits x 160 7, xa := bits x 102 2,
        bin := decodeOpnd (bits x 81 21), cur := bits x 79 2, es := bits x 73 6, m1 := bits x 66 7,
        x := decodeOpnd (bits x 45 21), wo := bits x 25 20, wa := bits x 20 5 }
    match mxInstr opc w with
    | some i => wordDec raw i
    | none => miss raw
  | 0x15 =>
    let raw := codeIf (bit x 8 || bits x 187 5 ≠ 0#5 || bits x 160 7 ≠ 0#7 || bits x 68 36 ≠ 0#36) .reserved
    let w : WzWord :=
      { c := c, wr := bits x 64 4, df := bits x 57 7, dc := bits x 53 4, pm := bits x 51 2, ce := bit x 50,
        ci := bit x 49, ck := bits x 47 2, pa := bits x 42 5, xs := bits x 36 6, ls := bits x 30 6,
        da := bits x 25 5, sa := bits x 20 5 }
    match wzInstr opc w with
    | some i => wordDec raw i
    | none => miss raw
  | 0x13 =>
    let raw := codeIf (bit x 8 || bits x 187 5 ≠ 0#5 || bits x 160 7 ≠ 0#7 || bits x 76 28 ≠ 0#28) .reserved
    let w : PanWord :=
      { c := c, xs := bits x 70 6, aa := bits x 65 5, ns := bits x 59 6, row1 := bits x 52 7,
        ts := bits x 46 6, lg := decodeOpnd (bits x 25 21), da := bits x 20 5 }
    match panInstr opc w with
    | some i => wordDec raw i
    | none => miss raw
  | _ => { codes := [.unit], instr := none }

/-- Parcels as one number, the first in the low bits (R77). -/
def parcelNat : List U32 → Nat
  | [] => 0
  | p :: ps => p.toNat + 2 ^ 32 * parcelNat ps

/-- Decodes one instruction from the head of a list of parcels: literals and their move, a vector word or
an engine word. It answers the word's codes, its instruction and the parcels that follow it. Literals stand only
before a short move, at most two, with E and bit 3 clear (R82, R93). -/
def decodeOne : List (BitVec 28) → List U32 → Option (WordDec × List U32)
  | _, [] => none
  | lits, p :: ps =>
    let stray : List Illegal := codeIf (lits ≠ []) .literal
    match classOf p with
    | 0 => some (decodeShort lits p, ps)
    | 1 =>
      if 2 ≤ ps.length then
        let d := decodeVector (BitVec.ofNat 96 (parcelNat (p :: ps.take 2)))
        some ({ d with codes := stray ++ d.codes }, ps.drop 2)
      else none
    | 2 =>
      if 5 ≤ ps.length then
        let d := decodeEngine (BitVec.ofNat 192 (parcelNat (p :: ps.take 5)))
        some ({ d with codes := stray ++ d.codes }, ps.drop 5)
      else none
    | _ =>
      (decodeOne (lits ++ [bits p 4 28]) ps).map (fun r =>
        ({ r.1 with codes := codeIf (bit p 2 || bit p 3) .badLiteral ++ codeIf (lits.length = 2) .literal ++ r.1.codes }, r.2))

/-- The instruction at the head of a list of parcels, refused where any code of R93 applies to it. -/
def decode (ps : List U32) : Except Illegal Instr :=
  match decodeOne [] ps with
  | none => .error .noEnd
  | some (d, _) =>
    match d.codes, d.instr with
    | [], some i => .ok i
    | [], none => .error .opcode
    | c :: _, _ => .error c

/-- `n` parcels of a number, the first from its low bits. -/
def parcels : Nat → Nat → List U32
  | 0, _ => []
  | n + 1, w => BitVec.ofNat 32 w :: parcels n (w / 2 ^ 32)

/-- The decoder on an instruction numbered as the opcode table numbers it: the first parcel in bits 31..0. -/
def decodeTableWord (nbits w : Nat) : Option Instr :=
  let ps := parcels 6 (w % 2 ^ nbits)
  match decode ps with
  | .ok i => some i
  | .error _ => none

/-! Bundles. -/

/-- A bundle as fetch finds it: its address, the address that follows its last word, its instructions in
the order of its words, and the codes of R93 that apply to it. -/
structure Bundle where
  addr : Addr20
  next : Addr20
  words : List Instr
  codes : List Illegal
  deriving DecidableEq, Repr

/-- The classes of a bundle's words as they stand, read until E, the end of the line or a pad word. -/
structure Scan where
  classes : List Nat := []
  codes : List Illegal := []
  words : List Instr := []
  lits : List (BitVec 28) := []
  used : Nat := 0
  deriving DecidableEq, Repr

/-- Takes one decoded word into a scan. -/
def Scan.add (s : Scan) (cls n : Nat) (d : WordDec) : Scan :=
  { s with classes := s.classes ++ [cls], codes := s.codes ++ d.codes,
           words := match d.instr with | some i => s.words ++ [i] | none => s.words,
           used := s.used + n }

/-- Scans the words of a bundle (R74, R75, R82) in the parcels that are left of its line. A literal waits for
the next short move of the bundle, whatever stands between them (R82); a third literal that waits is code 9. A
vector or engine word that the end of its line cuts off counts for code 10 alone: the spec does not say whether
its visible parcels are checked (DESIGN CHOICE, log entry 67). -/
def scanBundle : Nat → List U32 → Scan → Scan
  | 0, _, s => { s with codes := s.codes ++ [.noEnd] ++ codeIf (s.lits ≠ []) .literal }
  | _, [], s => { s with codes := s.codes ++ [.noEnd] ++ codeIf (s.lits ≠ []) .literal }
  | fuel + 1, p :: ps, s =>
    let stop (s : Scan) : Scan := { s with codes := s.codes ++ codeIf (s.lits ≠ []) .literal }
    if p = 0xFFFFFFFF#32 then stop { s with codes := s.codes ++ [.noEnd], used := s.used + 1 }
    else
      match classOf p with
      | 0 =>
        let s' : Scan := { s.add 0 1 (decodeShort s.lits p) with lits := [] }
        if bit p 2 then s' else scanBundle fuel ps s'
      | 1 =>
        if 2 ≤ ps.length then
          let s' := s.add 1 3 (decodeVector (BitVec.ofNat 96 (parcelNat (p :: ps.take 2))))
          if bit p 2 then stop s' else scanBundle fuel (ps.drop 2) s'
        else stop { s with codes := s.codes ++ [.noEnd] }
      | 2 =>
        if 5 ≤ ps.length then
          let s' := s.add 2 6 (decodeEngine (BitVec.ofNat 192 (parcelNat (p :: ps.take 5))))
          if bit p 2 then stop s' else scanBundle fuel (ps.drop 5) s'
        else stop { s with codes := s.codes ++ [.noEnd] }
      | _ =>
        let s' : Scan :=
          { s with classes := s.classes ++ [3], lits := s.lits ++ [bits p 4 28], used := s.used + 1,
                   codes := s.codes ++ codeIf (bit p 2 || bit p 3) .badLiteral ++
                     codeIf (s.lits.length = 2) .literal }
        if bit p 2 then stop s' else scanBundle fuel ps s'

/-- Rank of a word class in the canonical order (R74). -/
def rankOf (cls : Nat) : Nat :=
  match cls with
  | 1 => 1
  | 2 => 2
  | _ => 0

/-- The words stand in canonical order. -/
def canonical : List Nat → Bool
  | [] => true
  | [_] => true
  | a :: b :: t => rankOf a ≤ rankOf b && canonical (b :: t)

/-- The guard of a word: G and N. -/
def guardOf (i : Instr) : BitVec 4 × Bool :=
  match shortOf i with
  | some (_, _, _, t) => (t.g, t.n)
  | none =>
    match vxOf i with
    | some (_, w) => (w.g, w.n)
    | none =>
      match mxOf i with
      | some (_, w) => (w.c.g, w.c.n)
      | none =>
        match panOf i with
        | some (_, w) => (w.c.g, w.c.n)
        | none =>
          match wzOf i with
          | some (_, w) => (w.c.g, w.c.n)
          | none => (0#4, false)

/-- The end-of-bundle bit of a word. -/
def endOf (i : Instr) : Bool :=
  match shortOf i with
  | some (_, _, _, t) => t.e
  | none =>
    match vxOf i with
    | some (_, w) => w.e
    | none =>
      match mxOf i with
      | some (_, w) => w.c.e
      | none =>
        match panOf i with
        | some (_, w) => w.c.e
        | none =>
          match wzOf i with
          | some (_, w) => w.c.e
          | none => false

/-- The tile register that an operand names as a destination in space 1 (R94), as the pair (32, n). -/
def tileDest (o : Opnd) : Option (Nat × Nat) := if o.space = 1#3 then some (32, o.index.toNat) else none

/-- The one destination that a word names for R94, as a pair of numbers: unit and selector of a register
or port, (32, n) for tile register n, (33, 0) for `vshape`, (34, n) for mask register n of a compare or
`vx.mput` (R216, R217). The engine commands that write a tile register name it by X, BIN or LG (R234, R280).
The discarded registers name none. DESIGN CHOICE: `sys.di` and `sys.ei` name `sys.fen`, so that two of them in one bundle are
code 6 as R293 has it for one of them and a move; the spec does not say whether the two are code 7 (log entry 84). -/
def destOf (i : Instr) : Option (Nat × Nat) :=
  match shortOf i with
  | some (true, du, ds, _) =>
    if du = 0x18#5 && (ds = 0x0C#6 || ds = 0x0D#6) then some (0x18, 4) else none
  | some (false, du, ds, _) =>
    let u := du.toNat
    let s := ds.toNat
    if s = 0 && (u = 0 || u = 1 || u = 3) then none
    else if u = 0x0B && 2 ≤ s && s ≤ 5 then some (0x0A, s) else some (u, s)
  | none =>
    match vxOf i with
    | some (opc, w) =>
      if opc = 0x35 then some (33, 0)
      else if (0x14 ≤ opc && opc ≤ 0x18) || opc = 0x1A then some (34, w.opm.toNat % 8)
      else tileDest w.d
    | none =>
      match mxOf i with
      | some (opc, w) =>
        if opc = 0x03 || opc = 0x04 then tileDest w.x else if opc = 0x08 then tileDest w.bin else none
      | none =>
        match panOf i with
        | some (opc, w) => if 0x02 ≤ opc && opc ≤ 0x04 then tileDest w.lg else none
        | none => none

/-- The unit that a word triggers (R93, code 7). A register file is never a trigger (R80), so two moves with
T = 1 into one file raise code 13 and not code 7 (DEDUCED, log entry 67). -/
def unitOf (i : Instr) : Option Nat :=
  match shortOf i with
  | some (true, du, _, _) => some du.toNat
  | some (false, _, _, _) => none
  | none =>
    match vxOf i with
    | some (_, w) => some (if w.u then 0x11 else 0x10)
    | none =>
      if (mxOf i).isSome then some 0x12 else if (panOf i).isSome then some 0x13
      else if (wzOf i).isSome then some 0x15 else none

/-- Two words of one destination are legal under one nonzero G and opposite N (R94). -/
def apart (i j : Instr) : Bool :=
  let a := guardOf i
  let b := guardOf j
  a.1 ≠ 0#4 && a.1 = b.1 && a.2 ≠ b.2

/-- Some two words of a bundle clash on a destination (code 6). -/
def twice : List Instr → Bool
  | [] => false
  | i :: is =>
    is.any (fun j => (destOf i).isSome && destOf i = destOf j && !(apart i j)) || twice is

/-- Some two words of a bundle trigger one unit (code 7). -/
def triggersTwice : List Instr → Bool
  | [] => false
  | i :: is => is.any (fun j => (unitOf i).isSome && unitOf i = unitOf j) || triggersTwice is

/-- Too many words of a class (R74, code 8). -/
def tooMany (classes : List Nat) : Bool :=
  4 < classes.countP (fun c => c = 0 || c = 3) || 2 < classes.countP (· = 1) || 1 < classes.countP (· = 2)

/-- A bundle holds an engine word. -/
def hasEngine (is : List Instr) : Bool :=
  is.any (fun i => (mxOf i).isSome || (panOf i).isSome || (wzOf i).isSome)

/-- The bundle whose first word stands at `a` (no pad word), from the parcels of its line from `a` on.
Code 12 depends on the loop engine and is judged at issue. -/
def decodeBundle (a : Addr20) (ps : List U32) : Bundle :=
  let s := scanBundle 16 ps {}
  { addr := a
    next := a + BitVec.ofNat 20 (4 * s.used)
    words := s.words
    codes := s.codes ++ codeIf (twice s.words) .twice ++ codeIf (triggersTwice s.words) .triggers ++
      codeIf (tooMany s.classes) .count ++ codeIf (!(canonical s.classes)) .order }

/-- The lowest code of a list (R92), 0 for none. -/
def lowestCode : List Illegal → Nat
  | [] => 0
  | [c] => illegalCode c
  | c :: cs => min (illegalCode c) (lowestCode cs)

/-! The encoder, from the same tables. -/

/-- The literal words of a source (R82). -/
def encodeLits : Src → List U32
  | .reg _ _ => []
  | .imm _ => []
  | .imm1 l1 _ => [l1 ++ 3#4]
  | .imm2 l1 l2 _ => [l1 ++ 3#4, l2 ++ 3#4]

/-- Bits [19:8] of a short move: SRC and I (R78). -/
def encodeSrc : Src → BitVec 12
  | .reg u s => (u ++ s) ++ 0#1
  | .imm low => low ++ 1#1
  | .imm1 _ low => low ++ 1#1
  | .imm2 _ _ low => low ++ 1#1

/-- One bit as a bit vector. -/
def bitOf (b : Bool) : BitVec 1 := if b then 1#1 else 0#1

/-- The lowest byte of a word (R77). -/
def encodeLow (g : BitVec 4) (n e : Bool) (cls : BitVec 2) : BitVec 8 := g ++ (bitOf n ++ (bitOf e ++ cls))

/-- A short move (R78) with its literals before it. -/
def encodeShort (trig : Bool) (du : BitVec 5) (ds : BitVec 6) (t : Trig) : List U32 :=
  encodeLits t.src ++ [bitOf trig ++ (du ++ (ds ++ (encodeSrc t.src ++ encodeLow t.g t.n t.e 0#2)))]

/-- The 21 bits of an operand specifier (R86). -/
def encodeOpnd (o : Opnd) : BitVec 21 := o.space ++ (o.index ++ (o.rs ++ o.str))

/-- A vector word (R85). -/
def encodeVector (opc : Nat) (w : VWord) : List U32 :=
  let x : BitVec 96 :=
    0#1 ++ (encodeOpnd w.d ++ (encodeOpnd w.b ++ (encodeOpnd w.a ++ (w.opm ++ (w.rnd ++ (w.cls ++
      (BitVec.ofNat 6 opc ++ (8#4 ++ (bitOf w.u ++ (0#1 ++ encodeLow w.g w.n w.e 1#2))))))))))
  parcels 3 x.toNat

/-- Bits [19:0] of an engine word: opcode, unit and the lowest byte (R88). -/
def encodeHead (opc : Nat) (unit : BitVec 5) (c : EngCommon) : BitVec 20 :=
  BitVec.ofNat 6 opc ++ (unit ++ (0#1 ++ encodeLow c.g c.n c.e 2#2))

/-- Bits [159:104] of an engine word: stamp and tokens (R88). -/
def encodeTokens (c : EngCommon) : BitVec 56 := c.stamp ++ (c.kout ++ (c.kin2 ++ (c.kin1 ++ c.kin0)))

/-- A matrix word (R88, R89). -/
def encodeMx (opc : Nat) (w : MxWord) : List U32 :=
  let x : BitVec 192 :=
    0#3 ++ (bitOf w.surv ++ (bitOf w.zero ++ (w.c.aft ++ (w.c.rcl ++ (w.fmt ++ (encodeTokens w.c ++ (w.xa ++
      (encodeOpnd w.bin ++ (w.cur ++ (w.es ++ (w.m1 ++ (encodeOpnd w.x ++ (w.wo ++ (w.wa ++
        encodeHead opc 0x12#5 w.c))))))))))))))
  parcels 6 x.toNat

/-- A Winze word (R88, R90). -/
def encodeWz (opc : Nat) (w : WzWord) : List U32 :=
  let x : BitVec 192 :=
    0#5 ++ (w.c.aft ++ (w.c.rcl ++ (0#7 ++ (encodeTokens w.c ++ (0#36 ++ (w.wr ++ (w.df ++ (w.dc ++ (w.pm ++
      (bitOf w.ce ++ (bitOf w.ci ++ (w.ck ++ (w.pa ++ (w.xs ++ (w.ls ++ (w.da ++ (w.sa ++
        encodeHead opc 0x15#5 w.c)))))))))))))))))
  parcels 6 x.toNat

/-- A Panner word (R88, R91). -/
def encodePan (opc : Nat) (w : PanWord) : List U32 :=
  let x : BitVec 192 :=
    0#5 ++ (w.c.aft ++ (w.c.rcl ++ (0#7 ++ (encodeTokens w.c ++ (0#28 ++ (w.xs ++ (w.aa ++ (w.ns ++
      (w.row1 ++ (w.ts ++ (encodeOpnd w.lg ++ (w.da ++ encodeHead opc 0x13#5 w.c))))))))))))
  parcels 6 x.toNat

/-- The words of an instruction; a row with no word of its own has none. -/
def encode (i : Instr) : List U32 :=
  match shortOf i with
  | some (trig, du, ds, t) => encodeShort trig du ds t
  | none =>
    match vxOf i with
    | some (opc, w) => encodeVector opc w
    | none =>
      match mxOf i with
      | some (opc, w) => encodeMx opc w
      | none =>
        match wzOf i with
        | some (opc, w) => encodeWz opc w
        | none =>
          match panOf i with
          | some (opc, w) => encodePan opc w
          | none => []

end Sys2Proof
end

