-- ==== Sys2Proof/Machine/Store.lean ====
section
/-!
DEFINITION. Sparse data by number: a list of (key, value) pairs with keys strictly rising, in which no
pair holds the default value. Register files, ports, tiles and every memory of the machine are such
lists, so that equal contents are equal data.
-/
namespace Sys2Proof.Machine

/-- A sparse map from numbers. The default value of an unlisted key is an argument of `get`. -/
abbrev Store (α : Type) := List (Nat × α)

/-- The value at `k`, or `d` where nothing is listed. -/
def sget {α : Type} (d : α) : Store α → Nat → α
  | [], _ => d
  | (i, v) :: t, k => if i = k then v else sget d t k

/-- Puts `(k, v)` in its place, replacing an earlier pair of the same key. -/
def sins {α : Type} (k : Nat) (v : α) : Store α → Store α
  | [] => [(k, v)]
  | (i, w) :: t =>
    if i < k then (i, w) :: sins k v t
    else if i = k then (k, v) :: t
    else (k, v) :: (i, w) :: t

/-- Removes the pair of key `k`. -/
def sdel {α : Type} (k : Nat) (m : Store α) : Store α := m.filter (fun p => p.1 != k)

/-- Writes `v` at `k`; writing the default removes the pair. -/
def sset {α : Type} [DecidableEq α] (d : α) (m : Store α) (k : Nat) (v : α) : Store α :=
  if v = d then sdel k m else sins k v (sdel k m)

/-- The canonical form: keys strictly rise and no pair holds the default. -/
def swf {α : Type} [DecidableEq α] (d : α) : Store α → Bool
  | [] => true
  | [(_, v)] => v != d
  | (i, v) :: (j, w) :: t => v != d && i < j && swf d ((j, w) :: t)

/-- Merges a rising list of writes into a store in one pass; a written default removes the pair. -/
def sput {α : Type} [DecidableEq α] (d : α) (m : Store α) (ws : List (Nat × α)) : Store α :=
  ws.foldl (fun m p => sset d m p.1 p.2) m

/-- The pairs whose key lies in `[lo, hi)`, with `lo` taken off the key. -/
def sslice {α : Type} (m : Store α) (lo hi : Nat) : Store α :=
  (m.filter (fun p => lo ≤ p.1 && p.1 < hi)).map (fun p => (p.1 - lo, p.2))

/-- Drops every pair whose key lies in `[lo, hi)`. -/
def sclear {α : Type} (m : Store α) (lo hi : Nat) : Store α :=
  m.filter (fun p => !(lo ≤ p.1 && p.1 < hi))

/-- Puts an element before the first one that it may stand before. -/
def insertBy {α : Type} (le : α → α → Bool) (x : α) : List α → List α
  | [] => [x]
  | y :: t => if le x y then x :: y :: t else y :: insertBy le x t

/-- A list in the order of `le`; elements that may stand either way keep their order. -/
def sortBy {α : Type} (le : α → α → Bool) (l : List α) : List α := l.foldr (insertBy le) []

/-- A memory of bytes in 64-byte lines, each line with its 16-bit descriptor tag (spec/02 R50). The
tag of an unlisted line is `dt` of the memory that holds it; an unlisted byte reads as 0. -/
structure TMem where
  data : List Host.Cell := []
  tags : List (Nat × BitVec 16) := []
  deriving DecidableEq, Repr

/-- The canonical form of a tagged memory with default tag `dt`. -/
abbrev TMem.wf (dt : BitVec 16) (m : TMem) : Prop := swf 0#8 m.data = true ∧ swf dt m.tags = true

/-- One byte. -/
def TMem.rd (m : TMem) (a : Nat) : Byte := sget 0#8 m.data a

/-- The tag of the line that holds byte `a`. -/
def TMem.tag (dt : BitVec 16) (m : TMem) (a : Nat) : BitVec 16 := sget dt m.tags (a / 64)

/-- Writes one byte; the line's tag stays (R51). -/
def TMem.wr (m : TMem) (a : Nat) (v : Byte) : TMem := { m with data := sset 0#8 m.data a v }

/-- Writes the tag of the line that holds byte `a`. -/
def TMem.wrTag (dt : BitVec 16) (m : TMem) (a : Nat) (t : BitVec 16) : TMem :=
  { m with tags := sset dt m.tags (a / 64) t }

/-- `n` bytes from `a` up. -/
def TMem.bytes (m : TMem) : Nat → Nat → List Byte
  | _, 0 => []
  | a, n + 1 => m.rd a :: TMem.bytes m (a + 1) n

/-- Writes bytes from `a` up; tags stay. -/
def TMem.wrs (m : TMem) (a : Nat) : List Byte → TMem
  | [] => m
  | b :: bs => TMem.wrs (m.wr a b) (a + 1) bs

/-- Clears the bytes and tags of `[lo, hi)`, both multiples of 64, to zero data and the default tag. -/
def TMem.clear (m : TMem) (lo hi : Nat) : TMem :=
  { data := sclear m.data lo hi, tags := sclear m.tags (lo / 64) (hi / 64) }

end Sys2Proof.Machine
end

