-- ==== Sys2Proof/Machine/State.lean ====
section
/-!
DEFINITION. The state of one DK9 module: every piece of state that the spec gives the machine (spec/01
R33-R39 and the chapters that INVENTORY.md lists), as plain data, with the state right after reset.
-/
namespace Sys2Proof.Machine

open Sys2Proof

/-- A fault of the machine itself: the step has no next state. -/
inductive Fault where
  /-- An access that performs names a physical address outside the map of R349. Raised by ACCESS_PERFORM; safe, since
  the spec gives that address no contents. -/
  | unmapped (addr : Nat)
  deriving DecidableEq, Repr

/-- A step that is refused. -/
inductive Refusal where
  /-- An instruction that has no meaning in the model yet. Raised by an arm of `exec`; safe. -/
  | notModelled (mnemonic : String)
  /-- A row of the device's steps was scheduled although the conditions that the spec gives for it do not
  hold, or its input is of another row. Raised by the meanings of such rows; safe: no such step exists. -/
  | notEnabled (row : String)
  deriving DecidableEq, Repr

/-! ## Core streams -/

/-- The loop engine (R37, R153-R156). `pos` is the index in the body of the bundle due next; 0 says that
the next cycle starts a pass. `fresh` says that pass 0 has not begun. -/
structure LoopEng where
  active : Bool := false
  drained : Bool := false
  b : Nat := 0
  n : Nat := 0
  stages : Nat := 0
  start : Addr20 := 0#20
  stop : Addr20 := 0#20
  cnt : U32 := 0#32
  pattern : BitVec 4 := 0#4
  pos : Nat := 0
  fresh : Bool := false
  deriving DecidableEq, Repr

/-- A taken transfer on its way (R145): delay bundles and bubble cycles left. -/
structure Xfer where
  target : Addr20
  slots : Nat
  bubble : Nat
  deriving DecidableEq, Repr

/-- Control state of a core stream. `bwait` gives, for each `b` register, the cycles until its prefetch
is ready (R144); `redirect` says that a handler moved the resume address (R304). -/
structure Ctl where
  started : Bool := false
  halted : Bool := false
  pc : Addr20 := 0#20
  stack : List Addr20 := []
  xfer : Option Xfer := none
  skip : Nat := 0
  loop : LoopEng := {}
  bwait : Store Nat := []
  redirect : Bool := false
  deriving DecidableEq, Repr

/-- What an operation delivers when it completes (R30). Ports are numbered 64·unit + selector. -/
inductive Put where
  | port (key : Nat) (v : U64)
  | sticky (bits : U32)
  | tile (addr : Nat) (bytes : List (BitVec 8))
  | tileTag (line : Nat) (tag : U16)
  | mask (m : Nat) (v : BitVec 4096)
  | poll (k : Nat)
  | count (q : Nat)
  | poison
  deriving DecidableEq, Repr

/-- What the reply of a memory access is needed for. -/
inductive Need where
  | load (w : Nat) (first : Nat)
  | store
  | atomic
  | loadSw
  | storeSw
  deriving DecidableEq, Repr

/-- A scalar operation in flight: `left` cycles until it completes, `age` since it was triggered. `ids` are the accesses
whose replies it waits for; `need` says how the replies become values. -/
structure Flight where
  left : Nat
  age : Nat := 0
  puts : List Put
  ids : List Nat := []
  need : Option Need := none
  deriving DecidableEq, Repr

/-- One pop of a stream (R185): local, through a handle, or of an unbound stream, with the operators to
apply. -/
structure ZPop where
  bound : Bool
  handle : Bool
  ops : List (Nat × U32 × U16)
  deriving DecidableEq, Repr

/-- A converter under way in one pop (R61): the source bits that its elements took so far, the steps made, the
state of the current chunk of 256 source bytes, and the index of the next element in that chunk. -/
structure Progress where
  pos : Nat := 0
  steps : Nat := 0
  st : U32 := 0#32
  idx : Nat := 0
  deriving DecidableEq, Repr

/-- A pop of a queue under way (R181, R209): the formats and mode of the queue at issue, the next chunk to read, the
bytes that the chunks still to read deliver, and the converter. -/
structure QPop where
  fi : BitVec 7
  fo : BitVec 7
  md : BitVec 5
  next : Nat := 0
  left : Nat
  conv : Progress := {}
  deriving DecidableEq, Repr

/-- Where a vector operand's bytes come from, fixed at issue (R207, R210): `addr` is the captured `an` or the
address of a stream's vector, `hand` the captured handle, `splat` the captured `sn`, `cls` the class of the accesses of an
engine's operand. -/
structure OpSrc where
  spec : Opnd
  addr : U64 := 0#64
  hand : U64 := 0#64
  splat : U32 := 0#32
  cls : BitVec 4 := 0#4
  pop : Option ZPop := none
  qpop : Option QPop := none
  deriving DecidableEq, Repr

/-- How a captured element came: from a line of memory, refused, the splat of an `s` register, an accumulator
pair, or outside the operand. -/
inductive EKind where
  | line | refused | splat | acc
  deriving DecidableEq, Repr

/-- One captured element of an operand: its raw bits and the tag of its line; for an accumulator the exact
pair. `mem` names the memory accesses that bring it, each with the first byte and the number of bytes. -/
structure Elem where
  kind : EKind := .line
  bits : Nat := 0
  tag : U16 := 0#16
  hi : U32 := 0#32
  lo : U32 := 0#32
  mem : List (Nat × Nat × Nat) := []
  deriving DecidableEq, Repr

/-- What an operation has written of one destination line: the line, the lowest byte written, its descriptor, and
whether a poison result fell on it (R208, R214). -/
structure LineTag where
  line : Nat
  low : Nat
  tag : U16
  poison : Bool
  deriving DecidableEq, Repr

/-- A vector operation in flight (R31, R209): captured shape, operands, and per chunk what has been read.
`srcWidth` is the element width of operand A, `age` counts the cycles since its issue, `flags` holds per chunk the
flags of its queue pops, `lines` what it has written so far, `stores` the accesses of a destination behind a
handle, by block; `full` says that every source chunk is captured (R300). -/
structure VOp where
  opc : Nat
  word : VWord
  rows : Nat
  cols : Nat
  width : Nat
  srcWidth : Nat
  chunks : Nat
  lat : Nat
  age : Nat
  a : OpSrc
  b : OpSrc
  d : OpSrc
  ea : List Elem := []
  eb : List Elem := []
  ed : List Elem := []
  maskIn : BitVec 4096 := 0#4096
  conv : List U32 := []
  flags : List U32 := []
  lines : List LineTag := []
  ids : List Nat := []
  stores : List (Nat × Nat) := []
  full : Bool := false
  deriving DecidableEq, Repr

/-- A vector form of `ls` in flight (R161, R169). -/
structure LsVec where
  store : Bool
  handle : Bool
  reg : Nat
  mask : Nat
  addr : Nat
  hand : U64
  rows : Nat
  cols : Nat
  width : Nat
  chunks : Nat
  lat : Nat
  age : Nat
  cls : BitVec 4
  elems : List Elem := []
  status : BitVec 8 := 0#8
  refused : BitVec 4096 := 0#4096
  ids : List (Nat × Nat × Nat) := []
  full : Bool := false
  deriving DecidableEq, Repr

/-- A write to a scratchpad that lands at the end of the current cycle, in the order of R160: `prio` is 0
for `ls`, 1 and 2 for the vector units, 3 for the verifier, 4 for engines; `cls` is the class of a core access. -/
structure LocW where
  prio : Nat
  core : Nat
  addr : Nat
  bytes : List (BitVec 8)
  tags : List (Nat × U16) := []
  cls : BitVec 4 := 0#4
  deriving DecidableEq, Repr

/-- A store of a core access to its scratchpad in the last cycles: its cycle, class and place, and the bytes that it
replaced. An engine command that nothing orders after it may read those (R160, R342; log entry 82). -/
structure Recent where
  csc : U64
  cls : BitVec 4
  addr : Nat
  old : List (BitVec 8)
  deriving DecidableEq, Repr

/-- A fence in force (R172, R324): it stands after the accesses numbered below `first` and before those
numbered `last` and later. -/
structure Fence where
  first : Nat
  last : Nat
  mask : U16
  scope : Nat
  kind : Nat
  deriving DecidableEq, Repr

/-- One 64-byte line of a queue, its tag, and the cycles until it may be popped (R181). -/
structure QLine where
  bytes : List (BitVec 8)
  tag : U16
  wait : Nat
  deriving DecidableEq, Repr

/-- A conversion queue (R63, R181, R183); `link` is 1 upstream, 2 downstream, 0 none. -/
structure Queue where
  lines : List QLine := []
  fi : BitVec 7 := 0#7
  fo : BitVec 7 := 0#7
  md : BitVec 5 := 0#5
  link : Nat := 0
  deriving DecidableEq, Repr

/-- A stream binding (R184-R186). -/
structure ZBind where
  base : U64
  handle : Bool
  hand : U64
  dims : List (U32 × U32)
  ops : List (Nat × U32 × U16)
  i0 : Nat := 0
  i1 : Nat := 0
  i2 : Nat := 0
  pops : U32 := 0#32
  deriving DecidableEq, Repr

/-- The verifier (R37, R268, R283). `busy` counts the cycles it stays occupied by the operation issued at CSC `since`. -/
structure Ver where
  frag : U16 := 0#16
  tau : U32 := 0x3F800000#32
  cands : List U32 := []
  run : Bool := false
  slot : BitVec 6 := 0#6
  nstop : BitVec 4 := 0#4
  draft : U16 := 0#16
  j : U16 := 0#16
  base : U32 := 0#32
  fchk : U16 := 0#16
  ffin : U16 := 0#16
  fcom : U16 := 0#16
  fend : U16 := 0#16
  stops : List U32 := []
  busy : Nat := 0
  since : U64 := 0#64
  deriving DecidableEq, Repr

/-- A verifier operation under way, with what it has read so far (R283-R290); its effects land at the
end of the cycle in which `left` is 0. -/
structure VerOp where
  opc : Nat
  left : Nat
  o : Nat
  n : Nat
  k : Nat
  t : U64
  us : List U32
  prow : List Elem
  qrow : List Elem
  head : List Elem
  refused : BitVec 8
  deriving DecidableEq, Repr

/-- A page-request tag of a core stream (R171, R387). -/
structure PTag where
  page : U64
  st : Nat
  id : U64
  deriving DecidableEq, Repr

/-- A slab of a tile as read (R231, R232): ORIG and c_s as FP16 of its first block, c_s of every block, the
descriptors of its blocks, its bytes. -/
structure Slab where
  orig : Nat
  cs : U16
  css : List U16
  tags : List U16
  bytes : List (BitVec 8)
  deriving DecidableEq, Repr

/-- What an engine command has found so far: rows of elements in the order read, a single row (bound-in, bias,
list), the tile header, the slabs of the run and those that remain, the run's length and first slab, its
status, flags, and how a remote copy ended (R239, R243, R275, R202). `reads` gives the access of each line that it reads
outside the scratchpads, by the address of the line (for `mx` and `pan` the physical one), `writes` the accesses that write,
and `lost` the scratchpad bytes (core, address) that another command has written meanwhile and that keep that value (R198).
For a Winze command `phase` is 0 before its read accesses exist, 1 before all its writes do, 2 after; `pads` gives the
scratchpad lines read so far, with the descriptor of each, `wrote` the destination lines written in phase 1, `header` the
shape block, and `carry` the checksum carry as it stood at the start (R194, R196, R322). -/
structure CmdData where
  rows : List (List Elem) := []
  row : List Elem := []
  lists : List (List (BitVec 8)) := []
  header : List (BitVec 8) := []
  slabs : List Slab := []
  rest : List Slab := []
  n : Nat := 0
  i0 : Nat := 0
  width : Nat := 0
  status : Nat := 0
  flags : U32 := 0#32
  sent : Bool := false
  remote : Option RemoteEnd := none
  phase : Nat := 0
  reads : List (Nat × Nat) := []
  writes : List Nat := []
  lost : List (Nat × Nat) := []
  pads : List (Nat × List (BitVec 8) × U16) := []
  wrote : List Nat := []
  carry : U32 := 0#32
  deriving DecidableEq, Repr

/-- A command in an engine queue (R36): the word, the registers captured at issue, and its progress. `seq`
numbers the core's accesses issued before it and `csc` is its issue cycle; `stamp` is AT while it still counts,
`missed` says that AT had passed on entry. `el` counts the cycles since its start and `dur` is its duration;
`held` is the address of a page that it waits for, `moving` says that its write waits for the end of a migration (R332);
`chain` is the status that the command reports because a token that it consumed had failed (R35). -/
structure Cmd where
  instr : Instr
  seq : Nat := 0
  csc : U64 := 0#64
  stamp : U32 := 0#32
  missed : Bool := false
  regs : Store U64 := []
  mask : BitVec 4096 := 0#4096
  key : U64 := 0#64
  ctr : U64 := 0#64
  el : Option Nat := none
  dur : Nat := 0
  eng : Nat := 0
  held : Option (U64 × Bool) := none
  moving : Bool := false
  chain : Option Nat := none
  data : CmdData := {}
  deriving DecidableEq, Repr

/-- A write that lands at the end of the current cycle (R28, step 5). -/
inductive EndW where
  | reg (key : Nat) (v : U64)
  | sys (sel : Nat) (v : U64)
  | lcLoop (key : Nat) (v : U64)
  | kvMax (slot : Nat) (v : U32)
  | kvLen (slot : Nat) (v : U32)
  | qCfg (q : Nat) (fi fo : BitVec 7) (md : BitVec 5)
  | qClr (q : Nat)
  | qLink (q : Nat) (kind : Nat)
  | zSet (z : Nat) (addr : BitVec 24)
  | zRst (z : Nat)
  | frag (v : U16)
  | tau (v : U32)
  | clrFlags (v : U64)
  | setFlags (v : U64)
  | seed (k : U64)
  | timer (on : Bool)
  | tie (on : Bool)
  | halt
  | ifence
  | freeze
  | tarm
  | vshape (v : U32)
  | lbrk (n : Nat)
  | skip (n : Nat)
  | loop (e : LoopEng)
  | take (x : Xfer)
  | push (a : Addr20)
  | pop
  | enq (eng : EngKind) (c : Cmd)
  | preg (tag : Nat) (p : Option PTag)
  | fence (f : Fence)
  deriving DecidableEq, Repr

/-- An entry of the trace buffer (R315). -/
structure TraceEntry where
  stamp : U64
  kind : Nat
  info : BitVec 8
  data : U32
  deriving DecidableEq, Repr

/-- The trace buffer of a core (R315, R316), newest entry first; `pend` holds the events of the current
cycle, `hit` says that a bundle address matched in it, and `left` counts the events still to record after
the trigger. -/
structure Trace where
  entries : List TraceEntry := []
  pend : List TraceEntry := []
  hit : Bool := false
  frozen : Bool := false
  armed : Bool := false
  left : Option Nat := none
  deriving DecidableEq, Repr

/-- A fault raised at a boundary (R295, R299). -/
structure Cause where
  cls : Nat
  strm : Nat
  eng : Bool
  code : Nat
  tval : U64
  deriving DecidableEq, Repr

/-- What handler mode hides of a core stream (R302, R303): ports, loop engine with `p12`-`p15`, `b`
readiness, skip count, pending transfer, a wait for a token, and the records of what was in flight. -/
structure Hidden where
  opnd : Store U64
  res : Store U64
  vres : Store (List (BitVec 8))
  latch : Store U64
  loop : LoopEng
  preds : List Bool
  bwait : Store Nat
  skip : Nat
  xfer : Option Xfer
  flights : List Flight
  vops : List VOp
  lsv : List LsVec
  ver : List VerOp
  verBusy : Nat
  twait : Option Nat
  redirect : Bool
  epc : Addr20
  deriving DecidableEq, Repr

/-- Engines, units and buffers of a core beside its registers. `slowNew` are the slow-path flags set at the end of this
cycle, `slowKept` those of the cycle before: the command that set them completes in this one (R282). -/
structure Units where
  q : Store Queue := []
  z : Store ZBind := []
  conv : Store U32 := []
  kv : Store (U32 × U32) := []
  drawCtr : U64 := 0#64
  slow : U64 := 0#64
  slowNew : U64 := 0#64
  slowKept : U64 := 0#64
  mergeGreedy : Bool := false
  ver : Ver := {}
  verOps : List VerOp := []
  wzCarry : U32 := 0#32
  preq : Store PTag := []
  preqGen : Store U16 := []
  mxq : List Cmd := []
  wzq : List Cmd := []
  panq : List Cmd := []
  engGen : Store U16 := []
  deriving DecidableEq, Repr

/-! ## Memory accesses (R317-R323) -/

/-- A location outside the scratchpads: a Gallery line or a memory block, by number. -/
inductive Loc where
  | gal (line : Nat)
  | mem (block : Nat)
  deriving DecidableEq, Repr

/-- What an access does at its perform point. Store bytes come with their offsets in the location; `put` is the write of
an engine or of a link, which may carry the metadata of the block (R355). -/
inductive AccOp where
  | load
  | store (bytes : List (Nat × BitVec 8)) (tag : Option U16)
  | put (bytes : List (Nat × BitVec 8)) (tag : Option U16) (swm : Option U64)
  | bank (op : Nat) (off : Nat) (o c key : U64)
  | loadMeta
  | storeMeta (v : U64)
  deriving DecidableEq, Repr

/-- Where an access stands on its route (R319). -/
inductive Stage where
  | queue | cluster | die | package | system
  deriving DecidableEq, Repr

/-- The party that issues an access (R318, R319). -/
inductive Party where
  | core | engine | link
  deriving DecidableEq, Repr

/-- An access in the buffers: its party, its stream (for an engine access that of the command), class, location, place,
and its number among the stream's accesses. `arr` orders a channel; an access that is not `ready` does not leave its queue
yet. An access of an engine stands in stage `queue` until the engine places it in the cluster channel (R322, step 5); it
belongs to no class queue. -/
structure Access where
  id : Nat
  slot : Nat
  core : Nat
  cls : BitVec 4
  loc : Loc
  op : AccOp
  stage : Stage
  seq : Nat
  arr : Nat
  ready : Bool
  party : Party := .core
  deriving DecidableEq, Repr

/-- What is under way in the current cycle or in flight on a core stream. -/
structure Pipe where
  flights : List Flight := []
  vops : List VOp := []
  lsv : List LsVec := []
  endW : List EndW := []
  sflagNew : U32 := 0#32
  puts : List Put := []
  fences : List Fence := []
  reissue : List Access := []
  hidden : Option Hidden := none
  tret : Bool := false
  rcv : Bool := false
  sync : Option (BitVec 8) := none
  twait : Option Nat := none
  soft : Option U64 := none
  brk : Option U64 := none
  deriving DecidableEq, Repr

/-- Fetch buffers of a core stream (R334): lines fetched since the last `sys.ifence`, older contents of
lines written since, and the cycles until each pending fence discards them. -/
structure Fetch where
  lines : List Nat := []
  stale : List (Nat × List U32) := []
  fenceIn : List Nat := []
  deriving DecidableEq, Repr

/-- One core stream (R33, R37, R38). Registers are numbered 64·unit + selector (R80): `s`, `a`, `h`, then `p`, `b`, `lc` in
the control unit 3. `recent` holds the stores of the last cycles, newest first. `vres` holds the result ports of `vx0` and
`vx1`, the bytes of the chunk that completed last (R30, R31). `tokWhy` holds the status that a failed token's chain began
with (R35). -/
structure Core where
  ctl : Ctl := {}
  regs : Store U64 := []
  tok : Store (BitVec 2) := []
  tokWhy : Store Nat := []
  opnd : Store U64 := []
  res : Store U64 := []
  vres : Store (List (BitVec 8)) := []
  latch : Store U64 := []
  vshape : U32 := 0x00044010#32
  tile : TMem := {}
  masks : Store (BitVec 4096) := []
  xa : Store (U32 × U32) := []
  xaTag : Store U16 := []
  ay : Store U32 := []
  cur : Store (BitVec 8) := []
  scratch : TMem := {}
  recent : List Recent := []
  sflag : U32 := 0#32
  fen : U32 := 0#32
  key : U64 := 0#64
  tmr : U64 := 0#64
  trc : U64 := 0#64
  armed : Bool := false
  trace : Trace := {}
  units : Units := {}
  pipe : Pipe := {}
  fetch : Fetch := {}
  deriving DecidableEq, Repr

/-! ## Clusters -/

/-- A value of `xc` in transit (R178). -/
structure XcMsg where
  dst : Nat
  src : Nat
  v : U64
  left : Nat
  deriving DecidableEq, Repr

/-- A drain request (R309): the DCC at which it was raised, and whether the window W has passed. -/
structure Drain where
  since : Nat
  forced : Bool := false
  deriving DecidableEq, Repr

/-- What a cluster needs of its launch, from the bind record and the launch block (R380, R381). `maps` gives
the leaf entry (R363) of each virtual 64 KiB page that the loader itself maps: the code copy (R334) and the window
sections (R104). -/
structure Team where
  launch : Nat := 0
  team : Nat := 0
  teams : Nat := 1
  stages : Nat := 1
  cores : Nat := 1
  ptroot : Nat := 0
  code : Nat := 0
  codeSize : Nat := 0
  gbase : Nat := 0
  gsize : Nat := 0
  sqBase : Nat := 0
  sqCap : Nat := 0
  key : U64 := 0#64
  wins : Store (U64 × Nat) := []
  maps : List (Nat × U64) := []
  deriving DecidableEq, Repr

/-- A cluster with its bound team (R14, R21). `pause` counts DCC cycles of entry, return or dispatch; `landed`
says that the results due at the current CSC value have been delivered already, before a trap or a save;
`wzGen` numbers the page requests of each Winze engine (R387). `imemTag` holds the descriptor tags of instruction memory
(R50) and `reload` says that a line of it is being reloaded (R351). `asked` lists the streams that asked for the hold
that stands, with ENG of R296; `lent` lists the Winze engines that copy pages under migration, with the page of each
(R366); `took` lists the `wz` queues that have started a command in this cycle (R188); `hold` is its kind (wait) and its
length so far (R315). -/
structure Cluster where
  info : Team := {}
  csc : U64 := 0#64
  running : Bool := false
  start : U64 := 0#64
  imem : Store Byte := []
  imemTag : Store U16 := []
  reload : Bool := false
  cores : List Core := []
  handler : Bool := false
  hc : U64 := 0#64
  raised : List Cause := []
  lateIn : List Cause := []
  cause : U32 := 0#32
  tval : U64 := 0#64
  trapE : Option U64 := none
  holdLen : Nat := 0
  stall : Bool := false
  wait : Bool := false
  asked : List (Nat × Bool) := []
  hold : Option (Bool × Nat) := none
  drain : Option Drain := none
  polite : Bool := false
  saving : Bool := false
  toBoss : Option Cause := none
  stopped : Bool := false
  pause : Nat := 0
  xc : List XcMsg := []
  here : List XcMsg := []
  xcHid : List XcMsg := []
  endLoc : List LocW := []
  rr : Nat := 0
  took : List Nat := []
  lastSlice : Nat := 0
  canaryAt : Option U64 := none
  landed : Bool := false
  frames : List (List (BitVec 8)) := []
  wzGen : Store U16 := []
  lent : List (U64 × Nat) := []
  deriving DecidableEq, Repr

/-! ## Replies and memory -/

/-- The reply of an access that performed: the line's bytes and tag before it, the software metadata, the
status of a bank operation and its flags; `arrived` once the cluster has it. -/
structure Reply where
  id : Nat
  loc : Loc
  bytes : List (BitVec 8)
  tag : U16
  swMeta : U64
  old : U64
  status : BitVec 8
  flags : U32
  arrived : Bool
  deriving DecidableEq, Repr

/-- Device memory (R349-R358): bytes by physical address with a descriptor per block, software metadata per
block, and the ECC grade of each 64 KiB frame (default 1 after initialisation, R414). -/
structure Dram where
  mem : TMem := {}
  swMeta : Store U64 := []
  grade : Store Nat := []
  deriving DecidableEq, Repr

/-- One error counter block (R361). -/
structure ErrBlock where
  corr : U64 := 0#64
  unc : U64 := 0#64
  scrw : U64 := 0#64
  sccn : U64 := 0#64
  last : U64 := 0#64
  pass : U64 := 0#64
  deriving DecidableEq, Repr

/-- Fireboss (R359): the granule it has read and means to write, whether a demand write came since, and whether a read
of its own has dealt with the error meanwhile; the granules visited in this period. -/
structure Fire where
  loc : Option Loc := none
  poison : Bool := false
  cancelled : Bool := false
  fixed : Bool := false
  visited : List Loc := []
  hours : Nat := 24
  deriving DecidableEq, Repr

/-! ## Host interface (R370, R371, R385-R390) -/

/-- A completion record (R375). -/
structure Completion where
  tag : U64
  status : Nat
  queue : Nat
  index : Nat
  cause : U32
  team : U32
  late : U32
  dcc : U64
  deriving DecidableEq, Repr

/-- A launch queue with its doorbell (R370, R371). -/
structure LQueue where
  par : QueueParams
  tail : U16 := 0#16
  head : U16 := 0#16
  chead : U16 := 0#16
  ctail : U16 := 0#16
  waiting : List Completion := []
  deriving DecidableEq, Repr

/-- The two rings of the page-service queue (R386): base and number of records of each; `repDev` says that the reply ring
lies in device memory. -/
structure ServiceRings where
  req : U64 := 0#64
  reqEntries : Nat := 0
  rep : U64 := 0#64
  repDev : Bool := false
  repEntries : Nat := 0
  deriving DecidableEq, Repr

/-- A reply to a page request that has come in this DCC cycle: its identity, whether it says DONE, its route, and whether
it came after the time limit (R388, R389, R404). -/
structure PageAnswer where
  id : U64
  done : Bool
  pri : Bool
  late : Bool
  deriving DecidableEq, Repr

/-- The host interface. `armedAt` is the DCC of the last write to INJECT (R393). `prq` holds the request records as written
into their ring, with the place of each; `priSent` the page request messages sent: PASID, group index, address and whether
the access writes; `pri` the route and PASID that the launches of each queue take (R386). `answers` holds the replies of
this DCC cycle. `diag` and `rates` are what the driver's status service shows: the failed step with its code (R416), and the
joule rate of each launch queue in watts, as FP32 (R418). -/
structure HostIf where
  status : U64 := 0#64
  prqHead : U32 := 0#32
  prqTail : U32 := 0#32
  rpqTail : U32 := 0#32
  rpqHead : U32 := 0#32
  stale : U64 := 0#64
  inject : U64 := 0#64
  armedAt : U64 := 0#64
  queues : Store LQueue := []
  kills : List (Nat × Nat) := []
  written : List Completion := []
  msi : List Nat := []
  prq : List (Nat × List (BitVec 8)) := []
  pri : Store (Bool × BitVec 20) := []
  service : ServiceRings := {}
  priSent : List (BitVec 20 × Nat × U64 × Bool) := []
  answers : List PageAnswer := []
  diag : Option (Nat × U64) := none
  rates : Store U32 := []
  deriving DecidableEq, Repr

/-- A live page request (R386-R389); `group` is the group index that a PRI request holds once it is sent. -/
structure PageReq where
  id : U64
  va : U64
  write : Bool
  launch : Nat
  pri : Bool
  sent : Bool
  since : Nat
  group : Option Nat := none
  deriving DecidableEq, Repr

/-! ## Shiftboss (R370-R384) -/

/-- A stage queue (R13, R381): where its oldest byte stands in its range of the Gallery, and the length and descriptor of
each line held, oldest first. -/
structure StageQ where
  head : Nat := 0
  lines : List (Nat × U16) := []
  deriving DecidableEq, Repr

/-- A launch in progress: its entry (R372), image facts (R109), plan, and the progress of its teams.
`stageQ` holds the stage queue that joins team j to team j + 1 (R13, R381), whose bytes lie in the Gallery; `taken` is
the DCC of its acceptance, `since` that of the entry of its next team into the waiting set (R378), `claims` the slots that
it has claimed as a cooperative launch (R378); `pri` and `pasid` are its route for page requests (R386); `cut` says
that a loss of the die link affected it (R383, R421). -/
structure Launch where
  id : Nat
  queue : Nat
  index : Nat
  prio : Nat
  tag : U64
  coop : Bool
  gsize : Nat
  report : U64
  info : Team
  args : U64
  arglen : Nat
  entries : List U32
  locals : List (BitVec 8 × Nat × List (BitVec 8) × List U16)
  lblk : Nat
  galUnits : Nat
  taken : Nat := 0
  next : Nat := 0
  retired : List Nat := []
  since : Nat := 0
  late : Nat := 0
  startAt : Option U64 := none
  dead : Option Nat := none
  deadTeam : Option Nat := none
  cause : U32 := 0#32
  frames : List (List (BitVec 8)) := []
  stageQ : Store StageQ := []
  claims : List Nat := []
  cut : Bool := false
  pri : Bool := false
  pasid : BitVec 20 := 0#20
  deriving DecidableEq, Repr

/-- A team whose context is away (R311, R378); `since` is when it entered the waiting set, `addr` where Shiftboss keeps the
context. -/
structure Saved where
  launch : Nat
  team : Nat
  since : Nat
  ctx : Cluster
  addr : U64 := 0#64
  deriving DecidableEq, Repr

/-- What a bind record of the slot table holds beside STATE and SPARE (R380). -/
structure BindRec where
  queue : Nat
  resume : Bool
  coop : Bool
  team : Nat
  csc : U64
  ptroot : Nat
  lblk : Nat
  ctx : U64
  gbase : Nat
  galsz : Nat
  sqcap : Nat
  start : U64
  key : U64
  deriving DecidableEq, Repr

/-- Shiftboss. `binds` holds the bind records of the slots that have had one. Slot states are those of R380: 0 free,
1 bound, 2 saving, 3 out of service. `migrating` lists the pages under way: launch, virtual address, old and new physical
address (R332, R366). `malformed` lists the page-table entries reported as malformed, newest first: launch, physical
address, entry (R171, R364). -/
structure Boss where
  launches : List Launch := []
  slots : Store Nat := []
  spare : Store (BitVec 8) := []
  binds : Store BindRec := []
  saved : List Saved := []
  ageStep : Nat := 2 ^ 20
  slice : Nat := 2 ^ 22
  window : Nat := 50000
  canary : Nat := 2 ^ 22
  pageLimit : Nat := 2 ^ 30
  nextId : Nat := 1
  debugger : Bool := false
  migrating : List (Nat × U64 × Nat × Nat) := []
  malformed : List (Nat × Nat × U64) := []
  deriving DecidableEq, Repr

/-! ## Links, collectives, sessions (R391-R403) -/

/-- A remote copy under way from this module (R202): its command and node, and the payload sent: the launch, the address,
the bytes, the descriptor and the metadata of each source block, the kind of checksum and the value that it starts from. -/
structure Remote where
  id : Nat
  slot : Nat
  core : Nat
  node : BitVec 20
  launch : Nat := 0
  da : U64 := 0#64
  bytes : List (BitVec 8) := []
  blocks : List (U16 × Option U64) := []
  ck : BitVec 2 := 0#2
  start : U32 := 0#32
  deriving DecidableEq, Repr

/-- A payload of another module that is being written here (R202): who sent it, its writes that have not performed, and
its checksum. -/
structure Inbound where
  node : BitVec 20
  id : Nat
  writes : List Nat
  sum : U32
  deriving DecidableEq, Repr

/-- An answer to a payload, as returned to its module: how the copy ended and the checksum. -/
structure Answer where
  node : BitVec 20
  id : Nat
  how : RemoteEnd
  sum : U32
  deriving DecidableEq, Repr

/-- Levanter ports, Ethernet ports, routes and the DCC discipline (R391-R394, R414). `replays` counts the replays of each
port's current flit, `acked` is the DCC at which each port last had an acknowledgement (R391), `refused` lists the peers that
failed a check of session setup, `hellos` what this module has sent to set up sessions, with the node of each (R402). -/
structure Links where
  up : BitVec 24 := 0#24
  eth : BitVec 2 := 0#2
  replays : Store Nat := []
  routes : List (BitVec 20 × BitVec 5) := []
  node : BitVec 20 := 0#20
  sent : List Remote := []
  acked : Store Nat := []
  inbound : List Inbound := []
  answered : List Answer := []
  refused : List (BitVec 20) := []
  hellos : List (BitVec 20 × List (BitVec 8)) := []
  seen : List (BitVec 20 × Int) := []
  offset : Int := 0
  steadySince : Nat := 0
  retrains : Nat := 0
  retrainAsked : Bool := false
  deriving DecidableEq, Repr

/-- One collective under way on a ring (R397-R400). `parts` are the partials included, by entry; `posted` is the DCC at
which its descriptor was posted, `index` the descriptor's number. -/
structure Run where
  desc : List (BitVec 8)
  table : List (BitVec 20 × BitVec 20 × Bool)
  self : Nat
  depth : Nat
  own : Option (List (BitVec 8) × List U16)
  parts : List (Nat × List Nat × List (BitVec 8) × List U16)
  late : Nat
  forwarded : Bool
  page : Bool
  posted : Nat := 0
  index : U32 := 0#32
  deriving DecidableEq, Repr

/-- A collective ring mapped into a launch (R396). `posts` gives the DCC at which each posted descriptor was posted, from
HEAD on; `sent` is what the engine has sent for the ring's collectives, `early` what has come for those that it has not
started, with the DCC of each; `last` is the collective that ended last, and `code` the code of the last table rejected
(R397). -/
structure Ring where
  launch : Nat
  crb : U64
  size : U32
  tail : U32 := 0#32
  head : U32 := 0#32
  posts : List Nat := []
  run : Option Run := none
  sent : List CollMsg := []
  early : List (U32 × Nat × CollMsg) := []
  last : Option Run := none
  code : Nat := 0
  deriving DecidableEq, Repr

/-- An encrypted session (R402, R403). `sent` is the counter of the next frame sent and `high` the highest accepted; `frames`
counts the frames since the keys were made, at DCC `since`; `out` lists the frames sent by their nonces, `inbox` what
accepted frames have delivered. -/
structure Session where
  sid : U32
  node : BitVec 20
  keys : BitVec 512
  sent : U64 := 0#64
  high : Option U64 := none
  seen : List U64 := []
  since : Nat := 0
  frames : Nat := 0
  dropped : Nat := 0
  out : List (BitVec 96 × CollMsg) := []
  inbox : List (List (BitVec 8)) := []
  deriving DecidableEq, Repr

/-! ## Board (R414-R422) -/

/-- How far the last start got. -/
inductive Phase where
  | off | waitPll | partway (step : Nat) | ready | failed (step : Nat) | safe
  deriving DecidableEq, Repr

/-- What a die has fused (R419): the digest of the firmware-signing key and the rollback counter. -/
structure Fuse where
  key : BitVec 512 := 0#512
  rollback : U32 := 0#32
  deriving DecidableEq, Repr

/-- The board controller, the fuses and the power governor. `memReady` says that memory has been initialised since power
came, `readyAt` is the DCC at which ready was set (R415), `factory` the factory value of joules per quantum (R414, R417),
`trips` the thermal-trip records not yet read, oldest first (R5, R418). `fw` is the image that the dies run and `staged` one
that an update has left for the next start (R419). `failStep` and `failCode` say where the last failed start failed
(R416). -/
structure Board where
  phase : Phase := .off
  fails : Nat := 0
  retained : Bool := false
  memReady : Bool := false
  readyAt : Option U64 := none
  jpq : U32 := 0#32
  factory : U32 := 0x2D418399#32
  hot : Bool := false
  trips : List (Bool × U64 × List (Nat × Nat)) := []
  fw : FwImage := { version := 0#32, digest := 0#512, shadow := 0#512, key := 0#512, good := true }
  fuseA : Fuse := {}
  fuseB : Fuse := {}
  raiseTo : Option U32 := none
  failStep : Nat := 0
  failCode : U64 := 0#64
  staged : Option FwImage := none
  reports : List (List (BitVec 8)) := []
  deriving DecidableEq, Repr

/-- One row scheduled with the data that comes with it, and the errors that the reads of the step find beside the one
that the input may name (R351, R357). -/
structure Event where
  row : Instr
  inp : Input
  finds : List (Loc × EccFind) := []
  deriving DecidableEq, Repr

/-! ## The module -/

/-- The state of a module. `agenda` schedules asynchronous and external steps, `inp` is the input of the
step being taken, `bad` the locations whose error the reads of this step could not correct (R358), `cur` the issuing stream
(8·slot + core), `freeCtr` the counter of free values: these five are the model's own. -/
structure State where
  agenda : List Event := []
  inp : Input := .none
  bad : List Loc := []
  cur : Nat := 0
  freeCtr : Nat := 0
  dcc : U64 := 0#64
  clusters : Store Cluster := []
  gal : TMem := {}
  bankCtr : Store U64 := []
  dram : Dram := {}
  acc : List Access := []
  nextAcc : Nat := 0
  replies : List Reply := []
  errs : Store ErrBlock := []
  fire : Fire := {}
  host : HostIf := {}
  pages : List PageReq := []
  boss : Boss := {}
  links : Links := {}
  rings : List Ring := []
  sessions : List Session := []
  allow : List (BitVec 512) := []
  board : Board := {}
  deriving DecidableEq, Repr

/-- The module at the end of reset, before a start has run any step: DCC 0 (R22, R414), every host
register 0 (R385), no launch, no memory contents listed, no core bound. Registers of a core take the
values of R33 and R34 when a team is bound. -/
def State.reset : State := {}

end Sys2Proof.Machine
end

