-- ==== Sys2Proof/Machine/Base.lean ====
section
/-!
DEFINITION. Reading and changing the parts of the state: the issuing stream, registers and ports
(spec/01 R28-R33, spec/03 R80, R81, spec/04 R113-R115, R123), causes raised, and holds asked for.
-/
namespace Sys2Proof.Machine

open Sys2Proof

/-- The value listed at a key, if any. -/
def slook {α : Type} : Store α → Nat → Option α
  | [], _ => none
  | (i, v) :: t, k => if i = k then some v else slook t k

/-- Changes the value listed at a key; an unlisted key stays unlisted. -/
def smod {α : Type} (f : α → α) (k : Nat) : Store α → Store α
  | [] => []
  | (i, v) :: t => if i = k then (i, f v) :: t else (i, v) :: smod f k t

/-- Changes the element at an index; beyond the end nothing changes. -/
def lmod {α : Type} (f : α → α) : Nat → List α → List α
  | _, [] => []
  | 0, x :: t => f x :: t
  | n + 1, x :: t => x :: lmod f n t

/-- The cluster of a slot; an unbound slot reads as an empty one. -/
def State.cluster (s : State) (k : Nat) : Cluster := (slook s.clusters k).getD {}

/-- Changes the cluster of a bound slot. -/
def State.updCluster (s : State) (k : Nat) (f : Cluster → Cluster) : State :=
  { s with clusters := smod f k s.clusters }

/-- A core of a cluster. -/
def Cluster.core (c : Cluster) (i : Nat) : Core := c.cores.getD i {}

/-- Changes a core of a cluster. -/
def Cluster.updCore (c : Cluster) (i : Nat) (f : Core → Core) : Cluster :=
  { c with cores := lmod f i c.cores }

/-- The slot and the core of the issuing stream. -/
def State.slotOf (s : State) : Nat := s.cur / 8
def State.coreOf (s : State) : Nat := s.cur % 8

/-- The cluster of the issuing stream. -/
def State.myCluster (s : State) : Cluster := s.cluster s.slotOf

/-- The issuing stream. -/
def State.me (s : State) : Core := s.myCluster.core s.coreOf

/-- Changes the cluster of the issuing stream. -/
def State.updMine (s : State) (f : Cluster → Cluster) : State := s.updCluster s.slotOf f

/-- Changes the issuing stream. -/
def State.updMe (s : State) (f : Core → Core) : State := s.updMine (fun c => c.updCore s.coreOf f)

/-! ## Registers and ports -/

/-- The number of a register or port: 64·unit + selector. -/
def keyOf (u s : Nat) : Nat := 64 * u + s

def kS (n : Nat) : Nat := n
def kA (n : Nat) : Nat := 64 + n
def kH (n : Nat) : Nat := 128 + n
def kP (n : Nat) : Nat := 192 + n
def kB (n : Nat) : Nat := 208 + n
def kLc (n : Nat) : Nat := 216 + n

/-- A register that discards writes (R29). -/
def hardwired (key : Nat) : Bool := key = kS 0 || key = kA 0 || key = kP 0

/-- Reads a register: `p0` is true, `s0` and `a0` are 0 (R29, R33). -/
def Core.reg (c : Core) (key : Nat) : U64 :=
  if key = kP 0 then 1#64 else if hardwired key then 0#64 else sget 0#64 c.regs key

/-- What a register keeps of a moved value (R29, R81). -/
def regKeep (key : Nat) (v : U64) : U64 :=
  if key < 64 then v &&& 0xFFFFFFFF#64
  else if key < 192 then v
  else if key < 208 then (if v = 0#64 then 0#64 else 1#64)
  else if key < 216 then v &&& 0xFFFFF#64
  else v &&& 0xFFFFFFFF#64

/-- Writes a register; writes to `s0`, `a0` and `p0` are discarded (R29). -/
def Core.setReg (c : Core) (key : Nat) (v : U64) : Core :=
  if hardwired key then c else { c with regs := sset 0#64 c.regs key (regKeep key v) }

def Core.sreg (c : Core) (n : Nat) : U32 := (c.reg (kS n)).setWidth 32
def Core.areg (c : Core) (n : Nat) : U64 := c.reg (kA n)
def Core.hreg (c : Core) (n : Nat) : U64 := c.reg (kH n)
def Core.breg (c : Core) (n : Nat) : Addr20 := (c.reg (kB n)).setWidth 20
def Core.lcreg (c : Core) (n : Nat) : U32 := (c.reg (kLc n)).setWidth 32

/-- A predicate; `p0` is true (R28, R33). -/
def Core.pred (c : Core) (n : Nat) : Bool := c.reg (kP n) != 0#64

/-- A guard (R28, step 1). -/
def Core.guard (c : Core) (g : BitVec 4) (n : Bool) : Bool :=
  if g = 0#4 then !n else c.pred g.toNat != n

/-- The state code of a token; `k0` is always free (R29, R35). -/
def Core.token (c : Core) (k : Nat) : BitVec 2 := sget 0#2 c.tok k

/-- Sets the state of a token; `k0` has none (R35). -/
def Core.setToken (c : Core) (k : Nat) (v : BitVec 2) : Core :=
  if k = 0 then c else { c with tok := sset 0#2 c.tok k v }

/-- The width of an operand port (R114). -/
def portWidth (u s : Nat) : Nat :=
  match u with
  | 0x08 | 0x09 | 0x0D => 32
  | 0x0A | 0x0B => if s ≤ 3 then 64 else 32
  | 0x0C => if s ≤ 1 then 64 else if s = 2 then 4 else 5
  | 0x0E => if s = 0 then 64 else 8
  | 0x0F => if s ≤ 1 then 64 else 4
  | 0x13 => 64
  | 0x14 => if s = 0 then 24 else if s = 1 then 32 else 3
  | 0x16 => if s ≤ 1 then 7 else 5
  | 0x17 => 24
  | _ => 64

/-- The number under which an operand port is held: the `ag.kv` configuration has two names (R115). -/
def portKey (u s : Nat) : Nat := if u = 0x0B && 2 ≤ s then keyOf 0x0A s else keyOf u s

/-- Reads an operand port (R32). -/
def Core.port (c : Core) (u s : Nat) : U64 := sget 0#64 c.opnd (portKey u s)

/-- Writes an operand port, which keeps the low bits up to its width (R113). -/
def Core.setPort (c : Core) (u s : Nat) (v : U64) : Core :=
  { c with opnd := sset 0#64 c.opnd (portKey u s) (v &&& BitVec.ofNat 64 (2 ^ portWidth u s - 1)) }

/-- Reads a result port (R30). -/
def Core.result (c : Core) (u s : Nat) : U64 := sget 0#64 c.res (keyOf u s)

/-- Puts a value into a result port (R30). -/
def Core.setResult (c : Core) (key : Nat) (v : U64) : Core := { c with res := sset 0#64 c.res key v }

/-- Ports `ls.h` and `ls.hr`. -/
def kLsH : Nat := keyOf 0x0C 1
def kLsHr : Nat := keyOf 0x0C 2

/-- Reads a control register of `sys` (R123). In handler mode `sys.csc` reads the boundary e (R303). -/
def State.sysReg (s : State) (sel : Nat) : U64 :=
  let c := s.me
  let cl := s.myCluster
  match sel with
  | 0 => 1#64
  | 1 => cl.csc
  | 2 => s.dcc
  | 3 => c.sflag.setWidth 64
  | 4 => c.fen.setWidth 64
  | 5 => c.key
  | 6 => s.board.jpq.setWidth 64
  | 7 => c.tmr
  | 8 => cl.cause.setWidth 64
  | 9 => cl.tval
  | _ => c.trc

/-- The 64-bit value of a move's source at the start of the cycle (R28, R29, R81, R83, R114). -/
def State.source (s : State) : Src → U64
  | .imm low => low.signExtend 64
  | .imm1 l1 low => (l1 ++ low).signExtend 64
  | .imm2 l1 l2 low => (l2.setWidth 25 ++ (l1 ++ low) : BitVec 64)
  | .reg u sel =>
    let c := s.me
    match u.toNat with
    | 0 | 1 | 2 | 3 => c.reg (keyOf u.toNat sel.toNat)
    | 4 => (c.token sel.toNat).setWidth 64
    | 0x13 => if sel = 1#6 then c.units.slow else c.result 0x13 sel.toNat
    | 0x14 => if sel = 1#6 then c.units.ver.frag.setWidth 64 else c.result 0x14 sel.toNat
    | 0x18 => s.sysReg sel.toNat
    | n => c.result n sel.toNat

/-! ## Raising and holding -/

/-- Raises a cause at the current boundary (R298). The bundles of the cycle then take no effect. -/
def Cluster.raise (c : Cluster) (x : Cause) : Cluster := { c with raised := c.raised ++ [x] }

/-- The issuing stream raises a fault of a class with a code and its value (R295, R296). -/
def State.raise (s : State) (cls code : Nat) (tval : U64) : State :=
  s.updMine (·.raise { cls := cls, strm := s.coreOf, eng := false, code := code, tval := tval })

/-- A timing fault at the bundle of the issuing stream (R296, R297). -/
def State.timing (s : State) (code : Nat) : State := s.raise 2 code (s.me.ctl.pc.setWidth 64)

/-- The issuing bundle cannot take effect yet: a stall hold (R23). -/
def State.askStall (s : State) : State :=
  s.updMine (fun c => { c with stall := true, asked := c.asked ++ [(s.coreOf, false)] })

/-- An engine command of the stream cannot go on: a stall hold (R23, R189, R259). -/
def State.askEngine (s : State) : State :=
  s.updMine (fun c => { c with stall := true, asked := c.asked ++ [(s.coreOf, true)] })

/-- The issuing bundle cannot take effect yet: a wait hold (R23). -/
def State.askWait (s : State) : State :=
  s.updMine (fun c => { c with wait := true, asked := c.asked ++ [(s.coreOf, false)] })

/-- Schedules a write of the issuing stream for the end of the cycle (R28, step 5). -/
def Core.atEnd (c : Core) (w : EndW) : Core := { c with pipe := { c.pipe with endW := c.pipe.endW ++ [w] } }

/-- Schedules the completion of an operation `lat` cycles from now (R30). -/
def Core.deliver (c : Core) (lat : Nat) (puts : List Put) : Core :=
  { c with pipe := { c.pipe with flights := c.pipe.flights ++ [{ left := lat, puts := puts }] } }

/-- Schedules one value into a result port. -/
def Core.deliverPort (c : Core) (lat u s : Nat) (v : U64) : Core := c.deliver lat [.port (keyOf u s) v]

/-- Sets sticky flags as a result is delivered at the start of a cycle (R38); a clearing write in the same cycle
does not clear them (R40). -/
def Core.stickyNow (c : Core) (f : U32) : Core :=
  { c with sflag := c.sflag ||| f, pipe := { c.pipe with sflagNew := c.pipe.sflagNew ||| f } }

/-- Sets sticky flags at the end of the current cycle (R38, R40). -/
def Core.sticky (c : Core) (f : U32) : Core :=
  { c with pipe := { c.pipe with sflagNew := c.pipe.sflagNew ||| f } }

/-- Notes an event of a kind for the trace buffer if the event mask enables it (R315, R316). -/
def Core.event (c : Core) (kind : Nat) (info : BitVec 8) (data : U32) : Core :=
  if c.trc.getLsbD (kind - 1) then
    { c with trace := { c.trace with pend := c.trace.pend ++ [{ stamp := 0#64, kind := kind, info := info, data := data }] } }
  else c

/-- Takes a fresh number for a free value. -/
def State.fresh (s : State) : State := { s with freeCtr := s.freeCtr + 1 }

/-- The number of a free value: `kind` and `n` keep the uses of one cycle apart (log entry 4). -/
def State.freeAt (s : State) (kind n : Nat) : Nat := s.freeCtr + ((kind * 512 + s.cur) * 2 ^ 32 + n)

/-! ## The frame of every short move -/

/-- A short move of the issuing stream: under a false guard nothing happens; otherwise `f` acts with the
value moved (R28). -/
def short (t : Trig) (s : State) (f : U64 → State → State) : Host.Outcome State Fault Refusal :=
  if s.me.guard t.g t.n then .next (f (s.source t.src) s) else .next s

/-- A short move that acts on the issuing stream alone. -/
def shortMe (t : Trig) (s : State) (f : U64 → Core → Core) : Host.Outcome State Fault Refusal :=
  short t s (fun v s => s.updMe (f v))

end Sys2Proof.Machine
end

