-- ==== Sys2Proof/Machine/Fetch.lean ====
section
/-!
DEFINITION. Fetch: instruction memory to bundles (spec/03 R73-R76), with the lines that the fetch buffers
may still hold (spec/11 R334).
-/
namespace Sys2Proof.Machine

open Sys2Proof

/-- The parcel of instruction memory at an address; addresses wrap at 20 bits (R73). -/
def imemWord (m : Store Byte) (a : Nat) : U32 :=
  let b (i : Nat) : Byte := sget 0#8 m ((a + i) % 2 ^ 20)
  b 3 ++ (b 2 ++ (b 1 ++ b 0))

/-- `n` parcels from an address up. -/
def imemWords (m : Store Byte) : Nat → Nat → List U32
  | _, 0 => []
  | a, n + 1 => imemWord m a :: imemWords m (a + 4) n

/-- The 16 parcels of a line. -/
def imemLine (m : Store Byte) (line : Nat) : List U32 := imemWords m (64 * line) 16

/-- The first buffered content of a line that a run of free choices takes, if any. -/
def pickStale : Nat → List (Nat × List U32) → Option (List U32)
  | _, [] => none
  | k, p :: t => if Config.freeBit k then some p.2 else pickStale (k + 1) t

/-- What a stream fetches for a line: instruction memory as it stands, or one of the older contents that its
buffers may hold, as free choices give (R334). -/
def fetchLine (m : Store Byte) (f : Fetch) (ctr line : Nat) : List U32 :=
  let now := imemLine m line
  match f.stale.filter (fun p => p.1 = line && p.2 ≠ now) with
  | [] => now
  | old => (pickStale ctr old).getD now

/-- Searches for a bundle from `pc` on: skips lines at pad words (R75); none after `fuel` lines. -/
def findBundle (line : Nat → List U32) : Nat → Nat → Option Bundle
  | 0, _ => none
  | fuel + 1, pc =>
    let ps := (line (pc / 64)).drop (pc % 64 / 4)
    match ps with
    | [] => none
    | p :: _ =>
      if p = 0xFFFFFFFF#32 then findBundle line fuel ((pc / 64 + 1) * 64 % 2 ^ 20)
      else some (decodeBundle (BitVec.ofNat 20 pc) ps)

/-- The bundle that fetch finds from `pc` on, after abandoning at most 16,383 lines (R75); bits [1:0] of
the address are ignored (R73). -/
def bundleAt (line : Nat → List U32) (pc : Addr20) : Option Bundle :=
  findBundle line 16384 (pc.toNat / 4 * 4)

/-- The address that follows `n` bundles in sequence from `pc` on, as fetch finds them (R76, R334). -/
def afterBundles (line : Nat → List U32) : Nat → Addr20 → Addr20
  | 0, pc => pc
  | n + 1, pc =>
    match bundleAt line pc with
    | some b => afterBundles line n b.next
    | none => pc

/-- The words that fetch finds in a line for the stream (R73, R334). -/
def State.lineOf (s : State) (line : Nat) : List U32 :=
  fetchLine s.myCluster.imem s.me.fetch (s.freeAt 0 (1024 * line)) line

end Sys2Proof.Machine
end

