-- ==== Sys2Proof/Machine/Mem.lean ====
section
/-!
DEFINITION. Memory beyond the registers: the physical map and the Gallery (spec/15 R349-R358, spec/06 R163),
translation (R362-R364), local addresses (R159), and the perform step of an access (spec/11 R317-R329).
-/
namespace Sys2Proof.Machine

open Sys2Proof

/-! ## The map -/

/-- The descriptor of a cleared scratchpad or tile line: raw, unity scale (R33, R34). -/
def dtOn : U16 := 0x00FF#16

/-- The descriptor that memory initialisation writes to device memory and on-die lines (R50, R414). -/
def dtZero : U16 := 0#16

/-- The memory node of a physical address (R349). -/
def memNode (pa : Nat) : Option Nat :=
  if pa < 0x6000000000 then some 0
  else if 0x8000000000 ≤ pa && pa < 0xE000000000 then some 1
  else if 0x10000000000 ≤ pa && pa < 0x30000000000 then some 2
  else none

/-- The die of a slot: slot 32d + c is cluster c of die d (R380). -/
def dieOf (slot : Nat) : Nat := slot / 32 % 2

/-- The die of a Gallery line (R163). -/
def galDie (line : Nat) : Nat := if line < 0x300000 then 0 else 1

/-- The bank of a Gallery line, numbered through both dies (R163, R352). -/
def galBank (line : Nat) : Nat := 2048 * galDie line + (line - 0x300000 * galDie line) % 2048

/-- The error counter block of a location: HBM4 of dies A and B, the capacity tier, SRAM of dies A and B
(R361). -/
def errKey : Loc → Nat
  | .mem b => (memNode (64 * b)).getD 0
  | .gal l => 3 + galDie l

/-- A counter that saturates at its maximum (R361). -/
def satInc (x : U64) : U64 := if x = BitVec.allOnes 64 then x else x + 1

/-- Changes one error counter block. -/
def State.updErr (s : State) (k : Nat) (f : ErrBlock → ErrBlock) : State :=
  { s with errs := sset {} s.errs k (f (sget {} s.errs k)) }

/-- The ECC grade of the frame that holds a physical address: the frame grade map of R356. -/
def State.gradeOf (s : State) (pa : Nat) : Nat := sget 1 s.dram.grade (pa / 65536)

/-- The metadata bits of a grade (R355, R170). -/
def metaBits (g : Nat) : Nat := if g = 1 then 32 else if g = 2 then 40 else 0

/-! ## Locations -/

/-- The 64 bytes of a location. -/
def State.locBytes (s : State) : Loc → List Byte
  | .gal l => s.gal.bytes (64 * l) 64
  | .mem b => s.dram.mem.bytes (64 * b) 64

/-- The descriptor of a location. -/
def State.locTag (s : State) : Loc → U16
  | .gal l => s.gal.tag dtZero (64 * l)
  | .mem b => s.dram.mem.tag dtZero (64 * b)

/-- Every byte of a location is written. -/
def whole (ws : List (Nat × Byte)) : Bool := (List.range 64).all (fun i => ws.any (fun w => w.1 = i))

/-- Bytes from an offset up, with their offsets. -/
def bytesAt (off : Nat) (bs : List Byte) : List (Nat × Byte) := bs.mapIdx (fun i b => (off + i, b))

/-- The address field of a page-table entry (R363). -/
def entryAddr (e : U64) : Nat := field e.toNat 8 44 * 256

/-- The size of a launch's code copy, in whole pages (R334). -/
def Team.codeSpan (t : Team) : Nat := ceilDiv t.codeSize 65536 * 65536

/-- The virtual page at which instruction address 0 lies (R334). -/
def codeVpn : Nat := 0x1FFFFFFFFF0

/-- The frame of page `i` of a launch's code copy, where it is mapped: the loader's, or one that it was moved to. -/
def Team.codePage (t : Team) (i : Nat) : Option Nat :=
  (slook t.maps (codeVpn + i)).bind (fun e => if e.getLsbD 0 then some (entryAddr e) else none)

/-- The instruction address of a block of device memory that lies in the code copy of a launch. -/
def Team.codeOff (t : Team) (block : Nat) : Option Nat :=
  (List.range (t.codeSpan / 65536)).findSome? (fun i => (t.codePage i).bind (fun b =>
    if b ≤ 64 * block && 64 * block < b + 65536 then some (65536 * i + (64 * block - b)) else none))

/-- The device memory behind an instruction address, where the code copy reaches it. -/
def Team.codeAt (t : Team) (a : Nat) : Option Nat :=
  if a < t.codeSpan then (t.codePage (a / 65536)).map (fun b => b + a % 65536) else none

/-- The perform step of a write to the code copy of a launch also writes the instruction memory of every
cluster that holds one of its teams, the line's tag where all of it is written; a stream that has fetched the line keeps
its older contents as a possible fetch (R334, R50). -/
def Cluster.mirror (c : Cluster) (block : Nat) (ws : List (Nat × Byte)) (tag : Option U16) : Cluster :=
  match c.info.codeOff block with
  | none => c
  | some at' =>
    let old := imemLine c.imem (at' / 64)
    { c with
      imem := sput 0#8 c.imem (ws.map (fun w => (at' + w.1, w.2)))
      imemTag := match tag with
        | some t => if whole ws then sset dtZero c.imemTag (at' / 64) t else c.imemTag
        | none => c.imemTag
      cores := c.cores.map (fun k =>
        if k.fetch.lines.contains (at' / 64) then
          { k with fetch := { k.fetch with stale := (at' / 64, old) :: k.fetch.stale } }
        else k) }

/-- A demand write to a location cancels the pending Fireboss write (R359). -/
def State.touch (s : State) (l : Loc) : State :=
  if s.fire.loc = some l then { s with fire := { s.fire with cancelled := true } } else s

/-- Writes bytes of a location; a write of all 64 also sets its descriptor where `tag` gives one (R51). -/
def State.writeLoc (s : State) (l : Loc) (ws : List (Nat × Byte)) (tag : Option U16) : State :=
  let put (m : TMem) (a : Nat) : TMem :=
    let m := ws.foldl (fun m w => m.wr (a + w.1) w.2) m
    match tag with
    | some t => if whole ws then m.wrTag dtZero a t else m
    | none => m
  let s := s.touch l
  match l with
  | .gal k => { s with gal := put s.gal (64 * k) }
  | .mem b =>
    { s with
      dram := { s.dram with mem := put s.dram.mem (64 * b) }
      clusters := s.clusters.map (fun p => (p.1, p.2.mirror b ws tag)) }

/-- Makes a location poison: zero data, descriptor 0xFFFF, zero metadata (R351, R357). It is no store, so instruction
memory keeps its copy (R334). -/
def State.poisonLoc (s : State) (l : Loc) : State :=
  match l with
  | .gal k => { s with gal := (s.gal.wrs (64 * k) (List.replicate 64 0#8)).wrTag dtZero (64 * k) 0xFFFF#16 }
  | .mem b =>
    { s with
      dram := { s.dram with
        mem := (s.dram.mem.wrs (64 * b) (List.replicate 64 0#8)).wrTag dtZero (64 * b) 0xFFFF#16
        swMeta := sset 0#64 s.dram.swMeta b 0#64 } }

/-- Counts a poisoned block or line and notes its physical address (R361). -/
def State.countUnc (s : State) (l : Loc) : State :=
  s.updErr (errKey l) (fun e =>
    { e with unc := satInc e.unc, last := match l with | .mem b => BitVec.ofNat 64 (64 * b) | .gal _ => e.last })

/-- The error that a read finds cannot be corrected: more than one unit, or any error under grade 2 (R351,
R357). -/
def State.uncorrectable (s : State) (l : Loc) (f : EccFind) : Bool :=
  f = .more || (f = .one && match l with | .mem b => s.gradeOf (64 * b) = 2 | .gal _ => false)

/-- The error that a read finds when `f` is what it is told to find: an error that Fireboss has read, and that neither
its write nor another access has dealt with, still stands (R359, R360). -/
def State.found (s : State) (l : Loc) (f : EccFind) : EccFind :=
  if s.fire.loc = some l && !s.fire.cancelled && !s.fire.fixed then
    (if s.fire.poison then .more else if f = .clean then .one else f)
  else f

/-- The error that Fireboss has read in a location is dealt with. -/
def State.mended (s : State) (l : Loc) : State :=
  if s.fire.loc = some l then { s with fire := { s.fire with fixed := true } } else s

/-- What a read makes of the error it finds (R351, R357): corrected and counted, or poison. -/
def State.eccRead (s : State) (l : Loc) (f : EccFind) : State :=
  let f := s.found l f
  if s.uncorrectable l f then ((s.poisonLoc l).countUnc l).mended l
  else if f = .one then (s.updErr (errKey l) (fun e => { e with corr := satInc e.corr })).mended l
  else s

/-- The errors that the reads of a step find: each is dealt with before the step (log entry 64), and what could not be
corrected is noted for the partial writes of the step (R358). -/
def State.findAll (s : State) (fs : List (Loc × EccFind)) : State :=
  fs.foldl (fun (s : State) f =>
    let t := s.eccRead f.1 f.2
    if s.uncorrectable f.1 (s.found f.1 f.2) then { t with bad := t.bad ++ [f.1] } else t) { s with bad := [] }

/-! ## Translation (R362-R364) -/

/-- What a walk finds: a leaf entry with its level, no mapping, or a malformed entry and where it lies. -/
inductive Xlat where
  | leaf (e : U64) (level : Nat)
  | unmapped
  | malformed (pa : Nat) (e : U64)
  deriving DecidableEq, Repr

/-- The index of a virtual address at a level (R362). -/
def walkIndex (va level : Nat) : Nat :=
  match level with
  | 0 => field va 43 14
  | 1 => field va 30 13
  | 2 => field va 21 9
  | _ => field va 16 5

/-- Address bits that a leaf of a level leaves to the offset (R362). -/
def pageBits (level : Nat) : Nat := if level = 1 then 30 else if level = 2 then 21 else 16

/-- The alignment of the table below a level (R362). -/
def tableAlign (level : Nat) : Nat := if level = 0 then 2 ^ 16 else if level = 1 then 2 ^ 12 else 2 ^ 8

/-- A 64-bit word of device memory (R363). -/
def State.physWord (s : State) (pa : Nat) : U64 := BitVec.ofNat 64 (leNat (s.dram.mem.bytes pa 8))

/-- Every frame of a page has one grade in the frame grade map (R356, R364). -/
def State.gradesAre (s : State) (pa bits g : Nat) : Bool :=
  let n := 2 ^ (bits - 16)
  let l := sslice s.dram.grade (pa / 65536) (pa / 65536 + n)
  if g = 1 then l.isEmpty else l.length = n && l.all (fun p => p.2 = g)

/-- The reserved memory of Shiftboss: the top 16 GiB of each HBM4 range (R349). -/
def bossMem (a n : Nat) : Bool :=
  (0x5C00000000 ≤ a && a + n ≤ 0x6000000000) || (0xDC00000000 ≤ a && a + n ≤ 0xE000000000)

/-- An entry at a level is malformed (R363, R364). DEDUCED: frames of Shiftboss's own memory are never mapped into a launch
(R349), and a leaf that names one is malformed (log entry 85). -/
def State.badEntry (s : State) (e : U64) (level : Nat) : Bool :=
  let x := e.toNat
  let pa := entryAddr e
  let leaf := bitAt x 1
  field x 52 12 ≠ 0 || field x 6 2 = 3 || (memNode pa).isNone ||
  (if leaf then level = 0 || pa % 2 ^ pageBits level ≠ 0 || bossMem pa 1 || bossMem (pa + 2 ^ pageBits level - 1) 1 || !(s.gradesAre pa (pageBits level) (field x 6 2))
   else level = 3 || pa % tableAlign level ≠ 0 || field x 2 6 ≠ 0)

/-- Walks a page table from a level (R364); `n` levels are left. -/
def State.walk (s : State) (va : Nat) : Nat → Nat → Xlat
  | 0, _ => .unmapped
  | n + 1, table =>
    let level := 3 - n
    let at' := table + 8 * walkIndex va level
    let e := s.physWord at'
    if !(e.getLsbD 0) then .unmapped
    else if s.badEntry e level then .malformed at' e
    else if e.getLsbD 1 then .leaf e level
    else s.walk va n (entryAddr e)

/-- A leaf entry as the loader maps a frame: resident, readable and writable, grade 1 (R104, R334). -/
def ownLeaf (frame : Nat) : U64 := BitVec.ofNat 64 (65536 * frame) ||| 0x77#64

/-- Translates a virtual address of a team's launch (R364); the entries of the pages that the loader mapped come first. -/
def State.translate (s : State) (t : Team) (va : Nat) : Xlat :=
  if 2 ^ 57 ≤ va then .unmapped
  else
    match slook t.maps (va / 65536) with
    | some e => if e.getLsbD 0 then .leaf e 3 else .unmapped
    | none => s.walk va 4 t.ptroot

/-- A malformed entry that a walk for a launch met is reported to Shiftboss (R171, R364). -/
def State.report (s : State) (launch : Nat) (x : Xlat) : State :=
  match x with
  | .malformed pa e => { s with boss := { s.boss with malformed := (launch, pa, e) :: s.boss.malformed } }
  | _ => s

/-- A read finds the error that Fireboss has read in its location and that still stands (R357, R359). -/
def State.met (s : State) (l : Loc) : State := if s.fire.loc = some l then s.eccRead l .clean else s

/-- The blocks of page tables that a walk from a level reads (R364). -/
def State.walkLocs (s : State) (va : Nat) : Nat → Nat → List Loc
  | 0, _ => []
  | n + 1, table =>
    let at' := table + 8 * walkIndex va (3 - n)
    let e := s.physWord at'
    .mem (at' / 64) ::
      (if e.getLsbD 0 && !(e.getLsbD 1) && !(s.badEntry e (3 - n)) then s.walkLocs va n (entryAddr e) else [])

/-- The walk for a virtual address of a team's launch meets a standing error in an entry that it reads (R357). -/
def State.walked (s : State) (t : Team) (va : Nat) : State :=
  if s.fire.loc.isNone || 2 ^ 57 ≤ va || (slook t.maps (va / 65536)).isSome then s
  else (s.walkLocs va 4 t.ptroot).foldl State.met s

/-- The physical address that a leaf gives a virtual address. -/
def leafAddr (e : U64) (level va : Nat) : Nat := entryAddr e + va % 2 ^ pageBits level

/-- The handle of the page of a leaf (R165, R167). -/
def handleOf (e : U64) (level : Nat) : U64 :=
  let x := e.toNat
  let psz := 3 - level
  BitVec.ofNat 64 (2 ^ 63 + field x 2 1 * 2 ^ 62 + field x 3 1 * 2 ^ 61 + field x 4 1 * 2 ^ 60 + field x 5 1 * 2 ^ 59 +
    field x 6 2 * 2 ^ 57 + psz * 2 ^ 55 + (memNode (entryAddr e)).getD 0 * 2 ^ 53 + entryAddr e / 65536)

/-! Fields of a handle (R165). -/

def hV (h : U64) : Bool := h.getLsbD 63
def hRsd (h : U64) : Bool := h.getLsbD 62
def hPr (h : U64) : Bool := h.getLsbD 60
def hPw (h : U64) : Bool := h.getLsbD 59
def hFrame (h : U64) : Nat := field h.toNat 0 36
def hBits (h : U64) : Nat := match field h.toNat 55 2 with | 0 => 16 | 1 => 21 | _ => 30
def hSize (h : U64) : Nat := 2 ^ hBits h

/-- The physical address at an offset of a handle's page. -/
def hAddr (h : U64) (off : Nat) : Nat := 65536 * hFrame h + off

/-- The page of a handle is migrating now: a leaf of the launch's table names its frame with MIG set
(R168, R332). -/
def State.migrating (s : State) (launch : Nat) (h : U64) : Bool :=
  s.boss.migrating.any (fun m => m.1 = launch && m.2.2.1 / 65536 = hFrame h)

/-! ## Control lines of collective rings (R396) -/

/-- The launch of a number. -/
def State.launchOf (s : State) (id : Nat) : Option Launch := s.boss.launches.find? (fun l => l.id = id)

/-- The device memory behind an address, where the page is mapped, resident and has the permission. -/
def State.vaPa (s : State) (t : Team) (write : Bool) (va : Nat) : Option Nat :=
  match s.translate t va with
  | .leaf e l => if e.getLsbD 2 && e.getLsbD (if write then 5 else 4) then some (leafAddr e l va) else none
  | _ => none

/-- The team facts of the launch of a ring. -/
def State.ringTeam (s : State) (r : Ring) : Team := ((s.launchOf r.launch).map Launch.info).getD {}

/-- The physical address of a ring's control line. -/
def State.ringPa (s : State) (r : Ring) : Option Nat := s.vaPa (s.ringTeam r) false r.crb.toNat

/-- Changes a ring. -/
def State.updRing (s : State) (n : Nat) (f : Ring → Ring) : State := { s with rings := lmod f n s.rings }

/-- The collective engine writes a word of a ring's control line. -/
def State.ringWord (s : State) (r : Ring) (off : Nat) (v : U32) : State :=
  match s.ringPa r with
  | some pa => s.writeLoc (.mem (pa / 64)) (bytesAt off (leBytes 4 v.toNat)) none
  | none => s

/-- A word of a ring's control line. -/
def State.readRing (s : State) (r : Ring) (off : Nat) : U32 :=
  match s.ringPa r with
  | some pa => BitVec.ofNat 32 (leNat (s.dram.mem.bytes (pa + off) 4))
  | none => 0#32

/-- Sets a bit of ERR. -/
def State.ringErr (s : State) (r : Ring) (bit : Nat) : State := s.ringWord r 0x0C (s.readRing r 0x0C ||| BitVec.ofNat 32 (2 ^ bit))

/-- A doorbell value has room: its distance from HEAD is at most SIZE and no smaller than that of the last TAIL. -/
def Ring.accepts (r : Ring) (v : U32) : Bool :=
  (v - r.head).toNat ≤ r.size.toNat && (r.tail - r.head).toNat ≤ (v - r.head).toNat

/-- Restores what a write may not change in a control line: HEAD, SIZE and the reserved bytes; the bits of ERR above
PGF stay 0 (R9). `old` are the bytes before the write. -/
def State.ringKeep (s : State) (r : Ring) (l : Loc) (old : List Byte) : State :=
  let err := (s.readRing r 0x0C &&& 7#32).toNat
  s.writeLoc l ((old.mapIdx (fun i b => (i, b))).filter (fun p => (4 ≤ p.1 && p.1 < 12) || 16 ≤ p.1) ++ bytesAt 12 (leBytes 4 err)) none

/-- What a performed write to the control line of a ring does beside: an accepted doorbell moves TAIL, another is
discarded and sets OVF (R396). `old` are the bytes of the line before the write. -/
def State.doorbell (s : State) (l : Loc) (ws : List (Nat × Byte)) (old : List Byte) : State :=
  (List.range s.rings.length).foldl (fun s n =>
    match s.rings[n]? with
    | none => s
    | some r =>
      match s.ringPa r with
      | none => s
      | some pa =>
        if l = .mem (pa / 64) then
          let s := s.ringKeep r l old
          if ws.any (fun w => w.1 < 4) then
            let v := s.readRing r 0
            if r.accepts v then
              s.updRing n (fun r => { r with tail := v, posts := r.posts ++ List.replicate (v - r.tail).toNat s.dcc.toNat })
            else (s.ringWord r 0 r.tail).ringErr r 0
          else s
        else s) s

/-- A write to a location by any party: with what a ring's control line makes of it (R396). A partial write to a block
whose error a read of this step could not correct is discarded (R358). -/
def State.writeTo (s : State) (l : Loc) (ws : List (Nat × Byte)) (tag : Option U16) : State :=
  if !(whole ws) && s.bad.contains l then s.touch l
  else (({ s with bad := s.bad.filter (· ≠ l) } : State).writeLoc l ws tag).doorbell l ws (s.locBytes l)

/-! ## Bank operations (R173-R177) -/

/-- The size of a bank operation's word: 4 bytes for `ga.fadd` and `ga.fmax` (R173). -/
def bankSize (op : Nat) : Nat := if op = 8 || op = 9 then 4 else 8

/-- The larger or smaller of two words read as signed numbers. -/
def maxS (a b : U64) : U64 := if a.toInt < b.toInt then b else a
def minS (a b : U64) : U64 := if b.toInt < a.toInt then b else a

/-- The new word, the status bits and the sticky flags of a bank operation on `old` (R175-R177); `u` is the
uniform value of `ga.mdraw`. -/
def bankNew (op : Nat) (old o c : U64) (u : U32) : U64 × BitVec 8 × U32 :=
  match op with
  | 0 => (old + o, 0#8, 0#32)
  | 1 => (old &&& o, 0#8, 0#32)
  | 2 => (old ||| o, 0#8, 0#32)
  | 3 => (old ^^^ o, 0#8, 0#32)
  | 4 => (maxS old o, 0#8, 0#32)
  | 5 => (minS old o, 0#8, 0#32)
  | 6 => (o, 0#8, 0#32)
  | 7 => (if old = c then o else old, 0#8, 0#32)
  | 8 =>
    let x := vadd false (ofF32 (old.toNat % 2 ^ 32)) (ofF32 (o.toNat % 2 ^ 32))
    let r := toF32 x.1
    (BitVec.ofNat 64 r.1, 0#8, x.2 ||| r.2)
  | 9 =>
    let r := toF32 (vmax (ofF32 (old.toNat % 2 ^ 32)) (ofF32 (o.toNat % 2 ^ 32)))
    (BitVec.ofNat 64 r.1, 0#8, r.2)
  | 10 =>
    let r := mergePair old o (c.getLsbD 0) u
    (r.1, (if r.2 &&& fEMP = 0#32 then 0#8 else 4#8) ||| (if r.2 &&& fINV = 0#32 then 0#8 else 8#8), r.2)
  | _ =>
    let n : U32 := old.setWidth 32 + 1#32
    let gen : U32 := (old >>> 32).setWidth 32
    if c.toNat % 2 ^ 32 ≤ n.toNat then (((gen + 1#32) ++ 0#32 : BitVec 64), 0x10#8, 0#32) else (gen ++ n, 0#8, 0#32)

/-! ## The perform step (R317, R322) -/

/-- The reply of an access to a location as it stands, with the metadata of a block. -/
def State.replyOf (s : State) (a : Access) : Reply :=
  { id := a.id, loc := a.loc, bytes := s.locBytes a.loc, tag := s.locTag a.loc,
    swMeta := (match a.loc with | .mem b => sget 0#64 s.dram.swMeta b | .gal _ => 0#64), old := 0#64, status := 0#8, flags := 0#32,
    arrived := false }

/-- Writes the metadata of a block, cut to the grade of its frame (R355, R170). -/
def State.writeMeta (s : State) (l : Loc) (v : U64) : State :=
  match l with
  | .mem b =>
    { s with dram := { s.dram with swMeta := sset 0#64 s.dram.swMeta b (v &&& BitVec.ofNat 64 (2 ^ metaBits (s.gradeOf (64 * b)) - 1)) } }
  | .gal _ => s

/-- The perform step of a store (R317, R358): a partial store reads first; where that finds an error that cannot be
corrected the bytes are discarded, and the store cancels the patrol all the same (R359). -/
def State.performStore (s : State) (l : Loc) (f : EccFind) (ws : List (Nat × Byte)) (tag : Option U16) : State :=
  if whole ws then s.writeTo l ws tag
  else if s.uncorrectable l (s.found l f) then (s.eccRead l f).touch l
  else (s.eccRead l f).writeTo l ws none

/-- Performs an access at its location in one step (R317, R325, R358), with the error that its read finds. -/
def State.performAt (s : State) (a : Access) (f : EccFind) : State × Reply :=
  match a.op with
  | .load =>
    let s := s.eccRead a.loc f
    (s, s.replyOf a)
  | .store ws tag =>
    let s := s.performStore a.loc f ws tag
    (s, s.replyOf a)
  | .put ws tag swm =>
    let s := s.performStore a.loc f ws tag
    let s := match swm with
      | some v => if whole ws then s.writeMeta a.loc v else s
      | none => s
    (s, s.replyOf a)
  | .bank op off o c key =>
    let s := s.eccRead a.loc f
    let r := s.replyOf a
    if tagPoison r.tag then (s, { r with status := 2#8, flags := tagFlags r.tag })
    else
      let size := bankSize op
      let old : U64 := BitVec.ofNat 64 (leNat ((r.bytes.drop off).take size))
      let bank := match a.loc with | .gal l => galBank l | .mem _ => 0
      let ctr := sget 0#64 s.bankCtr bank
      let u : U32 := (mix key ctr >>> 32).setWidth 32
      let n := bankNew op old o c u
      let s := if op = 10 then { s with bankCtr := sset 0#64 s.bankCtr bank (ctr + 1) } else s
      (s.writeTo a.loc (bytesAt off (leBytes size n.1.toNat)) none, { r with old := old, status := n.2.1, flags := n.2.2 })
  | .loadMeta =>
    let s := s.eccRead a.loc f
    (s, s.replyOf a)
  | .storeMeta v =>
    let lost := s.uncorrectable a.loc (s.found a.loc f)
    let s := s.eccRead a.loc f
    match a.loc with
    | .mem b =>
      let s := if metaBits (s.gradeOf (64 * b)) = 0 then s else if lost then s.touch a.loc else (s.touch a.loc).writeMeta a.loc v
      (s, s.replyOf a)
    | .gal _ => (s, s.replyOf a)

/-- The stream of an access. -/
def Access.stream (a : Access) : Nat := 8 * a.slot + a.core

/-- Whether an access has performed at a scope (R321): 0 core, 1 cluster, 2 die, 3 package, 4 and more
system. An engine access is performed at core scope from the moment it exists. Accesses that have performed are no longer
in the buffers. -/
def Access.at (a : Access) (scope : Nat) : Bool :=
  match scope with
  | 0 => a.party ≠ .core || a.stage ≠ .queue
  | 1 => a.stage ≠ .queue
  | 2 => a.stage = .die || a.stage = .package || a.stage = .system
  | 3 => a.stage = .package || a.stage = .system
  | _ => false

/-- An access is a store or a bank operation (R324). -/
def Access.writes (a : Access) : Bool :=
  match a.op with
  | .load | .loadMeta => false
  | _ => true

/-- An access is a load or a bank operation (R324). -/
def Access.reads (a : Access) : Bool :=
  match a.op with
  | .store _ _ | .storeMeta _ => false
  | _ => true

/-- The condition that a fence of its stream adds to the leaving of `a` (R324). -/
def fenceLets (all : List Access) (a : Access) (f : Fence) : Bool :=
  if a.seq < f.last then true
  else
    let earlier := all.filter (fun b => b.party = .core && b.stream = a.stream && b.seq < f.first && f.mask.getLsbD b.cls.toNat)
    match f.kind with
    | 1 => !(earlier.any Access.reads)
    | 2 => !a.writes || earlier.all (fun b => b.at f.scope)
    | _ => !(f.mask.getLsbD a.cls.toNat) || earlier.all (fun b => b.at f.scope)

/-- The access may leave its class queue (R323 class order and location order, R324). An engine places any access of a
started command in its channel, in any order (R322, step 5). -/
def State.mayLeave (s : State) (a : Access) : Bool :=
  a.stage = .queue && a.ready &&
  (a.party ≠ .core ||
    (!(s.acc.any (fun b => b.party = .core && b.stream = a.stream && b.seq < a.seq &&
      (b.cls = a.cls || (b.loc = a.loc && b.stage = .queue)))) &&
    (((s.cluster a.slot).core a.core).pipe.fences).all (fenceLets s.acc a)))

/-- Two accesses wait in one channel (R319). -/
def sameChannel (a b : Access) : Bool :=
  a.stage = b.stage && a.loc = b.loc &&
  match a.stage with
  | .cluster => a.slot = b.slot
  | .die => dieOf a.slot = dieOf b.slot
  | _ => true

/-- The access stands at the head of its channel (R322, steps 3 and 4). -/
def State.atHead (s : State) (a : Access) : Bool :=
  a.stage ≠ .queue && !(s.acc.any (fun b => sameChannel a b && b.arr < a.arr))

/-- The next channel of a route (R319). -/
def Stage.next : Stage → Stage
  | .queue => .cluster
  | .cluster => .die
  | .die => .package
  | .package => .system
  | .system => .system

/-- Moves an access into the next buffer of its route, behind those that are there. -/
def State.forward (s : State) (a : Access) : State :=
  { s with
    nextAcc := s.nextAcc + 1
    acc := s.acc.map (fun b => if b.id = a.id then { b with stage := b.stage.next, arr := s.nextAcc } else b) }

/-- The write of one command performs while that of another to the same location is on its way: no token edge orders the
two, and each byte that both write may keep either value (R198, R326; log entry 21). -/
def State.mixBytes (s : State) (a : Access) : State :=
  match a.op with
  | .put ws _ _ =>
    let cut (b : Access) : Access :=
      match b.op with
      | .put bs tag swm =>
        if b.loc = a.loc then
          { b with op := .put (bs.filter (fun w => !(ws.any (fun x => x.1 = w.1)) ||
              Config.freeBit (s.freeAt 13 ((a.id % 2 ^ 12) * 2 ^ 20 + (b.id % 2 ^ 12) * 64 + w.1)))) tag swm }
        else b
      | _ => b
    { s with acc := s.acc.map cut }
  | _ => s

/-- Performs an access and takes it out of the buffers, leaving its reply on the way (R322, step 4). -/
def State.perform (s : State) (a : Access) (f : EccFind) : State :=
  let r := (({ s with acc := s.acc.filter (fun b => b.id ≠ a.id) } : State).mixBytes a).performAt a f
  { r.1 with replies := r.1.replies ++ [r.2] }

/-- The physical address of a location in device memory, if the map has none there (R349). -/
def Loc.unmapped : Loc → Option Nat
  | .mem b => if (memNode (64 * b)).isNone then some (64 * b) else none
  | .gal _ => none

/-- Appends a core access of the issuing stream to the tail of its class queue (R322, step 1); the number
it gets is `s.nextAcc`. -/
def State.addAccess (s : State) (cls : BitVec 4) (loc : Loc) (op : AccOp) (ready : Bool) : State :=
  { s with
    nextAcc := s.nextAcc + 1
    acc := s.acc ++ [{ id := s.nextAcc, slot := s.slotOf, core := s.coreOf, cls := cls, loc := loc, op := op,
                       stage := .queue, seq := s.nextAcc, arr := 0, ready := ready }] }

/-- Adds an access of another party at a stage of its route (R319): that of an engine of the issuing stream's cluster, for
the command's class, or the write of a link; the number it gets is `s.nextAcc`. -/
def State.addParty (s : State) (p : Party) (cls : BitVec 4) (loc : Loc) (op : AccOp) (stage : Stage) : State :=
  { s with
    nextAcc := s.nextAcc + 1
    acc := s.acc ++ [{ id := s.nextAcc, slot := s.slotOf, core := s.coreOf, cls := cls, loc := loc, op := op,
                       stage := stage, seq := s.nextAcc, arr := s.nextAcc, ready := true, party := p }] }

/-- The reply of an access, once the cluster has it. -/
def State.arrivedReply (s : State) (id : Nat) : Option Reply := s.replies.find? (fun r => r.id = id && r.arrived)

/-- Every one of some accesses has its reply. -/
def State.allArrived (s : State) (ids : List Nat) : Bool := ids.all (fun i => (s.arrivedReply i).isSome)

/-- Drops the replies of some accesses. -/
def State.dropReplies (s : State) (ids : List Nat) : State :=
  { s with replies := s.replies.filter (fun r => !(ids.contains r.id)) }

/-- Every access of a stream in a class of a mask, numbered below `seq`, has performed at package scope
(R326). -/
def State.afterDone (s : State) (stream : Nat) (mask : U16) (seq : Nat) : Bool :=
  s.acc.all (fun b => !(b.party = .core && b.stream = stream && b.seq < seq && mask.getLsbD b.cls.toNat) || b.at 3)

/-! ## Engine accesses -/

/-- Whether an access stands at least as far along a route as another, in one channel the earlier first. -/
def routeBefore (a b : Access) : Bool :=
  if a.stage = b.stage then a.arr ≤ b.arr
  else match a.stage, b.stage with
    | .system, _ => true
    | .package, .die | .package, .cluster => true
    | .die, .cluster => true
    | _, _ => false

/-- Performs, in channel order, every access to a location that has left its class queue: they stand ahead
of an engine access in the channels (R319, R326). -/
def State.flush (s : State) (l : Loc) : State :=
  let ahead := sortBy routeBefore (s.acc.filter (fun b => b.loc = l && b.stage ≠ .queue))
  ahead.foldl (fun s a => s.perform a .clean) s

/-- An access that an engine makes in one step, in the cycle that its rule gives (log entry 63): it stands at the head of
the system channel. -/
def State.atOnce (s : State) (cls : BitVec 4) (l : Loc) (op : AccOp) : Access :=
  { id := s.nextAcc, slot := s.slotOf, core := s.coreOf, cls := cls, loc := l, op := op, stage := .system, seq := s.nextAcc,
    arr := s.nextAcc, ready := true, party := .engine }

/-- An engine's read of a location: its bytes and descriptor. -/
def State.engineRead (s : State) (cls : BitVec 4) (l : Loc) : State × List Byte × U16 :=
  let s := s.flush l
  let r := s.performAt (s.atOnce cls l .load) .clean
  (r.1, r.2.bytes, r.2.tag)

/-- An engine's write to a location (R329: byte by byte). -/
def State.engineWrite (s : State) (cls : BitVec 4) (l : Loc) (ws : List (Nat × Byte)) (tag : Option U16) : State :=
  let s := s.flush l
  (s.performAt (s.atOnce cls l (.put ws tag none)) .clean).1

/-! ## Local addresses (R159, R40 `in_win`) -/

/-- Bytes of a scratchpad. -/
def scratchSize : Nat := 0x180000

/-- All bytes from `a` lie in the scratchpad. -/
def inScratch (a n : Nat) : Bool := a + n ≤ scratchSize

/-- All bytes from `a` lie in the parameter-window aperture. -/
def inAperture (a n : Nat) : Bool := 0xE00000 ≤ a && a + n ≤ 0xF00000

/-- A byte of the aperture lies in the bound part of its window. -/
def Team.boundByte (t : Team) (a : Nat) : Bool :=
  match slook t.wins ((a - 0xE00000) / 65536) with
  | some w => (a - 0xE00000) % 65536 < w.2
  | none => false

/-- The refusal of a local access of `n` bytes (R159): 0 none, 1 WIN, 2 PWF. -/
def localRefusal (t : Team) (store : Bool) (a n : Nat) : BitVec 8 :=
  if inScratch a n then 0#8
  else if !(inAperture a n) || store then 1#8
  else if (List.range n).all (fun i => t.boundByte (a + i)) then 0#8 else 2#8

/-- The local address of the first byte that is refused with WIN (R158, R296). -/
def firstRefused (t : Team) (store : Bool) (a n : Nat) : Nat :=
  ((List.range n).find? (fun i => localRefusal t store (a + i) 1 = 1#8)).elim a (fun i => a + i)

/-- The virtual address behind a byte of a bound window. -/
def Team.windowVa (t : Team) (a : Nat) : Option Nat :=
  (slook t.wins ((a - 0xE00000) / 65536)).map (fun w => w.1.toNat + (a - 0xE00000) % 65536)

/-- The device memory behind a byte of a bound window: none where its page is not mapped, resident and readable. -/
def State.windowAddr (s : State) (t : Team) (a : Nat) : Option Nat := (t.windowVa a).bind (s.vaPa t false)

/-- A byte of a window; where the page behind it is not mapped, resident and readable, the spec gives no value and the byte
is a free choice (log entry 5). -/
def State.windowByte (s : State) (t : Team) (a : Nat) : Byte :=
  match s.windowAddr t a with
  | some pa => s.dram.mem.rd pa
  | none => (Config.freeWord (s.freeCtr + a)).setWidth 8

/-- The descriptor behind a byte of a window; raw with unity scale where the page cannot be read. -/
def State.windowTag (s : State) (t : Team) (a : Nat) : U16 :=
  match s.windowAddr t a with
  | some pa => s.dram.mem.tag dtZero pa
  | none => dtOn

/-- A read through a window meets the errors that stand in its page table and its block, and a malformed entry goes to
Shiftboss (R357, R364). -/
def State.windowMet (s : State) (t : Team) (a : Nat) : State :=
  match (if inAperture a 1 && t.boundByte a then t.windowVa a else none) with
  | none => s
  | some va =>
    let s := s.walked t va
    let s := s.report t.launch (s.translate t va)
    match s.vaPa t false va with
    | some pa => s.met (.mem (pa / 64))
    | none => s

/-- Reads through the windows at some local addresses, each line once. -/
def State.windowsMet (s : State) (t : Team) (as : List Nat) : State :=
  (((as.filter (fun a => 0xE00000 ≤ a)).map (fun a => a / 64 * 64)).eraseDups).foldl (fun s a => s.windowMet t a) s

/-- The bytes of an accepted local access, as they stand at the start of the cycle (R160). -/
def State.localBytes (s : State) (t : Team) (c : Core) (a n : Nat) : List Byte :=
  if inScratch a n then c.scratch.bytes a n else (List.range n).map (fun i => s.windowByte t (a + i))

/-- The descriptor of the line that holds an accepted local byte. -/
def State.localTag (s : State) (t : Team) (c : Core) (a : Nat) : U16 :=
  if inScratch a 1 then c.scratch.tag dtOn a else s.windowTag t a

/-- The descriptors of the lines or blocks that hold some accepted local bytes, one for each byte (R159). -/
def State.localTags (s : State) (t : Team) (c : Core) (a n : Nat) : List U16 :=
  (List.range n).map (fun i => s.localTag t c (a + i))

/-- The status bits POI and FMT of a byte read that touches lines of these descriptors (R52, R158). -/
def tagStatus (tags : List U16) : BitVec 8 :=
  tags.foldl (fun st d => st ||| (if tagPoison d then 8#8 else 0#8) ||| (if fmtReserved (descFmt d) then 0x10#8 else 0#8)) 0#8

/-- The sticky flags named by a status byte of `ls` (R158). -/
def statusFlags (st : BitVec 8) : U32 :=
  flagIf (st.getLsbD 0) fWIN ||| flagIf (st.getLsbD 1) fPWF ||| flagIf (st.getLsbD 2) fRES |||
  flagIf (st.getLsbD 3) fPOI ||| flagIf (st.getLsbD 4) fFMT

/-- A fault enable, as the OR over the started, non-halted streams of a cluster (R294). -/
def Cluster.fenOr (c : Cluster) (i : Nat) : Bool :=
  c.cores.any (fun k => k.ctl.started && !k.ctl.halted && k.fen.getLsbD i)

/-- Schedules a write to a scratchpad for the end of the cycle (R160). -/
def Cluster.putLocal (c : Cluster) (w : LocW) : Cluster := { c with endLoc := c.endLoc ++ [w] }

end Sys2Proof.Machine
end

