-- ==== Sys2Proof/Machine/Ls.lean ====
section
/-!
DEFINITION. The load and store unit `ls` (spec/06 R157-R172, spec/04 R119).
-/
namespace Sys2Proof.Machine

open Sys2Proof

/-- The ordering class in `ls.c` (R157). -/
def Core.lsClass (c : Core) : BitVec 4 := (c.port 0x0C 2).setWidth 4

/-- A load delivers its value and its status, a store its status only; each status bit sets the sticky flag
of its name in the same cycle (R158). -/
def lsPuts (r : Option U64) (st : BitVec 8) : List Put :=
  (match r with | some v => [.port (keyOf 0x0C 0) v] | none => []) ++
    [.port (keyOf 0x0C 1) (st.setWidth 64), .sticky (statusFlags st)]

/-- Notes an access in the trace buffer (R315). -/
def Core.lsEvent (c : Core) (opc : Nat) (t : U64) : Core := c.event 3 (BitVec.ofNat 8 opc) (t.setWidth 32)

/-- The frame of every `ls` access: the trace event, then `f` with the address. -/
def lsAccess (opc : Nat) (t : Trig) (s : State) (f : U64 → State → State) : Host.Outcome State Fault Refusal :=
  short t s (fun v s => f v (s.updMe (fun c => c.lsEvent opc v)))

/-- A WIN refusal while `sys.fen`.WINE is set raises a window fault (R158, R294); otherwise `k` goes on with
the refusal status. -/
def State.checkLocal (s : State) (store : Bool) (a n : Nat) (k : BitVec 8 → State → State) : State :=
  let t := s.myCluster.info
  let st := localRefusal t store a n
  if st = 1#8 && s.myCluster.fenOr 0 then s.raise 4 0 (BitVec.ofNat 64 (firstRefused t store a n))
  else k st (if st = 0#8 then s.windowsMet t ((List.range n).map (a + ·)) else s)

/-- `ls.ld` (R159). -/
def execLsLd (w : BitVec 2) (t : Trig) (s : State) : Host.Outcome State Fault Refusal :=
  lsAccess (0x00 + w.toNat) t s (fun v s =>
    let a := v.toNat
    let n := 2 ^ w.toNat
    s.checkLocal false a n (fun st s =>
      if st ≠ 0#8 then s.updMe (fun c => c.deliver 4 (lsPuts (some 0#64) st))
      else
        let tm := s.myCluster.info
        let st := tagStatus (s.localTags tm s.me a n)
        let x := if st = 0#8 then BitVec.ofNat 64 (leNat (s.localBytes tm s.me a n)) else 0#64
        s.updMe (fun c => c.deliver 4 (lsPuts (some x) st))))

/-- `ls.st` (R159, R160). -/
def execLsSt (w : BitVec 2) (t : Trig) (s : State) : Host.Outcome State Fault Refusal :=
  lsAccess (0x10 + w.toNat) t s (fun v s =>
    let a := v.toNat
    let n := 2 ^ w.toNat
    s.checkLocal true a n (fun st s =>
      let s := s.updMe (fun c => c.deliver 4 (lsPuts none st))
      if st ≠ 0#8 then s
      else
        s.updMine (fun cl => cl.putLocal
          { prio := 0, core := s.coreOf, addr := a, bytes := leBytes n (s.me.port 0x0C 0).toNat, cls := s.me.lsClass })))

/-- The bytes of an access lie in the launch's Gallery allocation (R163). -/
def Team.inGallery (t : Team) (a n : Nat) : Bool :=
  t.gbase ≤ a && a + n ≤ t.gbase + t.gsize && a + n ≤ 0x18000000

/-- The pieces of an access that lie in one 64-byte line each: line, offset, number of bytes (R164). -/
def splitLines (a n : Nat) : List (Nat × Nat × Nat) :=
  if n = 0 then []
  else (List.range ((a + n - 1) / 64 - a / 64 + 1)).map (fun i =>
    let line := a / 64 + i
    let lo := max a (64 * line)
    let hi := min (a + n) (64 * line + 64)
    (line, lo - 64 * line, hi - lo))

/-- Issues the accesses of a scalar form, one per line, and the flight that waits for their replies (R164,
R168, R318). `bytes` holds the data of a store. -/
def State.scalarAccess (s : State) (lat : Nat) (cls : BitVec 4) (loc : Nat → Loc) (a n : Nat)
    (bytes : Option (List Byte)) : State :=
  let ps := splitLines a n
  let first := s.nextAcc
  let go := ps.foldl (fun (p : State × List Byte) q =>
    match bytes with
    | some _ => (p.1.addAccess cls (loc q.1) (.store (bytesAt q.2.1 (p.2.take q.2.2)) none) true, p.2.drop q.2.2)
    | none => (p.1.addAccess cls (loc q.1) .load true, [])) (s, bytes.getD [])
  let need : Need := match bytes with | some _ => .store | none => .load n (a % 64)
  go.1.updMe (fun c => { c with pipe := { c.pipe with
    flights := c.pipe.flights ++ [{ left := lat, puts := [], ids := (List.range ps.length).map (first + ·), need := some need }] } })

/-- A Gallery access, near or far (R163, R164). -/
def galAccess (opc lat : Nat) (store : Bool) (w : BitVec 2) (t : Trig) (s : State) : Host.Outcome State Fault Refusal :=
  lsAccess (opc + w.toNat) t s (fun v s =>
    let a := v.toNat
    let n := 2 ^ w.toNat
    if s.myCluster.info.inGallery a n then
      s.scalarAccess lat s.me.lsClass .gal a n (if store then some (leBytes n (s.me.port 0x0C 0).toNat) else none)
    else s.raise 6 1 v)

/-- `ls.ldn` (R164). -/
def execLsLdn (w : BitVec 2) (t : Trig) (s : State) : Host.Outcome State Fault Refusal := galAccess 0x04 36 false w t s

/-- `ls.ldf` (R164). -/
def execLsLdf (w : BitVec 2) (t : Trig) (s : State) : Host.Outcome State Fault Refusal := galAccess 0x08 60 false w t s

/-- `ls.stn` (R164). -/
def execLsStn (w : BitVec 2) (t : Trig) (s : State) : Host.Outcome State Fault Refusal := galAccess 0x14 36 true w t s

/-- `ls.stf` (R164). -/
def execLsStf (w : BitVec 2) (t : Trig) (s : State) : Host.Outcome State Fault Refusal := galAccess 0x18 60 true w t s

/-- The check of a scalar handle form (R168): `refused` on RES, a protection fault without permission, a
stall of a store to a migrating page, and otherwise `k`. -/
def State.checkHandle (s : State) (store : Bool) (t n : Nat) (refused k : State) : State :=
  let h := s.me.port 0x0C 1
  if !(hV h) || !(hRsd h) || hSize h < t + n then refused
  else if (if store then !(hPw h) else !(hPr h)) then s.raise 6 2 (BitVec.ofNat 64 t)
  else if store && s.migrating s.myCluster.info.launch h then s.askStall
  else k

/-- A scalar access through the handle in `ls.h` (R168). -/
def handleAccess (opc : Nat) (store : Bool) (w : BitVec 2) (t : Trig) (s : State) : Host.Outcome State Fault Refusal :=
  lsAccess (opc + w.toNat) t s (fun v s =>
    let n := 2 ^ w.toNat
    s.checkHandle store v.toNat n
      (s.updMe (fun c => c.deliver 640 (lsPuts (if store then none else some 0#64) 4#8)))
      (s.scalarAccess 640 s.me.lsClass .mem (hAddr (s.me.port 0x0C 1) v.toNat) n
        (if store then some (leBytes n (s.me.port 0x0C 0).toNat) else none)))

/-- `ls.ldh` (R168). -/
def execLsLdh (w : BitVec 2) (t : Trig) (s : State) : Host.Outcome State Fault Refusal := handleAccess 0x0C false w t s

/-- `ls.sth` (R168). -/
def execLsSth (w : BitVec 2) (t : Trig) (s : State) : Host.Outcome State Fault Refusal := handleAccess 0x1C true w t s

/-! ## Vector forms (R161, R169) -/

/-! The shape in `vshape` (R86, R204). -/

def shRows (v : U32) : Nat := field v.toNat 0 7
def shCols (v : U32) : Nat := field v.toNat 8 9
def shWidth (v : U32) : Nat := 2 ^ field v.toNat 17 2

/-- The number of elements of an `ls` vector access. -/
def LsVec.count (x : LsVec) : Nat := x.rows * x.cols

/-- The elements of chunk `j`: first index and number (R161). -/
def LsVec.chunk (x : LsVec) (j : Nat) : Nat × Nat :=
  let per := 256 / x.width
  (per * j, min per (x.count - per * j))

/-- Elements that a handle access refuses: all of an invalid or non-resident handle, else those with a byte
at or beyond the page's end (R169). -/
def handleRefused (h : U64) (t rows cols width : Nat) : BitVec 4096 :=
  let n := rows * cols
  if !(hV h) || !(hRsd h) then BitVec.ofNat 4096 (2 ^ n - 1)
  else
    let fit := (hSize h - t) / width
    BitVec.ofNat 4096 (2 ^ n - 2 ^ min fit n)

/-- Elements that a local access refuses and the OR of their statuses (R161). -/
def localRefused (tm : Team) (store : Bool) (a n width : Nat) : BitVec 4096 × BitVec 8 :=
  (List.range n).foldl (fun p e =>
    let st := localRefusal tm store (a + e * width) width
    if st = 0#8 then p else (p.1 ||| BitVec.ofNat 4096 (2 ^ e), p.2 ||| st)) (0#4096, 0#8)

/-- The blocks that the accepted elements of a handle access touch, as offsets from the page, with the
element range and chunk range of each: (block offset, first byte in the page, bytes, last chunk). -/
def handleBlocks (t accepted width : Nat) : List (Nat × Nat × Nat × Nat) :=
  (splitLines t (accepted * width)).map (fun p =>
    let lo := 64 * p.1 + p.2.1
    (64 * p.1, lo, p.2.2, (lo + p.2.2 - 1 - t) / 256))

/-- The frame of a vector form. -/
def lsVector (opc : Nat) (store handle : Bool) (t : Trig) (s : State) (f : Nat → LsVec → State → State) :
    Host.Outcome State Fault Refusal :=
  lsAccess opc t s (fun v s =>
    let c := s.me
    let rows := shRows c.vshape
    let cols := shCols c.vshape
    let w := shWidth c.vshape
    f v.toNat
      { store := store, handle := handle, reg := (c.port 0x0C 3).toNat % 32, mask := (c.port 0x0C 0).toNat % 8,
        addr := v.toNat, hand := c.port 0x0C 1, rows := rows, cols := cols, width := w,
        chunks := ceilDiv (rows * cols * w) 256, lat := if handle then 640 else 4, age := 0, cls := c.lsClass } s)

/-- Puts a vector form in flight. -/
def State.addLsVec (s : State) (x : LsVec) : State :=
  s.updMe (fun c => { c with pipe := { c.pipe with lsv := c.pipe.lsv ++ [x] } })

/-- A local vector form: refused elements are found at issue; WIN may fault (R158, R161). -/
def localVector (opc : Nat) (store : Bool) (t : Trig) (s : State) : Host.Outcome State Fault Refusal :=
  lsVector opc store false t s (fun a x s =>
    let tm := s.myCluster.info
    let r := localRefused tm store a x.count x.width
    let bad := (List.range x.count).find? (fun e => localRefusal tm store (a + e * x.width) x.width = 1#8)
    match bad, s.myCluster.fenOr 0 with
    | some e, true => s.raise 4 0 (BitVec.ofNat 64 (firstRefused tm store (a + e * x.width) x.width))
    | _, _ => s.addLsVec { x with refused := r.1, status := r.2 })

/-- A handle vector form: one access per location touched, in ascending order (R169, R318). Elements beyond the page
are refused before the permission is tested (R168), so a form without an element in the page faults on none. A block of a
store is ready when the tile bytes of its last chunk have been read. -/
def handleVector (opc : Nat) (store : Bool) (t : Trig) (s : State) : Host.Outcome State Fault Refusal :=
  lsVector opc store true t s (fun a x s =>
    let h := x.hand
    let refused := handleRefused h a x.rows x.cols x.width
    let accepted := if hV h && hRsd h then min ((hSize h - a) / x.width) x.count else 0
    if accepted ≠ 0 && (if store then !(hPw h) else !(hPr h)) then s.raise 6 2 (BitVec.ofNat 64 a)
    else if store && accepted ≠ 0 && s.migrating s.myCluster.info.launch h then s.askStall
    else
      let go := (handleBlocks a accepted x.width).foldl (fun (p : State × List (Nat × Nat × Nat)) b =>
        let loc := Loc.mem (hAddr h b.1 / 64)
        let op := if store then AccOp.store [] none else .load
        (p.1.addAccess x.cls loc op (!store), p.2 ++ [(b.2.2.2, b.1, p.1.nextAcc)])) (s, [])
      go.1.addLsVec { x with refused := refused, status := if refused = 0#4096 then 0#8 else 4#8, ids := go.2 })

/-- `ls.vld` (R161). -/
def execLsVld (t : Trig) (s : State) : Host.Outcome State Fault Refusal := localVector 0x20 false t s

/-- `ls.vst` (R161). -/
def execLsVst (t : Trig) (s : State) : Host.Outcome State Fault Refusal := localVector 0x21 true t s

/-- `ls.vldh` (R169). -/
def execLsVldh (t : Trig) (s : State) : Host.Outcome State Fault Refusal := handleVector 0x22 false t s

/-- `ls.vsth` (R169). -/
def execLsVsth (t : Trig) (s : State) : Host.Outcome State Fault Refusal := handleVector 0x23 true t s

/-! ## Translation, metadata, descriptors, fences, page requests -/

/-- `ls.xlat`: the handle of the page of a virtual address, at c+6 (R167). -/
def execLsXlat (t : Trig) (s : State) : Host.Outcome State Fault Refusal :=
  short t s (fun v s =>
    let s := s.walked s.myCluster.info v.toNat
    let x := s.translate s.myCluster.info v.toNat
    let h := match x with
      | .leaf e l => handleOf e l
      | _ => 0#64
    (s.report s.myCluster.info.launch x).updMe (fun c => c.deliver 6 [.port kLsHr h]))

/-- A metadata form (R170). -/
def metaAccess (opc : Nat) (store : Bool) (t : Trig) (s : State) : Host.Outcome State Fault Refusal :=
  lsAccess opc t s (fun v s =>
    let off := v.toNat / 64 * 64
    s.checkHandle store off 64
      (s.updMe (fun c => c.deliver 640 (lsPuts (if store then none else some 0#64) 4#8)))
      (let first := s.nextAcc
       let op := if store then AccOp.storeMeta (s.me.port 0x0C 0) else .loadMeta
       (s.addAccess s.me.lsClass (.mem (hAddr (s.me.port 0x0C 1) off / 64)) op true).updMe (fun c =>
         { c with pipe := { c.pipe with flights := c.pipe.flights ++
           [{ left := 640, puts := [], ids := [first], need := some (if store then .storeSw else .loadSw) }] } })))

/-- `ls.meta` (R170). -/
def execLsMeta (t : Trig) (s : State) : Host.Outcome State Fault Refusal := metaAccess 0x26 false t s

/-- `ls.setmeta` (R170). -/
def execLsSetmeta (t : Trig) (s : State) : Host.Outcome State Fault Refusal := metaAccess 0x27 true t s

/-- `ls.ldd`: the descriptor of the block at t (R162). -/
def execLsLdd (t : Trig) (s : State) : Host.Outcome State Fault Refusal :=
  lsAccess 0x28 t s (fun v s =>
    let a := v.toNat / 64 * 64
    s.checkLocal false a 64 (fun st s =>
      let d := if st = 0#8 then (s.localTag s.myCluster.info s.me a).setWidth 64 else 0#64
      s.updMe (fun c => c.deliver 4 (lsPuts (some d) st))))

/-- `ls.std`: writes the descriptor of the block at t (R162). -/
def execLsStd (t : Trig) (s : State) : Host.Outcome State Fault Refusal :=
  lsAccess 0x29 t s (fun v s =>
    let a := v.toNat / 64 * 64
    s.checkLocal true a 64 (fun st s =>
      let s := s.updMe (fun c => c.deliver 4 (lsPuts none st))
      if st ≠ 0#8 then s
      else s.updMine (fun cl => cl.putLocal
        { prio := 0, core := s.coreOf, addr := a, bytes := [], tags := [(a / 64, (s.me.port 0x0C 0).setWidth 16)], cls := s.me.lsClass })))

/-- `ls.fence`: stands between the accesses of earlier bundles and those of later ones (R172, R324). -/
def execLsFence (t : Trig) (s : State) : Host.Outcome State Fault Refusal :=
  short t s (fun v s =>
    let n := v.toNat
    s.updMe (fun c => c.atEnd (.fence
      { first := s.nextAcc, last := s.nextAcc, mask := v.setWidth 16, scope := min 4 (field n 16 3), kind := field n 20 2 })))

/-- The page of a virtual address: that of its leaf, or its 64 KiB page where nothing is mapped (R171). -/
def pageOf (x : Xlat) (va : Nat) : Nat :=
  match x with
  | .leaf _ l => va / 2 ^ pageBits l * 2 ^ pageBits l
  | _ => va / 65536 * 65536

/-- The identity of a page request (R387). -/
def requestId (queue index gen team core kind tag unit : Nat) : U64 :=
  BitVec.ofNat 64 (queue % 16 * 2 ^ 60 + index % 65536 * 2 ^ 44 + gen % 65536 * 2 ^ 28 + team % 65536 * 2 ^ 12 +
    core % 8 * 2 ^ 9 + kind % 2 * 2 ^ 8 + tag % 16 * 2 ^ 4 + unit % 16)

/-- The 32 bytes of a request record (R387). -/
def requestBytes (id va : U64) (write : Bool) : List Byte :=
  leBytes 8 id.toNat ++ leBytes 8 va.toNat ++ leBytes 16 (if write then 1 else 0)

/-- The least group index of a page request message that no request holds; there are 512 (R386). -/
def State.priGroup (s : State) : Option Nat := (List.range 512).find? (fun g => s.pages.all (fun p => p.group ≠ some g))

/-- Sends a page request for a launch on the route that the host chose for it: a record in the ring of the page-service
queue, or a page request message, which waits while no group index is free (R386, R387). -/
def State.sendRequest (s : State) (launch : Nat) (id va : U64) (write : Bool) : State :=
  let l := s.launchOf launch
  let pri := (l.map Launch.pri).getD false
  let group := if pri then s.priGroup else none
  let s := { s with pages := s.pages ++
    [{ id := id, va := va, write := write, launch := launch, pri := pri, sent := !pri || group.isSome, since := s.dcc.toNat, group := group }] }
  let h := s.host
  if pri then
    match group with
    | some g => { s with host := { h with priSent := h.priSent ++ [((l.map Launch.pasid).getD 0#20, g, va, write)] } }
    | none => s
  else
    let at' := h.prqTail.toNat
    { s with host := { h with
        prq := h.prq ++ [(at', requestBytes id va write)], prqTail := BitVec.ofNat 32 ((at' + 1) % h.service.reqEntries) } }

/-- The least free tag of a core stream (R171). -/
def freeTag (m : Store PTag) : Option Nat := (List.range 16).find? (fun i => (slook m i).isNone)

/-- `ls.preq` (R171). -/
def execLsPreq (t : Trig) (s : State) : Host.Outcome State Fault Refusal :=
  short t s (fun v s =>
    let put (st tag : Nat) (s : State) : State :=
      s.updMe (fun c => c.deliver 12 [.port (keyOf 0x0C 3) (BitVec.ofNat 64 (st * 2 ^ 28 + tag))])
    let info := s.myCluster.info
    if 2 ^ 57 ≤ v.toNat then put 2 0xFFFF s
    else
      let s := s.walked info v.toNat
      let x := s.translate info v.toNat
      match x with
      | .malformed pa e => put 2 0xFFFF (s.report info.launch (.malformed pa e))
      | x =>
        let resident := match x with | .leaf e _ => e.getLsbD 2 | _ => false
        let page : U64 := BitVec.ofNat 64 (pageOf x v.toNat)
        let u := s.me.units
        if resident then put 1 0xFFFF s
        else
          match u.preq.find? (fun p => p.2.page = page && p.2.st = 0) with
          | some p => put 0 p.1 s
          | none =>
            match freeTag u.preq with
            | none => put 3 0xFFFF s
            | some k =>
              let gen := sget 0#16 u.preqGen k
              let l := s.launchOf info.launch
              let id := requestId ((l.map (fun l => l.queue)).getD 0) ((l.map (fun l => l.index)).getD 0) gen.toNat info.team
                s.coreOf 0 k 0
              let s := s.updMe (fun c => { c with units := { c.units with
                preq := sins k { page := page, st := 0, id := id } c.units.preq
                preqGen := sset 0#16 c.units.preqGen k (gen + 1) } })
              put 0 k (s.sendRequest info.launch id v false))

/-- `ls.pst`: the status of a page-request tag; a settled tag is freed at the end of the cycle (R171). -/
def execLsPst (t : Trig) (s : State) : Host.Outcome State Fault Refusal :=
  short t s (fun v s =>
    let k := v.toNat % 65536
    match (if k < 16 then slook s.me.units.preq k else none) with
    | none => s.updMe (fun c => c.deliver 4 [.port (keyOf 0x0C 3) 0x4000FFFF#64])
    | some p =>
      s.updMe (fun c =>
        let c := c.deliver 4 [.port (keyOf 0x0C 3) (BitVec.ofNat 64 (p.st * 2 ^ 28 + k))]
        if p.st = 0 then c else c.atEnd (.preg k none)))

end Sys2Proof.Machine
end

