-- ==== Sys2Proof/Machine/Va.lean ====
section
/-!
DEFINITION. Virtual memory of a launch as the device's own engines use it, without page requests: the report
area (spec/16 R376), remote copies that arrive (spec/06 R202), and collectives (spec/17 R396).
-/
namespace Sys2Proof.Machine

open Sys2Proof

/-- Every byte of a range can be used. -/
def State.vaOk (s : State) (t : Team) (write : Bool) (va n : Nat) : Bool :=
  (splitLines va n).all (fun q => (s.vaPa t write (64 * q.1)).isSome)

/-- Every byte of a range lies on pages of ECC grade 1. -/
def State.vaFirst (s : State) (t : Team) (va n : Nat) : Bool :=
  (splitLines va n).all (fun q => match s.translate t (64 * q.1) with | .leaf e _ => field e.toNat 6 2 = 1 | _ => false)

/-- A page of a range is migrating: writes wait for its end (R332). -/
def State.vaMoving (s : State) (t : Team) (va n : Nat) : Bool :=
  (splitLines va n).any (fun q => match s.translate t (64 * q.1) with | .leaf e _ => e.getLsbD 3 | _ => false)

/-- A range that cannot be used: a malformed entry on the way to its first such line is reported (R364). -/
def State.vaReport (s : State) (t : Team) (write : Bool) (va n : Nat) : State :=
  match (splitLines va n).find? (fun q => (s.vaPa t write (64 * q.1)).isNone) with
  | some q => s.report t.launch (s.translate t (64 * q.1))
  | none => s

/-- Reads a range, block by block: its bytes with the descriptor of the block of each. -/
def State.vaRead (s : State) (t : Team) (va n : Nat) : State × List (Byte × U16) :=
  (splitLines va n).foldl (fun p q =>
    let p := (p.1.walked t (64 * q.1), p.2)
    match p.1.vaPa t false (64 * q.1) with
    | some pa =>
      let r := p.1.engineRead 0#4 (.mem (pa / 64))
      (r.1, p.2 ++ ((r.2.1.drop q.2.1).take q.2.2).map (fun b => (b, r.2.2)))
    | none => (p.1, p.2 ++ List.replicate q.2.2 (0#8, dtZero))) (s, [])

/-- Writes a range, block by block; `tag` gives the descriptor of a block written whole, by its number in the
range. -/
def State.vaWrite (s : State) (t : Team) (va : Nat) (bs : List Byte) (tag : Nat → U16) : State :=
  ((splitLines va bs.length).foldl (fun p q =>
    let now := p.2.take q.2.2
    let p := (p.1.walked t (64 * q.1), p.2)
    match p.1.vaPa t true (64 * q.1) with
    | some pa => (p.1.engineWrite 0#4 (.mem (pa / 64)) (bytesAt q.2.1 now) (some (tag (64 * q.1 - va / 64 * 64))), p.2.drop q.2.2)
    | none => (p.1, p.2.drop q.2.2)) (s, bs)).1

end Sys2Proof.Machine
end

