-- ==== Sys2Proof/Machine/Operands.lean ====
section
/-!
DEFINITION. Operand forms (spec/03 R86, spec/07 R206-R211): where the elements of a vector or engine operand
lie, capturing them, decoding them, conversion queues on pop (spec/02 R64, spec/06 R181, R182), streams
(spec/06 R185), and destinations with their line tags.
-/
namespace Sys2Proof.Machine

open Sys2Proof

/-! ## Places -/

/-- How an operand's tile is laid out: the modulus of tile-register rows, columns, and element width. -/
structure Lay where
  rows : Nat
  cols : Nat
  width : Nat
  deriving DecidableEq, Repr

/-- Bytes of a row. -/
def Lay.rowb (l : Lay) : Nat := l.cols * l.width

/-- The row that stands for row `j` of an operand: RS + j·STR (R86). -/
def rowIx (o : Opnd) (j : Nat) : Nat := o.rs.toNat + j * o.str.toNat

/-- The byte of element `e` in a tile register (R86). -/
def tileOff (o : Opnd) (l : Lay) (e : Nat) : Nat :=
  (rowIx o (e / l.cols) % l.rows * l.rowb + e % l.cols * l.width) % 4096

/-- The offset of element `e` from the base of a memory operand (R86). -/
def memOff (o : Opnd) (l : Lay) (e : Nat) : Nat := rowIx o (e / l.cols) * l.rowb + e % l.cols * l.width

/-- The address of element `e` of a memory operand or a stream's vector; one beyond 64 bits is an address outside every
window (R86, R210, R412). -/
def OpSrc.elemAddr (x : OpSrc) (l : Lay) (e : Nat) : Nat :=
  if x.pop.isSome then x.addr.toNat + e * l.width else x.addr.toNat + memOff x.spec l e

/-- The addresses in the parameter windows of some elements of a local operand. -/
def OpSrc.windowed (x : OpSrc) (l : Lay) (first n : Nat) : List Nat :=
  if x.spec.space = 4#3 || (x.spec.space = 3#3 && x.pop.any (fun p => !p.handle)) then
    (((List.range n).map (fun i => x.elemAddr l (first + i))).filter (fun a => 0xE00000 ≤ a)).flatMap (fun a => [a, a + l.width - 1])
  else []

/-- What an operand captures of the registers at issue. -/
def Core.opSrc (c : Core) (o : Opnd) : OpSrc :=
  let i := o.index.toNat
  match o.space.toNat with
  | 4 => { spec := o, addr := c.areg i }
  | 5 => { spec := o, addr := c.areg i, hand := c.hreg i }
  | 7 => { spec := o, splat := c.sreg i }
  | _ => { spec := o }

/-! ## Capturing elements -/

/-- The accumulator pair at a row and column (R33). -/
def Core.accPair (c : Core) (xa row col : Nat) : U32 × U32 := sget (0#32, 0#32) c.xa (16384 * xa + 128 * row + col)

/-- The tag of the accumulator line that holds a pair (R34, R351). -/
def Core.accTag (c : Core) (xa row col : Nat) : U16 := sget dtOn c.xaTag (2048 * xa + (128 * row + col) / 8)

/-- Captures element `e` of an operand that is read in its own cycle: spaces 1, 4, 6, 7 and a local stream
(R207, R210). A refused element carries the flags of its refusal in `hi`. -/
def State.readElem (s : State) (t : Team) (c : Core) (x : OpSrc) (l : Lay) (e : Nat) : Elem :=
  let o := x.spec
  let loc (_ : Unit) : Elem :=
    let a := x.elemAddr l e
    let st := localRefusal t false a l.width
    if st ≠ 0#8 then { kind := .refused, hi := statusFlags st }
    else { bits := leNat (s.localBytes t c a l.width), tag := s.localTag t c a }
  match o.space.toNat with
  | 1 =>
    let a := 4096 * (o.index.toNat % 32) + tileOff o l e
    { bits := leNat (c.tile.bytes a l.width), tag := c.tile.tag dtOn a }
  | 3 => if (x.pop.map ZPop.bound).getD false then loc () else { kind := .refused, hi := fWIN }
  | 4 => loc ()
  | 6 =>
    let xa := o.index.toNat % 4
    let row := (64 * (o.index.toNat / 4 % 2) + rowIx o (e / l.cols)) % 128
    let k := e % l.cols
    if 128 ≤ k then { kind := .acc }
    else
      let p := c.accPair xa row k
      { kind := .acc, hi := p.1, lo := p.2, tag := c.accTag xa row k }
  | 7 => { kind := .splat, bits := x.splat.toNat }
  | _ => { tag := dtOn }

/-- The flags of the refused elements among some. -/
def refusedFlags (es : List Elem) : U32 := es.foldl (fun f e => if e.kind = .refused then f ||| e.hi else f) 0#32

/-- Captures elements `first` up to `first + n - 1`. -/
def State.readElems (s : State) (t : Team) (c : Core) (x : OpSrc) (l : Lay) (first n : Nat) : List Elem :=
  (List.range n).map (fun i => s.readElem t c x l (first + i))

/-- An element behind a handle is refused (R168, R210). -/
def handleRefuses (h : U64) (a w : Nat) : Bool := !(hV h) || !(hRsd h) || hSize h < a + w

/-- Insertion into a rising list without repeats. -/
def addKey (k : Nat) : List Nat → List Nat
  | [] => [k]
  | x :: t => if k < x then k :: x :: t else if k = x then x :: t else x :: addKey k t

/-- The blocks that the accepted elements of a handle operand touch, as rising offsets from the page divided
by 64. -/
def handleKeys (x : OpSrc) (l : Lay) (n : Nat) : List Nat :=
  (List.range n).foldl (fun ks e =>
    let a := x.elemAddr l e
    if handleRefuses x.hand a l.width then ks else addKey ((a + l.width - 1) / 64) (addKey (a / 64) ks)) []

/-- Issues the loads of a handle operand, one per block touched, in ascending order (R318), and captures its
elements by the accesses that bring them. -/
def State.loadHandle (s : State) (x : OpSrc) (l : Lay) (n : Nat) (cls : BitVec 4) : State × List Elem × List Nat :=
  let go := (handleKeys x l n).foldl (fun (p : State × List (Nat × Nat)) k =>
    (p.1.addAccess cls (.mem (hAddr x.hand (64 * k) / 64)) .load true, p.2 ++ [(k, p.1.nextAcc)])) (s, [])
  let elems := (List.range n).map (fun e =>
    let a := x.elemAddr l e
    if handleRefuses x.hand a l.width then ({ kind := .refused, hi := fRES } : Elem)
    else { mem := (splitLines a l.width).map (fun q => ((slook go.2 q.1).getD 0, q.2.1, q.2.2)) })
  (go.1, elems, go.2.map (·.2))

/-- An element with the bytes that its accesses brought. -/
def State.resolve (s : State) (e : Elem) : Elem :=
  match e.mem with
  | [] => e
  | ms =>
    let piece (m : Nat × Nat × Nat) : List Byte :=
      match s.arrivedReply m.1 with
      | some r => (r.bytes.drop m.2.1).take m.2.2
      | none => []
    let tag := match ms with
      | m :: _ => ((s.arrivedReply m.1).map Reply.tag).getD 0#16
      | [] => 0#16
    { e with bits := leNat (ms.flatMap piece), tag := tag, mem := [] }

/-! ## Decoding -/

/-- A decoded element: value, format code, scale code and flags. -/
structure Dec where
  v : Val
  fmt : Nat := 0x22
  scale : Nat := 255
  flags : U32 := 0#32
  deriving DecidableEq, Repr

/-- A format code is of an integer format. -/
def isIntFmt (f : Nat) : Bool := match fmtOf f with | some (.int _ _) => true | _ => false

/-- The width of a numeric format in bits, 0 for others. -/
def fmtBits (f : Nat) : Nat := ((fmtOf f).map Fmt.bits).getD 0

/-- What decodes as poison with FMT and POI (R52, R207). -/
def badLine (f : Nat) : Dec := { v := .poison, fmt := f, flags := fPOI ||| fFMT }

/-- Decodes `x` in numeric format `f` under scale code `e`. -/
def decIn (f e x : Nat) : Dec :=
  let r := dec x f e
  { v := r.1, fmt := f, scale := e, flags := r.2 }

/-- Decodes raw bits of width `w` bytes by a line descriptor (R52, R53, R207): `named` is the format that the
operation names for a raw line, 0 for none. -/
def decLine (w named : Nat) (tag : U16) (x : Nat) : Dec :=
  let f := descFmt tag
  if f = 0x7F then { v := .poison, fmt := f, flags := fPOI }
  else
    let g := if f = 0 then named else f
    let e := if f = 0 then 255 else descScale tag
    if (fmtOf g).isNone || fmtBits g ≠ 8 * w then badLine f else decIn g e x

/-- Rounds the exact sum of a pair, `hi + lo`. -/
def pairVal (hi lo : U32) : Val := (vadd false (ofF32 hi.toNat) (ofF32 lo.toNat)).1

/-- The formats in which an operation reads: element width in bytes, the format of raw lines, that of a splat,
and that into which an accumulator pair is rounded. -/
structure Reads where
  w : Nat
  named : Nat
  splat : Nat
  acc : Nat
  deriving DecidableEq, Repr

/-- Decodes a captured element (R207, R210). `c` is the rounding code of an accumulator element. -/
def decElem (r : Reads) (c : Rc) (e : Elem) : Dec :=
  match e.kind with
  | .line => decLine r.w r.named e.tag e.bits
  | .refused => { v := .fin false 0 0, fmt := if r.acc = 0 then 0x22 else r.acc }
  | .splat => decIn r.splat 255 (e.bits % 2 ^ fmtBits r.splat)
  | .acc =>
    if tagPoison e.tag then { v := .poison, fmt := 0x7F, flags := tagFlags e.tag }
    else
      match fmtOf r.acc with
      | none => badLine r.acc
      | some f =>
        let x := rndFmt f c false (pairVal e.hi e.lo)
        let d := decIn r.acc 255 x.1
        { d with flags := d.flags ||| x.2 }

/-- An element in a working floating format (R67, R207): its value and flags. -/
def numF (r : Reads) (wf : FloatFmt) (c : Rc) (e : Elem) : Val × U32 :=
  let d := decElem r c e
  if d.v.bad then (d.v, d.flags)
  else
    let x := rndVal wf c d.v
    (decFmt (.flt wf) x.1 0, d.flags ||| x.2)

/-- An integer value as an exact number, and back. -/
def ofInt (v : Int) : Val := .fin (v < 0) v.natAbs 0
def toInt : Val → Int
  | .fin n m e =>
    let k : Int := if 0 ≤ e then ((m * pow2 e : Nat) : Int) else ((m / pow2 (-e) : Nat) : Int)
    if n then -k else k
  | _ => 0

/-- An element in a working signed integer format of `b` bits (R207, R213): value, poison, flags. -/
def numI (r : Reads) (b : Nat) (c : Rc) (e : Elem) : Int × Bool × U32 :=
  let d := decElem r c e
  if d.v = .poison then (0, true, d.flags)
  else
    let x := rndInt b true c (isIntFmt d.fmt) d.v
    (toInt (decFmt (.int b true) x.1 0), false, d.flags ||| x.2)

/-- The bits of a captured element for a bit copy of width `w` bytes (R207, R210), and the tag it supplies to
a destination line: none for a splat (R214). A bit copy of an accumulator element takes the format of the
width; for bytes there is none, and the bits are a free choice (log entry 6). -/
def copyElem (w : Nat) (free : U64) (e : Elem) : Nat × Option U16 :=
  match e.kind with
  | .line => (e.bits % 2 ^ (8 * w), some e.tag)
  | .refused => (0, some dtOn)
  | .splat => (e.bits % 2 ^ (8 * w), none)
  | .acc =>
    if tagPoison e.tag then (0, some 0xFFFF#16)
    else if w = 4 then ((rndVal fp32 rne (pairVal e.hi e.lo)).1, some 0x44FF#16)
    else if w = 2 then ((rndVal bf16 rne (pairVal e.hi e.lo)).1, some 0x40FF#16)
    else (free.toNat % 2 ^ (8 * w), some dtOn)

/-- The flags of a bit copy that reads a poison-tagged line (R38, R52; log entry 15). -/
def copyFlags (e : Elem) : U32 := if e.kind = .line || e.kind = .acc then tagFlags e.tag else 0#32

/-! ## Conversion (R62, R64) -/

/-- Packs codes of `b` bits into bytes (R41). -/
def packCodes (b : Nat) (codes : List Nat) : List Byte :=
  if b = 4 then
    (List.range (ceilDiv codes.length 2)).map (fun i =>
      BitVec.ofNat 8 (codes.getD (2 * i) 0 % 16 + 16 * (codes.getD (2 * i + 1) 0 % 16)))
  else codes.flatMap (fun c => leBytes (b / 8) c)

/-- Code `i` of width `b` bits in bytes (R41). -/
def unpackCode (b : Nat) (bytes : List Byte) (i : Nat) : Nat :=
  if b = 4 then (bytes.getD (i / 2) 0#8).toNat / 16 ^ (i % 2) % 16 else leNat ((bytes.drop (i * (b / 8))).take (b / 8))

/-- Pieces of `n` of a list. -/
def pieces {α : Type} (n : Nat) : Nat → List α → List (List α)
  | 0, _ => []
  | _, [] => []
  | k + 1, xs => xs.take n :: pieces n k (xs.drop n)

/-- A value to convert: the decoded element and the random half word that it would take. -/
abbrev ConvIn := Dec × Nat

/-- Converts the elements of one block into format code `f` (R62, R53): codes, descriptor and flags. A
poison element makes the block poison; whether the other elements of such a block set their conversion flags the
spec does not say, and they set none (DESIGN CHOICE, log entry 68). -/
def convBlock (f : Nat) (c : Rc) (unit : Bool) (vs : List ConvIn) : List Nat × U16 × U32 :=
  match fmtOf f with
  | none => (vs.map (fun _ => 0), 0xFFFF#16, fFMT)
  | some g =>
    if vs.any (fun v => v.1.v = .poison) then (vs.map (fun _ => 0), 0xFFFF#16, 0#32)
    else
      let e := blockScale g unit (vs.map (fun v => v.1.v))
      let rs := vs.map (fun v => rndFmt g { c with rn := v.2 } (isIntFmt v.1.fmt) (v.1.v.scale ((e : Int) - 255)))
      (rs.map (·.1), mkDesc f e, rs.foldl (fun a r => a ||| r.2) 0#32)

/-- Converts elements in order, regrouped into whole blocks of format `f`, the last completed with zeros when
`pad` holds (R64, R192): the blocks and the flags. -/
def convRun (f : Nat) (c : Rc) (unit pad : Bool) (vs : List ConvIn) : List (List Byte × U16) × U32 :=
  let b := fmtBits f
  let per := if b = 0 then 64 else 512 / b
  let ps := pieces per (vs.length + 1) vs
  ps.foldr (fun p acc =>
    let p := if pad then p ++ List.replicate (per - p.length) ({ v := .fin false 0 0, fmt := f }, 0) else p
    let r := convBlock f c unit p
    ((packCodes b r.1, r.2.1) :: acc.1, r.2.2 ||| acc.2)) ([], 0#32)

/-! ## Conversion queues -/

/-- Bytes that a queue holds (R181). -/
def Queue.held (q : Queue) : Nat := q.lines.foldl (fun n l => n + l.bytes.length) 0

/-- Bytes that a queue can give now: those of the lines at its head whose wait is over (R181). -/
def Queue.ready (q : Queue) : List QLine := q.lines.takeWhile (fun l => l.wait = 0)

/-- Takes `n` bytes from the head of a list of lines: the pieces taken and the lines left. -/
def takeBytes : Nat → List QLine → List QLine × List QLine
  | _, [] => ([], [])
  | 0, ls => ([], ls)
  | n + 1, l :: ls =>
    if l.bytes.length ≤ n + 1 then
      let r := takeBytes (n + 1 - l.bytes.length) ls
      (l :: r.1, r.2)
    else ([{ l with bytes := l.bytes.take (n + 1) }], { l with bytes := l.bytes.drop (n + 1) } :: ls)

/-- The format code under which the converter reads a line: the source-format register, else the line's own format;
a poison line stays poison (R64, R52). -/
def Queue.srcCode (q : Queue) (l : QLine) : Nat :=
  let own := descFmt l.tag
  if q.fi = 0#7 || own = 0x7F then own else q.fi.toNat

/-- Bits that the converter takes from a line for one sink element of `b` bits: the width of the source-format
register or of the line's own format, or that of the sink where neither has one (R64, log entry 7). -/
def Queue.srcBits (q : Queue) (l : QLine) (b : Nat) : Nat :=
  let n := fmtBits (if q.fi = 0#7 then descFmt l.tag else q.fi.toNat)
  if n = 0 then b else n

/-- What the converter decodes bits of a line to (R64, R52): poison where the code is no numeric format, with FMT
unless it is that of poison. -/
def Queue.srcDec (q : Queue) (l : QLine) (x : Nat) : Dec :=
  let f := q.srcCode l
  if (fmtOf f).isSome then decIn f (descScale l.tag) x
  else if f = 0x7F then { v := .poison, flags := fPOI }
  else badLine 0

/-- The source bytes that `n` sink elements of `b` bits come from, and the elements they decode to, each with its
first bit, counted from `pos`; none if the lines do not hold them. DESIGN CHOICE: the rule pops bytes and does not say what
becomes of the second half of a byte whose first half alone is needed (an odd number of 4-bit elements); the whole byte goes
(log entry 84). -/
def Queue.gather (q : Queue) (b : Nat) : Nat → List QLine → Nat → Option (Nat × List (Nat × Dec))
  | _, _, 0 => some (0, [])
  | _, [], _ + 1 => none
  | pos, l :: ls, n + 1 =>
    let sb := q.srcBits l b
    let k := min (n + 1) (8 * l.bytes.length / sb)
    let ds := (List.range k).map (fun i => (pos + i * sb, q.srcDec l (unpackCode sb l.bytes i)))
    let used := if n + 1 ≤ k then ceilDiv (k * sb) 8 else l.bytes.length
    match q.gather b (pos + 8 * used) ls (n + 1 - k) with
    | some r => some (used + r.1, ds ++ r.2)
    | none => none

/-- Steps a converter `n` times (R61): the states in turn. -/
def stepStates : Nat → U32 → List U32
  | 0, _ => []
  | n + 1, x => let y := stepConv x; y :: stepStates n y

/-- Takes one element of a pop, at a bit of its source, into the converter (R61): the converter steps before the
first element of each chunk of 256 source bytes. The result holds the generator of the queue, the progress of the
pop, and the element's random half word. -/
def Progress.take (g : U32) (p : Progress) (pos : Nat) : U32 × Progress × Nat :=
  let k := pos / 2048 + 1 - p.steps
  let g := (stepStates k g).getLastD g
  let p := if k = 0 then p else { p with steps := p.steps + k, st := g, idx := 0 }
  (g, { p with idx := p.idx + 1 }, randHalf p.st p.idx)

/-- The elements of a pop with their random half words. -/
def Progress.takeAll (g : U32) (p : Progress) (ds : List (Nat × Dec)) : U32 × Progress × List ConvIn :=
  ds.foldl (fun r d =>
    let t := Progress.take r.1 r.2.1 d.1
    (t.1, t.2.1, r.2.2 ++ [(d.2, t.2.2)])) (g, p, [])

/-- What a pop delivers: bytes with their descriptors, the lines left, the generator and progress of the converter,
and the flags. -/
structure Popped where
  bytes : List (Byte × U16)
  lines : List QLine
  conv : U32
  prog : Progress
  flags : U32
  deriving DecidableEq, Repr

/-- Bytes of a block, each with the descriptor. -/
def tagged (b : List Byte × U16) : List (Byte × U16) := b.1.map (fun x => (x, b.2))

/-- Pops `n` delivered bytes from some lines under the formats and mode of a queue (R64, R181), with the state of a
pop under way; none when the lines do not hold them. A sink register with a structural code (0x30, 0x31, 0x38) holds
a listed code that no converter writes; it acts as a reserved one (DESIGN CHOICE, log entry 68). -/
def popQueue (q : Queue) (ls : List QLine) (conv : U32) (p : Progress) (n : Nat) : Option Popped :=
  let have' := ls.foldl (fun k l => k + l.bytes.length) 0
  let fo := q.fo.toNat
  if fo = 0 then
    if have' < n then none
    else
      let t := takeBytes n ls
      some { bytes := t.1.flatMap (fun l => tagged (l.bytes, l.tag)), lines := t.2, conv := conv, prog := p, flags := 0#32 }
  else if (fmtOf fo).isNone then
    let k := 64 * ceilDiv n 64
    if have' < k then none
    else
      some { bytes := List.replicate n (0#8, 0xFFFF#16), lines := (takeBytes k ls).2, conv := conv, prog := p, flags := fFMT }
  else
    let b := fmtBits fo
    match q.gather b p.pos ls (8 * n / b) with
    | none => none
    | some (used, ds) =>
      let code := q.md.toNat % 16
      let t := Progress.takeAll conv p ds
      let r := convRun fo (rcOf code) (q.md.getLsbD 4) false t.2.2
      some { bytes := (r.1.flatMap tagged).take n, lines := (takeBytes used ls).2, conv := t.1,
             prog := { t.2.1 with pos := p.pos + 8 * used },
             flags := r.2 ||| ds.foldl (fun a d => a ||| d.2.flags) 0#32 ||| flagIf (4 < code % 8) fFMT }

/-- The source bytes that a pop under way has still to take from some lines; none if they do not hold them. -/
def QPop.rest (x : QPop) (q : Queue) (ls : List QLine) : Option Nat :=
  let q := { q with fi := x.fi, fo := x.fo, md := x.md }
  let have' := ls.foldl (fun k l => k + l.bytes.length) 0
  let fo := x.fo.toNat
  if fo = 0 then (if have' < x.left then none else some x.left)
  else if (fmtOf fo).isNone then
    let k := 64 * ceilDiv x.left 64
    if have' < k then none else some k
  else (q.gather (fmtBits fo) 0 ls (8 * x.left / fmtBits fo)).map (·.1)

/-- Pops the `n` bytes of the next chunk of a pop under way, behind those that earlier pops have still to take, from
lines of which `ready` may be popped (R181, R209). -/
def QPop.chunk (x : QPop) (q : Queue) (ahead : List QPop) (ready : List QLine) (conv : U32) (n : Nat) :
    Option (Popped × QPop) :=
  let front := ahead.foldl (fun (r : Option (List QLine × List QLine)) y =>
    r.bind (fun r => (y.rest q r.2).map (fun k => let t := takeBytes k r.2; (r.1 ++ t.1, t.2)))) (some ([], ready))
  match front with
  | none => none
  | some (kept, ls) =>
    (popQueue { q with fi := x.fi, fo := x.fo, md := x.md } ls conv x.conv n).map (fun p =>
      ({ p with lines := kept ++ p.lines }, { x with next := x.next + 1, left := x.left - n, conv := p.prog }))

/-- Elements of width `w` from delivered bytes, each under the descriptor of the block of its first byte. -/
def elemsOf (w : Nat) (bytes : List (Byte × U16)) : List Elem :=
  (pieces w (bytes.length + 1) bytes).map (fun p =>
    { bits := leNat (p.map (·.1)), tag := (p.head?.map (·.2)).getD 0#16 })

/-- Pushes lines into a queue; their bytes may be popped from the second cycle on (R181). -/
def Queue.push (q : Queue) (ls : List (List Byte × U16)) : Queue :=
  { q with lines := q.lines ++ ls.map (fun l => { bytes := l.1, tag := l.2, wait := 2 }) }

/-- The capacity of a queue in bytes (R181). -/
def queueCap : Nat := 32768

/-! ## Streams (R184, R185) -/

/-- Applies one operator to a decoded element: 1 MULS, 2 ADDS, 3 RELU, in FP32 under RNE. -/
def zStep (op : Nat) (v : U32) (d : Dec) : Dec :=
  let put (x : Val × U32) : Dec :=
    if x.1.bad then { v := x.1, fmt := 0x22, scale := 255, flags := d.flags ||| x.2 }
    else
      let r := toF32 x.1
      { v := ofF32 r.1, fmt := 0x22, scale := 255, flags := d.flags ||| x.2 ||| r.2 }
  match op with
  | 1 => put (vmul d.v (ofF32 v.toNat))
  | 2 => put (vadd false d.v (ofF32 v.toNat))
  | _ => put (vmax d.v (.fin false 0 0), 0#32)

/-- Applies one operator to the elements of a chunk in turn; 4 CVT goes by blocks of the target under AUTO.
The random bits of a stochastic code have no converter here and are free (log entry 8). A reserved MODE of a CVT
operator rounds as RNE and sets FMT, as R63 says for queues (DESIGN CHOICE, log entry 68). -/
def zOp (free : Nat) (x : Nat × U32 × U16) (ds : List Dec) : List Dec :=
  if x.1 = 4 then
    let f := x.2.2.toNat % 128
    let c := rcOf (x.2.1.toNat % 16)
    let r := convRun f c false false (ds.mapIdx (fun i d => (d, (Config.freeWord (free + i)).toNat % 2 ^ 16)))
    let b := fmtBits f
    let per := if b = 0 then 64 else 512 / b
    ds.mapIdx (fun i d =>
      let k := r.1.getD (i / per) ([], 0xFFFF#16)
      let y : Dec := if k.2 = 0xFFFF#16 then { v := .poison, fmt := f } else decIn f (descScale k.2) (unpackCode b k.1 (i % per))
      { y with flags := d.flags ||| r.2 ||| flagIf (4 < c.mode) fFMT })
  else ds.map (zStep x.1 x.2.1)

/-- The elements of a chunk as a stream delivers them: unchanged without operators, otherwise in the format of
the last conversion or in FP32; a width other than the tile's makes them poison when decoded (R207). -/
def zDeliver (free : Nat) (r : Reads) (ops : List (Nat × U32 × U16)) (es : List Elem) : List Elem × U32 :=
  if ops.isEmpty then (es, 0#32)
  else
    let ds := ops.foldl (fun ds x => zOp free x ds) (es.map (decElem r rne))
    (ds.mapIdx (fun i d =>
      if d.v = .poison then { bits := 0, tag := 0xFFFF#16 }
      else
        let tag := mkDesc d.fmt d.scale
        if fmtBits d.fmt = 8 * r.w then
          match fmtOf d.fmt with
          | some f => { bits := (rndFmt f rne true (d.v.scale ((d.scale : Int) - 255))).1, tag := tag }
          | none => { bits := 0, tag := 0xFFFF#16 }
        else { bits := (Config.freeWord (free + 65536 + i)).toNat % 2 ^ (8 * r.w), tag := tag }),
     ds.foldl (fun a d => a ||| d.flags) 0#32)

/-- The place of a stream's next vector: BASE + Σ i·stride (R185). -/
def ZBind.place (z : ZBind) : U64 :=
  let st (k : Nat) : Int := ((z.dims.getD k (1#32, 0#32)).2).toInt
  BitVec.ofInt 64 ((z.base.toNat : Int) + z.i0 * st 0 + z.i1 * st 1 + z.i2 * st 2)

/-- A stream after one pop (R185, R186): the indices advance innermost first. -/
def ZBind.advance (z : ZBind) : ZBind :=
  let cnt (k : Nat) : Nat := ((z.dims.getD k (1#32, 0#32)).1).toNat
  let z := { z with pops := z.pops + 1 }
  if z.i0 + 1 < cnt 0 then { z with i0 := z.i0 + 1 }
  else if z.i1 + 1 < cnt 1 then { z with i0 := 0, i1 := z.i1 + 1 }
  else if z.i2 + 1 < cnt 2 then { z with i0 := 0, i1 := 0, i2 := z.i2 + 1 }
  else { z with i0 := 0, i1 := 0, i2 := 0 }

/-! ## Destinations -/

/-- A result element: its index, bits and descriptor. -/
abbrev Res := Nat × Nat × U16

/-- What is written into one 64-byte line: bytes (newest first), the descriptor of the element at the lowest
byte written, and whether a poison result fell on it (R208, R214). -/
structure OutLine where
  line : Nat
  ws : List (Nat × Byte)
  low : Nat
  tag : U16
  poison : Bool
  deriving DecidableEq, Repr

/-- Adds one byte to the lines of a write. -/
def addByte (a : Nat) (b : Byte) (tag : U16) (poison : Bool) : List OutLine → List OutLine
  | [] => [{ line := a / 64, ws := [(a % 64, b)], low := a % 64, tag := tag, poison := poison }]
  | l :: t =>
    if l.line = a / 64 then
      { l with ws := (a % 64, b) :: l.ws, low := min l.low (a % 64),
               tag := if a % 64 ≤ l.low then tag else l.tag, poison := l.poison || poison } :: t
    else l :: addByte a b tag poison t

/-- The lines of some placed elements of width `w`. `carry` says that a poison tag is carried with the bits
of a copy, not written as a poison result (R208, R214). -/
def outLines (w : Nat) (carry : Bool) (ps : List (Nat × Nat × U16)) : List OutLine :=
  ps.foldl (fun ls p =>
    (leBytes w p.2.1).foldl (fun (q : Nat × List OutLine) b =>
      (q.1 + 1, addByte q.1 b p.2.2 (!carry && p.2.2 = 0xFFFF#16) q.2)) (p.1, ls) |>.2) []

/-- A line that received a poison result is written whole, as a poison block (R208). -/
def OutLine.final (l : OutLine) : OutLine :=
  if l.poison then { l with ws := bytesAt 0 (List.replicate 64 0#8), tag := 0xFFFF#16 } else { l with ws := l.ws.reverse }

/-- A line as an operation writes it after what it has written of that line before: a poison result of an earlier
chunk keeps it poison (R208), and the descriptor is that of the lowest element so far (R214). -/
def OutLine.onto (l : OutLine) (done : List LineTag) : OutLine :=
  match done.find? (fun d => d.line = l.line) with
  | none => l
  | some d =>
    let l := if d.low < l.low then { l with low := d.low, tag := d.tag } else l
    { l with poison := l.poison || d.poison }

/-- Notes what has been written of some lines. -/
def noteLines (done : List LineTag) (ls : List OutLine) : List LineTag :=
  ls.foldl (fun done l =>
    { line := l.line, low := l.low, tag := l.tag, poison := l.poison } :: done.filter (fun d => d.line ≠ l.line)) done

/-- Writes lines into a tile register; a line takes the tag of what is written, whole or not (R206, R208). -/
def putTile (m : TMem) (base : Nat) (ls : List OutLine) : TMem :=
  ls.foldl (fun m l =>
    let l := l.final
    (l.ws.foldl (fun m w => m.wr (base + 64 * l.line + w.1) w.2) m).wrTag dtOn (base + 64 * l.line) l.tag) m

/-- Bytes of a line as scratchpad writes of one core; a line written whole takes its tag (R51). -/
def OutLine.locW (prio core : Nat) (cls : BitVec 4) (l : OutLine) : List LocW :=
  let l := l.final
  let ws := l.ws.map (fun w => ({ prio := prio, core := core, addr := 64 * l.line + w.1, bytes := [w.2], cls := cls } : LocW))
  if whole l.ws then ws ++ [{ prio := prio, core := core, addr := 64 * l.line, bytes := [], tags := [(l.line, l.tag)], cls := cls }] else ws

/-- The lines of bytes pushed into a queue: 64 bytes each, a poison result making a poison line. -/
def queueLines (w : Nat) (carry : Bool) (rs : List Res) : List (List Byte × U16) :=
  (pieces (64 / w) (rs.length + 1) rs).map (fun p =>
    if !carry && p.any (fun r => r.2.2 = 0xFFFF#16) then (List.replicate (w * p.length) 0#8, 0xFFFF#16)
    else (p.flatMap (fun r => leBytes w r.2.1), (p.head?.map (fun r => r.2.2)).getD dtOn))

end Sys2Proof.Machine
end

