-- ==== Sys2Proof/Machine/VxCalc.lean ====
section
/-!
DEFINITION. What the vector operations compute (spec/07 R206-R228): from captured elements to result elements
with their descriptors and flags.
-/
namespace Sys2Proof.Machine

open Sys2Proof

/-- The floating format of a width: FP32, BF16, none for bytes (R206). -/
def namedFmt (w : Nat) : Nat := if w = 4 then 0x22 else if w = 2 then 0x20 else 0

/-- The integer format of a width (R206). -/
def intFmt (w : Nat) : Nat := if w = 4 then 0x2C else if w = 2 then 0x2B else 0x28

/-- The operation works in integers: OPM `.i` or `.is` of the arithmetic family (R206). -/
def VOp.isInt (v : VOp) : Bool := vxArith v.opc && (v.word.opm = 2#4 || v.word.opm = 3#4)

/-- Saturating integer form. -/
def VOp.sat (v : VOp) : Bool := v.word.opm = 3#4

/-- The working floating format of the arithmetic family (R206). -/
def VOp.wf (v : VOp) : FloatFmt := if v.word.opm = 1#4 then bf16 else fp32

/-- Code of the working format. -/
def VOp.wfCode (v : VOp) : Nat := if v.word.opm = 1#4 then 0x20 else 0x22

/-- The formats in which the operation reads its operands (R206, R207). DESIGN CHOICE: a pair of an accumulator is rounded
into wf, which R206 defines by the OPM of arithmetic alone; for a compare, a mask transfer or a move it is rounded into BF16
at w = 2 and into FP32 otherwise (log entry 84). -/
def VOp.reads (v : VOp) : Reads :=
  if v.isInt then { w := v.width, named := intFmt v.width, splat := intFmt v.width, acc := intFmt v.width }
  else if vxArith v.opc then { w := v.width, named := namedFmt v.width, splat := v.wfCode, acc := v.wfCode }
  else { w := v.width, named := namedFmt v.width, splat := 0x22, acc := if v.width = 2 then 0x20 else 0x22 }

/-- The formats in which `vx.cvt` reads A: raw lines, a splat and an accumulator in the default format of the source
width (R224). -/
def cvtReads (sw : Nat) : Reads :=
  let named := if sw = 4 then 0x22 else if sw = 2 then 0x20 else 0x28
  { w := sw, named := named, splat := named, acc := named }

/-- The formats in which a bound vector is read, whatever the width of `vshape` (R225). -/
def boundReads : Reads := { w := 4, named := 0x22, splat := 0x22, acc := 0x22 }

/-- The number of elements (R204). -/
def VOp.count (v : VOp) : Nat := v.rows * v.cols

/-- The elements of chunk `j` (R204, R224): first index and number. -/
def VOp.chunkElems (v : VOp) (j : Nat) : Nat × Nat :=
  let per := 256 / max v.width v.srcWidth
  (per * j, min per (v.count - per * j))

/-- The rounding code with the random bits of destination element `e` of width `wd` (R211). -/
def VOp.rcAt (v : VOp) (wd e : Nat) : Rc :=
  let per := 256 / wd
  let j := min (e / per) (v.conv.length - 1)
  (rcOf v.word.rnd.toNat).at (v.conv.getD j 0#32) (e - j * per)

/-- A result: bits, descriptor and flags. -/
abbrev Out := Nat × U16 × U32

/-- A poison result. -/
def poisonOut (flags : U32) : Out := (0, 0xFFFF#16, flags)

/-- A floating result: one rounding into the working format, then the narrowing to the destination format of
width `w` (R67, R206). -/
def VOp.outF (v : VOp) (c : Rc) (x : Val) (flags : U32) : Out :=
  if x = .poison then poisonOut flags
  else
    let r := rndVal v.wf c x
    let df := namedFmt v.width
    if df = v.wfCode then (r.1, mkDesc df 255, flags ||| r.2)
    else
      let r2 := rndVal (if df = 0x20 then bf16 else fp32) c (decFmt (.flt v.wf) r.1 0)
      (r2.1, mkDesc df 255, flags ||| r.2 ||| r2.2)

/-- A result already rounded into the working format. -/
def VOp.outCode (v : VOp) (c : Rc) (r : Nat × U32) (flags : U32) : Out :=
  v.outF c (decFmt (.flt v.wf) r.1 0) (flags ||| r.2)

/-- An integer result: wrapped or saturated once (R213). -/
def VOp.outI (v : VOp) (x : Int) (poison : Bool) (flags : U32) : Out :=
  if poison then poisonOut flags
  else
    let b := 8 * v.width
    ((if v.sat then (satS b x).toNat else (BitVec.ofInt b x).toNat), mkDesc (intFmt v.width) 255, flags)

/-! ## Elementwise arithmetic (R212, R213) -/

/-- The integer result of an elementwise operation. -/
def intOp (opc : Nat) (sat : Bool) (b : Nat) (x y d : Int) : Int :=
  match opc with
  | 0x01 => x + y
  | 0x02 => x - y
  | 0x03 | 0x04 => x * y
  | 0x05 =>
    if y = 0 then
      (if sat then (if x = 0 then 0 else if x < 0 then -(2 ^ (b - 1) : Nat) else (2 ^ (b - 1) : Nat) - 1) else -1)
    else Int.tdiv x y
  | 0x06 => min x y
  | 0x07 => max x y
  | 0x08 => (x.natAbs : Int)
  | 0x09 => -x
  | 0x10 => x * y + d
  | 0x11 => x * y - d
  | 0x12 => d - x * y
  | _ => if d < y then d else min (max x y) d

/-- The exact floating result of an elementwise operation, with DZ and NV (R58, R66, R212). -/
def fltOp (opc : Nat) (rdn : Bool) (x y d : Val) : Val × U32 :=
  match opc with
  | 0x01 => vadd rdn x y
  | 0x02 => vadd rdn x y.neg
  | 0x03 => vmul x y
  | 0x04 => if x.isZero || y.isZero then (.fin false 0 0, 0#32) else vmul x y
  | 0x06 => (vmin x y, 0#32)
  | 0x07 => (vmax x y, 0#32)
  | 0x08 => (x.abs, 0#32)
  | 0x09 => (x.neg, 0#32)
  | 0x10 => let p := vmul x y; let r := vadd rdn p.1 d; (r.1, p.2 ||| r.2)
  | 0x11 => let p := vmul x y; let r := vadd rdn p.1 d.neg; (r.1, p.2 ||| r.2)
  | 0x12 => let p := vmul x y; let r := vadd rdn p.1.neg d; (r.1, p.2 ||| r.2)
  | _ => (if x.bad || y.bad || d.bad then (x.worse y).worse d else vmin (vmax x y) d, 0#32)

/-- Keeps a poison operand poison in a special function or a quotient (R53). -/
def orPoison (xs : List Val) (o : Out) : Out := if xs.contains .poison then poisonOut o.2.2 else o

/-- One element of an arithmetic operation. A zero factor of `vx.mulz` gives its zero with no flag, whatever the other
factor is (R66). -/
def VOp.arith (v : VOp) (e : Nat) (a b d : Elem) : Out :=
  let c := v.rcAt v.width e
  let r := v.reads
  if v.isInt then
    let n := 8 * v.width
    let x := numI r n c a
    let y := numI r n c b
    let z := numI r n c d
    v.outI (intOp v.opc v.sat n x.1 y.1 z.1) (x.2.1 || y.2.1 || z.2.1) (x.2.2 ||| y.2.2 ||| z.2.2)
  else if namedFmt v.width = 0 then poisonOut fFMT
  else
    let x := numF r v.wf c a
    let y := numF r v.wf c b
    let z := numF r v.wf c d
    let fl := x.2 ||| y.2 ||| z.2
    if vxSpecial v.opc then
      orPoison [x.1] (v.outCode c (special v.opc v.wf { sat := c.sat } x.1) fl)
    else if v.opc = 0x05 then orPoison [x.1, y.1] (v.outCode c (rndDiv v.wf c x.1 y.1) fl)
    else
      let q := fltOp v.opc (c.mode = 3) x.1 y.1 z.1
      v.outF c q.1 (if v.opc = 0x04 && (x.1.isZero || y.1.isZero) then 0#32 else fl ||| q.2)

/-! ## Bit copies (R214, R215, R217) -/

/-- The bits of a copy, logic or shift operation on `m`-bit patterns. -/
def bitOp (opc m x y : Nat) : Nat :=
  match opc with
  | 0x0A => (BitVec.ofNat m x &&& BitVec.ofNat m y).toNat
  | 0x0B => (BitVec.ofNat m x ||| BitVec.ofNat m y).toNat
  | 0x0C => (BitVec.ofNat m x ^^^ BitVec.ofNat m y).toNat
  | 0x0D => if m ≤ y then 0 else (BitVec.ofNat m x <<< y).toNat
  | 0x0E => if m ≤ y then 0 else (BitVec.ofNat m x >>> y).toNat
  | 0x0F => ((BitVec.ofNat m x).sshiftRight (min y (m - 1))).toNat
  | _ => x

/-- The descriptor that a bit copy gives its destination line (R214). -/
def copyTag (w : Nat) (free : U64) (a b : Elem) : U16 :=
  match (copyElem w free a).2 with
  | some t => t
  | none => ((copyElem w free b).2).getD dtOn

/-- One element of a bit-copy operation, `vx.sel` included. -/
def VOp.copy (v : VOp) (free : U64) (e : Nat) (a b : Elem) : Out :=
  let m := 8 * v.width
  let x := (copyElem v.width free a).1
  let y := (copyElem v.width free b).1
  let r := if v.opc = 0x13 then (if v.maskIn.getLsbD e != v.word.opm.getLsbD 3 then x else y) else bitOp v.opc m x y
  (r, copyTag v.width free a b, copyFlags a ||| copyFlags b)

/-- A count or a bit as a result element, in the destination format or as an integer (R217). DESIGN CHOICE: the spec states no
result for a count that does not fit into an integer of the width (`vx.mcnt` at w = 1), and `free` stands for it (log entry
84). -/
def VOp.number (v : VOp) (free : U64) (x : Nat) : Out :=
  if v.word.opm.getLsbD 3 then
    ((if x < 2 ^ (8 * v.width) then x else free.toNat % 2 ^ (8 * v.width)), mkDesc (intFmt v.width) 255, 0#32)
  else
    match fmtOf (namedFmt v.width) with
    | none => poisonOut fFMT
    | some f =>
      let r := rndFmt f rne true (ofInt (x : Int))
      (r.1, mkDesc (namedFmt v.width) 255, r.2)

/-! ## Conversion (R224) -/

/-- The control word of `vx.cvt` is faulty (R224). A raw target keeps the bits and descriptor of A, as an unconverted
sink does (R64, R65); R224 does not list it, and it is faulty only where the widths differ (DEDUCED, log entry 69). -/
def cvtFaulty (w : Nat) (ctl : U32) : Bool :=
  let f := ctl.toNat % 128
  2 ^ 10 ≤ ctl.toNat || field ctl.toNat 8 2 = 3 ||
    (if f = 0 then 2 ^ field ctl.toNat 8 2 ≠ w else (fmtOf f).isNone || fmtBits f ≠ 8 * w)

/-- The source element width of `vx.cvt`. -/
def cvtWidth (w : Nat) (ctl : U32) : Nat := if field ctl.toNat 8 2 = 3 then w else 2 ^ field ctl.toNat 8 2

/-- The layout of operand D of `vx.cvt`. -/
def VOp.cvtLay (v : VOp) : Lay := { rows := v.rows, cols := v.cols, width := v.width }

/-- The destination line of element `e`, numbered within the operand (R86, R181). -/
def VOp.lineOut (v : VOp) (e : Nat) : Nat :=
  match v.word.d.space.toNat with
  | 1 => tileOff v.word.d v.cvtLay e / 64
  | 2 => e * v.width / 64
  | _ => v.d.elemAddr v.cvtLay e / 64

/-- What a destination block of `vx.cvt` is made of: its line, the scale of its elements, and whether one of them is
poison (R62, R53). -/
def cvtBlocks (g : Fmt) (unit : Bool) (ds : List (Nat × Dec)) (lines : List Nat) : List (Nat × Nat × Bool) :=
  lines.map (fun k =>
    let vs := (ds.filter (fun d => d.1 = k)).map (fun d => d.2.v)
    (k, blockScale g unit vs, vs.contains .poison))

/-- Converts the elements of one chunk of `vx.cvt`: `n` elements from number `first` on. `as` holds the elements from
number `lo` on that have been read, for a destination block takes its scale from all its elements, those of other
chunks too (R62, R224; log entry 69). -/
def VOp.convert (v : VOp) (free : U64) (first n lo : Nat) (as : List Elem) : List Out :=
  let ctl := v.b.splat
  let mine := (as.drop (first - lo)).take n
  let f := ctl.toNat % 128
  if cvtFaulty v.width ctl then mine.map (fun _ => poisonOut fFMT)
  else
    match fmtOf f with
    | none => mine.map (fun a => ((copyElem v.width free a).1, ((copyElem v.width free a).2).getD dtOn, copyFlags a))
    | some g =>
      let r := cvtReads v.srcWidth
      let ds := as.mapIdx (fun i e => (v.lineOut (lo + i), decElem r (v.rcAt v.width (lo + i)) e))
      let own := (ds.drop (first - lo)).take n
      let bs := cvtBlocks g (ctl.getLsbD 7) ds (own.map (·.1)).eraseDups
      let read := own.foldl (fun a d => a ||| d.2.flags) 0#32
      own.mapIdx (fun i d =>
        match bs.find? (fun b => b.1 = d.1) with
        | some (_, e, false) =>
          let x := rndFmt g (v.rcAt v.width (first + i)) (isIntFmt d.2.fmt) (d.2.v.scale ((e : Int) - 255))
          (x.1, mkDesc f e, read ||| x.2)
        | _ => poisonOut read)

/-! ## Masks (R216, R217) -/

/-- The flags that a mask writer sets for what it reads: a compare sets no floating-point flag (R216). -/
def VOp.maskFlags (v : VOp) (fl : U32) : U32 := if v.opc ≤ 0x18 then fl &&& (fPOI ||| fFMT) else fl

/-- One bit of a mask writer, with the flags of its reads. -/
def VOp.maskBit (v : VOp) (free : U64) (a b : Elem) : Bool × U32 :=
  if v.word.opm.getLsbD 3 then
    let m := 8 * v.width
    let x := (BitVec.ofNat m (copyElem v.width free a).1).toInt
    let y := (BitVec.ofNat m (copyElem v.width free b).1).toInt
    let bit := match v.opc with
      | 0x14 => x = y
      | 0x15 => x ≠ y
      | 0x16 => x < y
      | 0x17 => x ≤ y
      | 0x18 => false
      | _ => x ≠ 0
    (bit, copyFlags a ||| (if v.opc ≤ 0x17 then copyFlags b else 0#32))
  else
    let x := decElem v.reads rne a
    let y := decElem v.reads rne b
    let fl := v.maskFlags (x.flags ||| y.flags)
    match v.opc with
    | 0x14 => (veq x.v y.v, fl)
    | 0x15 => (!(veq x.v y.v), fl)
    | 0x16 => (vlt x.v y.v, fl)
    | 0x17 => (vlt x.v y.v || veq x.v y.v, fl)
    | 0x18 => (x.v.bad, v.maskFlags x.flags)
    | _ => (!x.v.isZero, v.maskFlags x.flags)

/-- The mask that a compare or `vx.mput` writes, bits from the element count up 0. -/
def VOp.mask (v : VOp) (free : U64) : BitVec 4096 × U32 :=
  (List.range v.count).foldl (fun p e =>
    let r := v.maskBit free (v.ea.getD e {}) (v.eb.getD e {})
    (if r.1 then p.1 ||| BitVec.ofNat 4096 (2 ^ e) else p.1, p.2 ||| r.2)) (0#4096, 0#32)

/-! ## Reductions, scans, dot lanes (R219-R221) -/

/-- One rounded addition of the reduction tree (R68). -/
def VOp.addStep (v : VOp) (c : Rc) (fl : U32) (x y : Val) : U32 × Val :=
  let s := vadd (c.mode = 3) x y
  if s.1.bad then (fl ||| s.2, s.1)
  else
    let r := rndVal v.wf c s.1
    (fl ||| s.2 ||| r.2, decFmt (.flt v.wf) r.1 0)

/-- The column of the first NaN or poison element, else the lowest column of the maximum (R219). -/
def maxColumn (xs : List Val) : Nat :=
  match xs.findIdx? Val.bad with
  | some k => k
  | none =>
    ((List.range xs.length).foldl (fun (p : Nat × Val) k =>
      let x := xs.getD k .nan
      if k = 0 || vlt p.2 x || (veq p.2 x && p.2.isNeg && !x.isNeg) then (k, x) else p) (0, .nan)).1

/-- The result of one row in a floating form. -/
def VOp.rowF (v : VOp) (r : Nat) (as bs : List Elem) : Out :=
  let c := v.rcAt v.width r
  let xs := as.map (numF v.reads v.wf c)
  let fx := xs.foldl (fun a x => a ||| x.2) 0#32
  match v.opc with
  | 0x30 =>
    let ys := bs.map (numF v.reads v.wf c)
    let ps := List.zipWith (fun x y => vmul x.1 y.1) xs ys
    let fl := ps.foldl (fun a x => a ||| x.2) (ys.foldl (fun a x => a ||| x.2) fx)
    let t := tree (v.addStep c) .nan 16 fl (ps.map (·.1))
    v.outF c t.2 t.1
  | 0x28 => let t := tree (v.addStep c) .nan 16 fx (xs.map (·.1)); v.outF c t.2 t.1
  | 0x29 => let t := tree (fun f x y => (f, vmax x y)) .nan 16 fx (xs.map (·.1)); v.outF c t.2 t.1
  | 0x2A => let t := tree (fun f x y => (f, vmin x y)) .nan 16 fx (xs.map (·.1)); v.outF c t.2 t.1
  | _ => (maxColumn (xs.map (·.1)), mkDesc (if v.width = 1 then 0x29 else intFmt v.width) 255, fx)

/-- The result of one row in an integer form. -/
def VOp.rowI (v : VOp) (r : Nat) (as bs : List Elem) : Out :=
  let c := v.rcAt v.width r
  let n := 8 * v.width
  let xs := as.map (numI v.reads n c)
  let fx := xs.foldl (fun a x => a ||| x.2.2) 0#32
  let px := xs.any (fun x => x.2.1)
  match v.opc with
  | 0x30 =>
    let ys := bs.map (numI v.reads n c)
    v.outI ((List.zipWith (fun x y => x.1 * y.1) xs ys).foldl (· + ·) 0) (px || ys.any (fun y => y.2.1))
      (ys.foldl (fun a x => a ||| x.2.2) fx)
  | 0x28 => v.outI (xs.foldl (fun a x => a + x.1) 0) px fx
  | 0x29 => v.outI (xs.foldl (fun a x => max a x.1) (-(2 ^ 31 : Nat))) px fx
  | 0x2A => v.outI (xs.foldl (fun a x => min a x.1) (2 ^ 31 : Nat)) px fx
  | _ =>
    (maxColumn (xs.map (fun x => if x.2.1 then .poison else ofInt x.1)),
      mkDesc (if v.width = 1 then 0x29 else intFmt v.width) 255, fx)

/-- The running sums of one row (R220), `first` the index of its first element. -/
def VOp.scanRow (v : VOp) (first : Nat) (as : List Elem) : List Out :=
  if v.isInt then
    let n := 8 * v.width
    let go := as.foldl (fun (p : Nat × Int × Bool × List Out) a =>
      let c := v.rcAt v.width (first + p.1)
      let x := numI v.reads n c a
      let s := if p.1 = 0 then x.1 else p.2.1 + x.1
      let po := p.2.2.1 || x.2.1
      let o := v.outI s false x.2.2
      (p.1 + 1, (BitVec.ofNat n o.1).toInt, po, p.2.2.2 ++ [if po then poisonOut x.2.2 else o])) (0, 0, false, [])
    go.2.2.2
  else
    let go := as.foldl (fun (p : Nat × Val × List Out) a =>
      let c := v.rcAt v.width (first + p.1)
      let x := numF v.reads v.wf c a
      let s := if p.1 = 0 then (x.2, x.1) else v.addStep c x.2 p.2.1 x.1
      (p.1 + 1, s.2, p.2.2 ++ [v.outF c s.2 s.1])) (0, .nan, [])
    go.2.2

/-! ## Bound vectors (R225-R228) -/

/-- An element of a bound vector: NaN for a NaN, and NaN with NV for a negative or poison input. -/
def boundVal (e : Elem) : Val × U32 :=
  let d := decElem boundReads rne e
  let d := if e.kind = .line && descFmt e.tag ≠ 0 && descFmt e.tag ≠ 0x22 && descFmt e.tag ≠ 0x7F then badLine 0 else d
  match d.v with
  | .poison => (.nan, d.flags ||| fNV)
  | .inf true => (.nan, d.flags ||| fNV)
  | .fin true m _ => if m = 0 then (.fin false 0 0, d.flags) else (.nan, d.flags ||| fNV)
  | x => (x, d.flags)

/-- The allowance of one converted value (R227). -/
def VOp.allow (v : VOp) (e : Elem) : Val × U32 :=
  let d := decElem v.reads rne e
  let s : Int := (d.scale : Int) - 255
  match d.v with
  | .inf _ => (.inf false, d.flags)
  | .fin _ m x =>
    match fmtOf d.fmt with
    | none => (.nan, d.flags)
    | some f =>
      let x := x - s
      let half : Int := if v.word.rnd.toNat % 8 = 0 then 1 else 0
      let mx := f.maxFin
      if v.word.rnd.getLsbD 3 && m ≠ 0 && leScaled m x mx.1 mx.2 && leScaled mx.1 mx.2 m x then (.inf false, d.flags)
      else
        let g : Int := match f with
          | .int _ _ => 0
          | .flt g => if m = 0 then g.emin else max g.emin ((m.log2 : Int) + x - ((g.p : Int) - 1))
        (.fin false 1 (g + s - half), d.flags)
  | _ => (.nan, d.flags)

/-- The result of a bound operation for row `r`, rounded upward to FP32. -/
def VOp.bound (v : VOp) (r : Nat) : Out :=
  let a := boundVal (v.ea.getD r {})
  let q : Val × U32 :=
    match v.opc with
    | 0x32 =>
      match ofF32 v.b.splat.toNat with
      | .nan => (.nan, fNV)
      | .inf true => (.nan, fNV)
      | .fin true m _ => if m = 0 then vmul a.1 (.fin false 0 0) else (.nan, fNV)
      | l => vmul a.1 l
    | 0x33 =>
      let al := ((v.eb.drop (r * v.cols)).take v.cols).map v.allow
      let m := al.foldl (fun (p : Val × U32) x => (vmax p.1 x.1, p.2 ||| x.2)) (.fin false 0 0, 0#32)
      let s := vadd false a.1 m.1
      (s.1, m.2 ||| s.2)
    | _ =>
      let b := boundVal (v.eb.getD r {})
      let s := vadd false a.1 b.1
      (s.1, b.2 ||| s.2)
  let x := rndVal fp32 rup q.1
  (x.1, 0x44FF#16, a.2 ||| q.2 ||| x.2)

/-! ## Results of a chunk and of a whole operation -/

/-- The operation writes its result chunk by chunk (R209). -/
def vxChunked (opc : Nat) : Bool := opc ≤ 0x13 || opc = 0x19 || vxSpecial opc || opc = 0x31 || opc = 0x36

/-- Numbers results from an element on. -/
def numbered (first : Nat) (os : List Out) : List Res × U32 :=
  (os.mapIdx (fun i o => (first + i, o.1, o.2.1)), os.foldl (fun a o => a ||| o.2.2) 0#32)

/-- The element that stands for an operand a word does not have: raw bits with unity scale (R214). -/
def noElem : Elem := { tag := dtOn }

/-- The results of chunk `j` of an operation that writes chunk by chunk; `lo` is the first element of A that is ready
with those of the chunk. -/
def VOp.chunkResult (v : VOp) (free : Nat) (j lo : Nat) : List Res × U32 :=
  let (first, n) := v.chunkElems j
  let el (l : List Elem) (i : Nat) : Elem := l.getD (first + i) noElem
  if v.opc = 0x31 then numbered first (v.convert (Config.freeWord (free + first)) first n lo (v.ea.drop lo))
  else
    numbered first ((List.range n).map (fun i =>
      let fr := Config.freeWord (free + first + i)
      if v.opc = 0x19 then v.number fr (if v.maskIn.getLsbD (first + i) then 1 else 0)
      else if vxArith v.opc then v.arith (first + i) (el v.ea i) (el v.eb i) (el v.ed i)
      else v.copy fr (first + i) (el v.ea i) (el v.eb i)))

/-- The elements of row `r`. -/
def VOp.row (v : VOp) (l : List Elem) (r : Nat) : List Elem := (l.drop (r * v.cols)).take v.cols

/-- The scatter of R223: the bits of D after every element of A went to its place in turn. -/
def VOp.scatter (v : VOp) (free : U64) : List Nat :=
  (List.range v.count).foldl (fun (d : List Nat) e =>
    let idx := (copyElem v.width free (v.eb.getD e {})).1
    if idx < v.count then d.set idx (copyElem v.width free (v.ea.getD e {})).1 else d)
    ((List.range v.count).map (fun e => (copyElem v.width free (v.ed.getD e {})).1))

/-- The results of an operation that delivers a whole result (R209), masks apart. -/
def VOp.wholeResult (v : VOp) (free : Nat) : List Res × U32 :=
  let fr := Config.freeWord free
  let cp := (v.ea ++ v.eb ++ (if v.opc = 0x2F then v.ed else [])).foldl (fun a e => a ||| copyFlags e) 0#32
  let none' := !v.isInt && namedFmt v.width = 0
  match v.opc with
  | 0x1B =>
    let ones := ((List.range v.count).filter (fun e => v.maskIn.getLsbD e)).length
    numbered 0 ((List.range v.count).map (fun e => if e = 0 then v.number fr ones else v.number fr 0))
  | 0x2C =>
    if none' then numbered 0 ((List.range v.count).map (fun _ => poisonOut fFMT))
    else numbered 0 ((List.range v.rows).flatMap (fun r => v.scanRow (r * v.cols) (v.row v.ea r)))
  | 0x2D =>
    let t := copyTag v.width fr (v.ea.getD 0 {}) noElem
    ((List.range v.count).map (fun o =>
      (o, (copyElem v.width fr (v.ea.getD (o % v.rows * v.cols + o / v.rows) {})).1, t)), cp)
  | 0x2E =>
    ((List.range v.count).map (fun e =>
      let idx := (copyElem v.width fr (v.eb.getD e {})).1
      (e, (if idx < v.count then (copyElem v.width fr (v.ea.getD idx {})).1 else 0),
        copyTag v.width fr (v.ea.getD e {}) (v.eb.getD e {}))), cp)
  | 0x2F =>
    ((v.scatter fr).mapIdx (fun e b => (e, b, copyTag v.width fr (v.ea.getD e {}) (v.eb.getD e {}))), cp)
  | 0x32 | 0x33 | 0x34 => numbered 0 ((List.range v.rows).map v.bound)
  | _ =>
    if none' then numbered 0 ((List.range v.rows).map (fun _ => poisonOut fFMT))
    else numbered 0 ((List.range v.rows).map (fun r =>
      if v.isInt then v.rowI r (v.row v.ea r) (v.row v.eb r) else v.rowF r (v.row v.ea r) (v.row v.eb r)))

end Sys2Proof.Machine
end

