-- ==== Sys2Proof/Machine/Vx.lean ====
section
/-!
DEFINITION. Issue of the vector operations `vx` (spec/07 R204-R210, spec/04 R126): occupancy, the checks that
stop a bundle, what the operands capture, and the operation put in flight.
-/
namespace Sys2Proof.Machine

open Sys2Proof

/-! ## The shape of an operation -/

/-- The latency per chunk (R126). -/
def vxLat (opc : Nat) : Nat :=
  if opc = 0x05 || vxSpecial opc then 12 else if 0x28 ≤ opc && opc ≤ 0x30 then 8 else if opc = 0x35 then 1 else 4

/-- A bound operation (R225). -/
def vxBound (opc : Nat) : Bool := 0x32 ≤ opc && opc ≤ 0x34

/-- D is a source as well (R208). -/
def vxReadsD (opc : Nat) : Bool := (0x10 ≤ opc && opc ≤ 0x12) || opc = 0x36 || opc = 0x2F

/-- One result per row, the first elements of D (R219, R221). -/
def vxPerRow (opc : Nat) : Bool := (0x28 ≤ opc && opc ≤ 0x2B) || opc = 0x30

/-- The operation writes a mask (R216, R217). -/
def vxToMask (opc : Nat) : Bool := (0x14 ≤ opc && opc ≤ 0x18) || opc = 0x1A

/-- The operation reads a mask. -/
def vxFromMask (opc : Nat) : Bool := opc = 0x13 || opc = 0x19 || opc = 0x1B

/-- The operation copies bits and carries tags (R214, R222, R223). -/
def vxCopies (opc : Nat) : Bool :=
  opc = 0 || (0x0A ≤ opc && opc ≤ 0x0F) || opc = 0x13 || (0x2D ≤ opc && opc ≤ 0x2F)

/-- The operation carries the tags of A to its destination: a bit copy, or `vx.cvt` to a raw target. -/
def VOp.carries (v : VOp) : Bool :=
  vxCopies v.opc || (v.opc = 0x31 && v.b.splat.toNat % 128 = 0 && !(cvtFaulty v.width v.b.splat))

/-- The operation reads its operands as numbers (R52): only such a read can consume poison. -/
def VOp.numeric (v : VOp) : Bool :=
  !v.carries && !(v.opc = 0x19) && !(v.opc = 0x1B) && !(vxToMask v.opc && v.word.opm.getLsbD 3)

/-- The layout of a bound vector (R225). -/
def boundLay (rows : Nat) : Lay := { rows := rows, cols := 1, width := 4 }

/-- Layouts of the operands A, B and D (R204, R224, R225). -/
def VOp.layA (v : VOp) : Lay :=
  if vxBound v.opc then boundLay v.rows else { rows := v.rows, cols := v.cols, width := v.srcWidth }
def VOp.layB (v : VOp) : Lay :=
  if v.opc = 0x34 then boundLay v.rows else { rows := v.rows, cols := v.cols, width := v.width }
def VOp.layD (v : VOp) : Lay :=
  if vxBound v.opc then boundLay v.rows else { rows := v.rows, cols := v.cols, width := v.width }

/-- Elements of A, of B and of the result. -/
def VOp.countA (v : VOp) : Nat := if v.word.a.space = 0#3 then 0 else if vxBound v.opc then v.rows else v.count
def VOp.countB (v : VOp) : Nat := if v.word.b.space = 0#3 then 0 else if v.opc = 0x34 then v.rows else v.count
def VOp.countD (v : VOp) : Nat :=
  if v.word.d.space = 0#3 then 0 else if vxBound v.opc || vxPerRow v.opc then v.rows else v.count

/-- The operation as its word, the shape and the registers give it, with nothing read yet. -/
def Core.vop (c : Core) (opc : Nat) (w : VWord) : VOp :=
  let b := c.opSrc w.b
  let width := shWidth c.vshape
  let sw := if opc = 0x31 then cvtWidth width b.splat else width
  let rows := shRows c.vshape
  let cols := shCols c.vshape
  { opc := opc, word := w, rows := rows, cols := cols, width := width, srcWidth := sw,
    chunks := ceilDiv (rows * cols * max sw width) 256, lat := vxLat opc, age := 0,
    a := c.opSrc w.a, b := b, d := c.opSrc w.d }

/-! ## Checks at issue -/

/-- A unit is occupied while an earlier operation has chunks to read (R31). -/
def Core.vxBusy (c : Core) (u : Bool) : Bool := c.pipe.vops.any (fun v => v.word.u = u && v.age < v.chunks)

/-- The first byte of a space-4 operand that is refused with WIN, if any (R210). -/
def winByte (t : Team) (store : Bool) (x : OpSrc) (l : Lay) (n : Nat) : Option Nat :=
  if x.spec.space ≠ 4#3 then none
  else
    ((List.range n).find? (fun e => localRefusal t store (x.elemAddr l e) l.width = 1#8)).map
      (fun e => firstRefused t store (x.elemAddr l e) l.width)

/-- The first byte refused among the operands A, B and D in that order, elements in ascending order (R210). -/
def VOp.winByte (v : VOp) (t : Team) : Option Nat :=
  (Machine.winByte t false v.a v.layA v.countA).orElse fun _ =>
    (Machine.winByte t false v.b v.layB v.countB).orElse fun _ => Machine.winByte t true v.d v.layD v.countD

/-- The first of `n` elements that the handle of an operand does not refuse although it permits neither the read nor
the write it is used for: its byte offset (R210; R168 tests the size before the permission). -/
def permByte (x : OpSrc) (l : Lay) (n : Nat) (rd wr : Bool) : Option Nat :=
  let viaHandle := x.spec.space = 5#3 || (x.pop.map ZPop.handle).getD false
  if viaHandle && ((rd && !(hPr x.hand)) || (wr && !(hPw x.hand))) then
    ((List.range n).find? (fun e => !(handleRefuses x.hand (x.elemAddr l e) l.width))).map (x.elemAddr l)
  else none

/-- The byte offset of the first of the operands A, B and D in space 5 whose permission fails. -/
def VOp.permByte (v : VOp) : Option Nat :=
  (Machine.permByte v.a v.layA v.countA true false).orElse fun _ =>
    (Machine.permByte v.b v.layB v.countB true false).orElse fun _ =>
      Machine.permByte v.d v.layD v.countD (vxReadsD v.opc) true

/-- A destination behind the handle of a migrating page (R23, R168). -/
def State.migratingD (s : State) (v : VOp) : Bool :=
  v.d.spec.space = 5#3 && hV v.d.hand && hRsd v.d.hand && s.migrating s.myCluster.info.launch v.d.hand

/-! ## Taking operands -/

/-- An operand taken at issue: the state, the source with a stream's place or the pop of a queue, the elements
captured already, and the accesses issued. -/
structure Taken where
  s : State
  x : OpSrc
  es : List Elem := []
  ids : List Nat := []

/-- Opens the pop of a queue for an operand of `n` elements (R181): the formats and the mode are those of the queue
now; the bytes are taken chunk by chunk (R209). -/
def State.openPop (s : State) (x : OpSrc) (l : Lay) (n : Nat) : OpSrc :=
  let q := sget {} s.me.units.q (x.spec.index.toNat % 16)
  { x with qpop := some { fi := q.fi, fo := q.fo, md := q.md, left := n * l.width } }

/-- Advances a stream by one pop (R185): the place of the vector and the operators to apply. -/
def State.popStream (s : State) (x : OpSrc) : State × OpSrc :=
  let k := x.spec.index.toNat % 8
  match slook s.me.units.z k with
  | none => (s, { x with pop := some { bound := false, handle := false, ops := [] } })
  | some z =>
    (s.updMe (fun c => { c with units := { c.units with z := sins k z.advance c.units.z } }),
      { x with addr := z.place, hand := z.hand, pop := some { bound := true, handle := z.handle, ops := z.ops } })

/-- Takes a source operand at issue: opens the pop of a queue, pops a stream, issues the loads of a handle, repeats a splat;
what is read chunk by chunk is captured later (R207, R209). -/
def State.takeOp (s : State) (x : OpSrc) (l : Lay) (n : Nat) (cls : BitVec 4) : Taken :=
  let viaHandle (s : State) (x : OpSrc) : Taken :=
    match permByte x l n true false with
    | some a => { s := s.raise 6 2 (BitVec.ofNat 64 a), x := x }
    | none =>
      let r := s.loadHandle x l n cls
      { s := r.1, x := x, es := r.2.1, ids := r.2.2 }
  match x.spec.space.toNat with
  | 2 => { s := s, x := s.openPop x l n }
  | 3 =>
    let p := s.popStream x
    if (p.2.pop.map ZPop.handle).getD false then viaHandle p.1 p.2 else { s := p.1, x := p.2 }
  | 5 => viaHandle s x
  | 7 => { s := s, x := x, es := List.replicate n { kind := .splat, bits := x.splat.toNat } }
  | _ => { s := s, x := x }

/-- The stores of a destination behind a handle, one per block touched by accepted elements, in ascending
order; they wait for their bytes (R318). -/
def State.openStores (s : State) (v : VOp) : State × List (Nat × Nat) :=
  if v.d.spec.space = 5#3 then
    (handleKeys v.d v.layD v.countD).foldl (fun (p : State × List (Nat × Nat)) k =>
      (p.1.addAccess v.word.cls (.mem (hAddr v.d.hand (64 * k) / 64)) (.store [] none) false, p.2 ++ [(k, p.1.nextAcc)]))
      (s, [])
  else (s, [])

/-- An operand behind a handle, or a stream through one: every latency rises by 636 (R209). -/
def viaHandle (x : OpSrc) : Bool := x.spec.space = 5#3 || (x.pop.map ZPop.handle).getD false

/-- Steps the converter of the unit once per chunk of an operation that rounds (R211). DESIGN CHOICE: the rule does not say in
which cycle the step for chunk j is made; all are made at issue, so a `sys.seed` in a later cycle of the operation reaches
none of its chunks (log entry 84). -/
def Core.stepVx (c : Core) (v : VOp) : Core × List U32 :=
  if vxRounds v.opc then
    let k := if v.word.u then 17 else 16
    let xs := stepStates v.chunks (sget 0#32 c.units.conv k)
    ({ c with units := { c.units with conv := sset 0#32 c.units.conv k (xs.getLastD (sget 0#32 c.units.conv k)) } }, xs)
  else (c, [])

/-- Puts a checked operation in flight: operands A, B, D in order, then the stores and the converter. -/
def State.startVx (s : State) (v : VOp) : State :=
  let a := s.takeOp v.a v.layA v.countA v.word.cls
  let b := a.s.takeOp v.b v.layB v.countB v.word.cls
  let d : Taken := if vxReadsD v.opc then b.s.takeOp v.d v.layD v.count v.word.cls else { s := b.s, x := v.d }
  let st := d.s.openStores v
  let slow := viaHandle a.x || viaHandle b.x || viaHandle d.x
  st.1.updMe (fun c =>
    let k := c.stepVx v
    let v := { v with
      a := a.x, b := b.x, d := d.x, ea := a.es, eb := b.es, ed := d.es, conv := k.2
      lat := if slow then v.lat + 636 else v.lat
      ids := a.ids ++ b.ids ++ d.ids, stores := st.2 }
    { k.1 with pipe := { k.1.pipe with vops := k.1.pipe.vops ++ [v] } })

/-- A vector word (R204-R211): nothing under a false guard; a trigger into an occupied unit is UNIT_BUSY; a
WIN refusal may fault; a handle without permission faults; a store to a migrating page stalls. -/
def vxIssue (opc : Nat) (w : VWord) (s : State) : Host.Outcome State Fault Refusal :=
  if !(s.me.guard w.g w.n) then .next s
  else if s.me.vxBusy w.u then .next (s.timing 0)
  else
    let v := s.me.vop opc w
    let tm := s.myCluster.info
    match v.winByte tm, s.myCluster.fenOr 0 with
    | some a, true => .next (s.raise 4 0 (BitVec.ofNat 64 a))
    | _, _ =>
      match v.permByte with
      | some a => .next (s.raise 6 2 (BitVec.ofNat 64 a))
      | none => if s.migratingD v then .next s.askStall else .next (s.startVx v)

/-- A value of `vshape` that R205 accepts. -/
def shapeOk (v : U32) : Bool :=
  v.toNat < 2 ^ 19 && !(v.getLsbD 7) && field v.toNat 17 2 ≠ 3 && 1 ≤ shRows v && shRows v ≤ 64 &&
    1 ≤ shCols v && shCols v ≤ 256 && shRows v * shCols v * shWidth v ≤ 4096

/-- `vx.shape`: sets `vshape` at the end of the cycle; an invalid value is VSHAPE (R205). -/
def execVxShape (w : VWord) (s : State) : Host.Outcome State Fault Refusal :=
  if !(s.me.guard w.g w.n) then .next s
  else if s.me.vxBusy w.u then .next (s.timing 0)
  else
    let v := s.me.sreg w.a.index.toNat
    if shapeOk v then .next (s.updMe (fun c => c.atEnd (.vshape v))) else .next (s.timing 13)

/-- `vx.mov` (R214). -/
def execVxMov (w : VWord) (s : State) : Host.Outcome State Fault Refusal := vxIssue 0x00 w s

/-- `vx.add` (R212). -/
def execVxAdd (w : VWord) (s : State) : Host.Outcome State Fault Refusal := vxIssue 0x01 w s

/-- `vx.sub` (R212). -/
def execVxSub (w : VWord) (s : State) : Host.Outcome State Fault Refusal := vxIssue 0x02 w s

/-- `vx.mul` (R212). -/
def execVxMul (w : VWord) (s : State) : Host.Outcome State Fault Refusal := vxIssue 0x03 w s

/-- `vx.mulz` (R66, R212). -/
def execVxMulz (w : VWord) (s : State) : Host.Outcome State Fault Refusal := vxIssue 0x04 w s

/-- `vx.div` (R58, R212, R213). -/
def execVxDiv (w : VWord) (s : State) : Host.Outcome State Fault Refusal := vxIssue 0x05 w s

/-- `vx.min` (R68, R212). -/
def execVxMin (w : VWord) (s : State) : Host.Outcome State Fault Refusal := vxIssue 0x06 w s

/-- `vx.max` (R68, R212). -/
def execVxMax (w : VWord) (s : State) : Host.Outcome State Fault Refusal := vxIssue 0x07 w s

/-- `vx.abs` (R212). -/
def execVxAbs (w : VWord) (s : State) : Host.Outcome State Fault Refusal := vxIssue 0x08 w s

/-- `vx.neg` (R212). -/
def execVxNeg (w : VWord) (s : State) : Host.Outcome State Fault Refusal := vxIssue 0x09 w s

/-- `vx.and` (R214). -/
def execVxAnd (w : VWord) (s : State) : Host.Outcome State Fault Refusal := vxIssue 0x0A w s

/-- `vx.or` (R214). -/
def execVxOr (w : VWord) (s : State) : Host.Outcome State Fault Refusal := vxIssue 0x0B w s

/-- `vx.xor` (R214). -/
def execVxXor (w : VWord) (s : State) : Host.Outcome State Fault Refusal := vxIssue 0x0C w s

/-- `vx.shl` (R215). -/
def execVxShl (w : VWord) (s : State) : Host.Outcome State Fault Refusal := vxIssue 0x0D w s

/-- `vx.shr` (R215). -/
def execVxShr (w : VWord) (s : State) : Host.Outcome State Fault Refusal := vxIssue 0x0E w s

/-- `vx.sar` (R215). -/
def execVxSar (w : VWord) (s : State) : Host.Outcome State Fault Refusal := vxIssue 0x0F w s

/-- `vx.fma` (R212). -/
def execVxFma (w : VWord) (s : State) : Host.Outcome State Fault Refusal := vxIssue 0x10 w s

/-- `vx.fms` (R212). -/
def execVxFms (w : VWord) (s : State) : Host.Outcome State Fault Refusal := vxIssue 0x11 w s

/-- `vx.fnma` (R212). -/
def execVxFnma (w : VWord) (s : State) : Host.Outcome State Fault Refusal := vxIssue 0x12 w s

/-- `vx.sel` (R214). -/
def execVxSel (w : VWord) (s : State) : Host.Outcome State Fault Refusal := vxIssue 0x13 w s

/-- `vx.ceq` (R216). -/
def execVxCeq (w : VWord) (s : State) : Host.Outcome State Fault Refusal := vxIssue 0x14 w s

/-- `vx.cne` (R216). -/
def execVxCne (w : VWord) (s : State) : Host.Outcome State Fault Refusal := vxIssue 0x15 w s

/-- `vx.clt` (R216). -/
def execVxClt (w : VWord) (s : State) : Host.Outcome State Fault Refusal := vxIssue 0x16 w s

/-- `vx.cle` (R216). -/
def execVxCle (w : VWord) (s : State) : Host.Outcome State Fault Refusal := vxIssue 0x17 w s

/-- `vx.cnan` (R216). -/
def execVxCnan (w : VWord) (s : State) : Host.Outcome State Fault Refusal := vxIssue 0x18 w s

/-- `vx.mget` (R217). -/
def execVxMget (w : VWord) (s : State) : Host.Outcome State Fault Refusal := vxIssue 0x19 w s

/-- `vx.mput` (R217). -/
def execVxMput (w : VWord) (s : State) : Host.Outcome State Fault Refusal := vxIssue 0x1A w s

/-- `vx.mcnt` (R217). -/
def execVxMcnt (w : VWord) (s : State) : Host.Outcome State Fault Refusal := vxIssue 0x1B w s

/-- `vx.exp2` (R218). -/
def execVxExp2 (w : VWord) (s : State) : Host.Outcome State Fault Refusal := vxIssue 0x1C w s

/-- `vx.log2` (R218). -/
def execVxLog2 (w : VWord) (s : State) : Host.Outcome State Fault Refusal := vxIssue 0x1D w s

/-- `vx.rcp` (R218). -/
def execVxRcp (w : VWord) (s : State) : Host.Outcome State Fault Refusal := vxIssue 0x1E w s

/-- `vx.rsqrt` (R218). -/
def execVxRsqrt (w : VWord) (s : State) : Host.Outcome State Fault Refusal := vxIssue 0x1F w s

/-- `vx.sqrt` (R218). -/
def execVxSqrt (w : VWord) (s : State) : Host.Outcome State Fault Refusal := vxIssue 0x20 w s

/-- `vx.exp` (R218). -/
def execVxExp (w : VWord) (s : State) : Host.Outcome State Fault Refusal := vxIssue 0x21 w s

/-- `vx.tanh` (R218). -/
def execVxTanh (w : VWord) (s : State) : Host.Outcome State Fault Refusal := vxIssue 0x22 w s

/-- `vx.sigm` (R218). -/
def execVxSigm (w : VWord) (s : State) : Host.Outcome State Fault Refusal := vxIssue 0x23 w s

/-- `vx.silu` (R218). -/
def execVxSilu (w : VWord) (s : State) : Host.Outcome State Fault Refusal := vxIssue 0x24 w s

/-- `vx.gelu` (R218). -/
def execVxGelu (w : VWord) (s : State) : Host.Outcome State Fault Refusal := vxIssue 0x25 w s

/-- `vx.sin` (R218). -/
def execVxSin (w : VWord) (s : State) : Host.Outcome State Fault Refusal := vxIssue 0x26 w s

/-- `vx.cos` (R218). -/
def execVxCos (w : VWord) (s : State) : Host.Outcome State Fault Refusal := vxIssue 0x27 w s

/-- `vx.rsum` (R219). -/
def execVxRsum (w : VWord) (s : State) : Host.Outcome State Fault Refusal := vxIssue 0x28 w s

/-- `vx.rmax` (R219). -/
def execVxRmax (w : VWord) (s : State) : Host.Outcome State Fault Refusal := vxIssue 0x29 w s

/-- `vx.rmin` (R219). -/
def execVxRmin (w : VWord) (s : State) : Host.Outcome State Fault Refusal := vxIssue 0x2A w s

/-- `vx.rmaxi` (R219). -/
def execVxRmaxi (w : VWord) (s : State) : Host.Outcome State Fault Refusal := vxIssue 0x2B w s

/-- `vx.scan` (R220). -/
def execVxScan (w : VWord) (s : State) : Host.Outcome State Fault Refusal := vxIssue 0x2C w s

/-- `vx.trn` (R222). -/
def execVxTrn (w : VWord) (s : State) : Host.Outcome State Fault Refusal := vxIssue 0x2D w s

/-- `vx.gth` (R223). -/
def execVxGth (w : VWord) (s : State) : Host.Outcome State Fault Refusal := vxIssue 0x2E w s

/-- `vx.sct` (R223). -/
def execVxSct (w : VWord) (s : State) : Host.Outcome State Fault Refusal := vxIssue 0x2F w s

/-- `vx.dot` (R221). -/
def execVxDot (w : VWord) (s : State) : Host.Outcome State Fault Refusal := vxIssue 0x30 w s

/-- `vx.cvt` (R224). -/
def execVxCvt (w : VWord) (s : State) : Host.Outcome State Fault Refusal := vxIssue 0x31 w s

/-- `vx.bnd.lip` (R226). -/
def execVxBndLip (w : VWord) (s : State) : Host.Outcome State Fault Refusal := vxIssue 0x32 w s

/-- `vx.bnd.cvt` (R227). -/
def execVxBndCvt (w : VWord) (s : State) : Host.Outcome State Fault Refusal := vxIssue 0x33 w s

/-- `vx.bnd.add` (R228). -/
def execVxBndAdd (w : VWord) (s : State) : Host.Outcome State Fault Refusal := vxIssue 0x34 w s

/-- `vx.clamp` (R212). -/
def execVxClamp (w : VWord) (s : State) : Host.Outcome State Fault Refusal := vxIssue 0x36 w s

end Sys2Proof.Machine
end

