-- ==== Sys2Proof/Machine/Chunks.lean ====
section
/-!
DEFINITION. Operations in flight over chunks: reading the chunk of a cycle, and delivering the chunk that
completes (spec/01 R31, spec/07 R207-R209, spec/06 R161, R169), for the vector units and the vector forms of
`ls`. Every function acts on the stream `s.cur`.
-/
namespace Sys2Proof.Machine

open Sys2Proof

/-! ## Vector units: reading -/

/-- An operand that is read chunk by chunk in its own cycle (R209). -/
def OpSrc.perChunk (x : OpSrc) : Bool :=
  match x.spec.space.toNat with
  | 1 | 4 | 6 => true
  | 3 => !((x.pop.map ZPop.handle).getD false)
  | _ => false

/-- Reads chunk `j` of an operand of `n` elements. -/
def State.readChunk (s : State) (v : VOp) (x : OpSrc) (l : Lay) (n j : Nat) : List Elem :=
  if n = 0 || !x.perChunk then []
  else
    let t := s.myCluster.info
    if n = v.rows && l = boundLay v.rows then (if j = 0 then s.readElems t s.me x l 0 n else [])
    else s.readElems t s.me x l (v.chunkElems j).1 (v.chunkElems j).2

/-- The bits of a mask for the elements of chunk `j`. -/
def VOp.maskChunk (v : VOp) (m : BitVec 4096) (j : Nat) : BitVec 4096 :=
  m &&& BitVec.ofNat 4096 ((2 ^ (v.chunkElems j).2 - 1) * 2 ^ (v.chunkElems j).1)

/-- Reads chunk `j` of every source of an operation (R209). -/
def State.vxRead (s : State) (v : VOp) (j : Nat) : VOp :=
  let a := s.readChunk v v.a v.layA v.countA j
  let b := s.readChunk v v.b v.layB v.countB j
  let d := if vxReadsD v.opc then s.readChunk v v.d v.layD v.count j else []
  let m := if vxFromMask v.opc then v.maskChunk (sget 0#4096 s.me.masks (v.word.opm.toNat % 8)) j else 0#4096
  { v with ea := v.ea ++ a, eb := v.eb ++ b, ed := v.ed ++ d, maskIn := v.maskIn ||| m }

/-- The chunks from `j` on. -/
def chunksFrom (n j : Nat) : List Nat := (List.range (n - j)).map (j + ·)

/-- Bytes that chunk `j` of an operand of `n` elements pops from a queue: a bound vector is read whole with chunk 0. -/
def VOp.chunkBytes (v : VOp) (l : Lay) (n j : Nat) : Nat :=
  if n = v.rows && l = boundLay v.rows then (if j = 0 then n * l.width else 0)
  else (v.chunkElems j).2 * l.width

/-- The pops of a queue that earlier operands of the stream still have to take from it. -/
def popsOf (k : Nat) (xs : List OpSrc) : List QPop :=
  xs.filterMap (fun x => if x.spec.space = 2#3 && x.spec.index.toNat % 16 = k then x.qpop else none)

/-- Pops chunk `j` of an operand from its queue, behind the pops of `ahead` (R181, R209): the state, the operand, its
elements and the flags; none when too few bytes can be popped. In a capture (`all`) every byte counts, for the
operations that push them complete as well (R300). -/
def State.popChunk (s : State) (all : Bool) (ahead : List OpSrc) (v : VOp) (x : OpSrc) (l : Lay) (n j : Nat) :
    Option (State × OpSrc × List Elem × U32) :=
  match x.qpop with
  | none => some (s, x, [], 0#32)
  | some p =>
    let k := x.spec.index.toNat % 16
    let u := s.me.units
    let q := sget {} u.q k
    let ready := if all then q.lines else q.ready
    if j < p.next || v.chunkBytes l n j = 0 then some (s, x, [], 0#32)
    else
      (p.chunk q (popsOf k ahead) ready (sget 0#32 u.conv k) (v.chunkBytes l n j)).map (fun r =>
        (s.updMe (fun c => { c with units := { c.units with
            q := sset {} c.units.q k { q with lines := r.1.lines ++ q.lines.drop ready.length }
            conv := sset 0#32 c.units.conv k r.1.conv } }),
          { x with qpop := some r.2 }, elemsOf l.width r.1.bytes, r.1.flags))

/-- What a pop that finds too few bytes asks for: a stall where a stage queue feeds the queue, else a timing fault
(R182). A capture leaves the pop for the cycle in which it is due. -/
def State.popShort (s : State) (all : Bool) (x : OpSrc) : State :=
  if all then s
  else if (sget {} s.me.units.q (x.spec.index.toNat % 16)).link ≠ 0 then s.askStall
  else s.timing 11

/-- Sets flags at an index of a list of flags, which grows as far as that. -/
def orAt (l : List U32) (j : Nat) (f : U32) : List U32 :=
  lmod (· ||| f) j (l ++ List.replicate (j + 1 - l.length) 0#32)

/-- Pops chunk `j` of the operands A and B of an operation that come from queues. -/
def State.vxPop (s : State) (all : Bool) (ahead : List OpSrc) (v : VOp) (j : Nat) : State × VOp :=
  match s.popChunk all ahead v v.a v.layA v.countA j with
  | none => (s.popShort all v.a, v)
  | some (s, a, ea, fa) =>
    let v := { v with a := a, ea := v.ea ++ ea, flags := orAt v.flags j fa }
    match s.popChunk all (ahead ++ [a]) v v.b v.layB v.countB j with
    | none => (s.popShort all v.b, v)
    | some (s, b, eb, fb) => (s, { v with b := b, eb := v.eb ++ eb, flags := orAt v.flags j fb })

/-- Reads the chunks of an operation that are due: with `all`, every chunk left (the capture of R300). -/
def State.vxStep (s : State) (all : Bool) (ahead : List OpSrc) (v : VOp) : State × VOp :=
  if v.chunks ≤ v.age then (s, v)
  else
    let js := if all then chunksFrom v.chunks v.age else [v.age]
    let v := if v.full then v else { js.foldl (fun v j => s.vxRead v j) v with full := all }
    js.foldl (fun p j => p.1.vxPop all ahead p.2 j) (s, v)

/-- The addresses in the parameter windows that chunk `j` of an operand of `n` elements reads. -/
def VOp.windowed (v : VOp) (x : OpSrc) (l : Lay) (n j : Nat) : List Nat :=
  if n = 0 then [] else if n = v.rows && l = boundLay v.rows then (if j = 0 then x.windowed l 0 n else [])
  else x.windowed l (v.chunkElems j).1 (v.chunkElems j).2

/-- The windows through which an operation reads in this cycle. -/
def State.vxWindows (s : State) (all : Bool) (v : VOp) : State :=
  if v.chunks ≤ v.age || v.full then s
  else
    let js := if all then chunksFrom v.chunks v.age else [v.age]
    s.windowsMet s.myCluster.info (js.flatMap (fun j => v.windowed v.a v.layA v.countA j ++ v.windowed v.b v.layB v.countB j ++
      (if vxReadsD v.opc then v.windowed v.d v.layD v.count j else [])))

/-- Reads in this cycle the chunk that is due of every operation of the stream, the earliest issued first. -/
def State.vxReads (s : State) (all : Bool) : State :=
  let r := s.me.pipe.vops.foldl (fun (p : State × List VOp) v =>
    let q := (p.1.vxWindows all v).vxStep all (p.2.flatMap (fun v => [v.a, v.b])) v
    (q.1, p.2 ++ [q.2])) (s, [])
  r.1.updMe (fun c => { c with pipe := { c.pipe with vops := r.2 } })

/-! ## Vector units: delivering -/

/-- The formats in which a stream reads the elements of an operand before its operators: those of a bound vector, of
the source of `vx.cvt`, or of the operation (R207, R224, R225). -/
def VOp.readsFor (v : VOp) (l : Lay) : Reads :=
  if vxBound v.opc && l = boundLay v.rows then boundReads
  else if v.opc = 0x31 then cvtReads v.srcWidth
  else { v.reads with w := l.width }

/-- The elements of a list from `first` on, `n` of them, with what memory brought and, for a stream, its
operators applied; with the flags of refusals among them. -/
def State.ready (s : State) (v : VOp) (x : OpSrc) (l : Lay) (free first n : Nat) (es : List Elem) : List Elem × U32 :=
  let part := ((es.drop first).take n).map s.resolve
  let r : List Elem × U32 :=
    match x.pop with
    | some p => zDeliver free (v.readsFor l) p.ops part
    | none => (part, 0#32)
  (es.take first ++ r.1 ++ es.drop (first + n), r.2 ||| refusedFlags part)

/-- The chunks that `vx.cvt` has read when it delivers chunk `j`: those up to three before and after it, where a
destination block can have elements of its own (R209; log entry 69). -/
def VOp.window (v : VOp) (j : Nat) : List Nat :=
  if v.opc = 0x31 then ((List.range 7).map (fun i => j + i - 3)).eraseDups.filter (fun i => i < v.chunks) else [j]

/-- Results of the delivery in chunk slot `j`: elements, a mask, and flags. -/
structure Made where
  res : List Res := []
  mask : Option (BitVec 4096) := none
  flags : U32 := 0#32

/-- The elements of operand A that `vx.cvt` has when it delivers chunk `j`, made ready chunk by chunk, with the flags of
that chunk. -/
def State.cvtReady (s : State) (v : VOp) (free j : Nat) : List Elem × U32 :=
  (v.window j).foldl (fun p i =>
    let c := v.chunkElems i
    let r := s.ready v v.a v.layA (free + 4096 * i) c.1 c.2 p.1
    (r.1, if i = j then p.2 ||| r.2 else p.2)) (v.ea, 0#32)

/-- The flags of the queue pops that go with the delivery of chunk `j` (R58): those of the chunk, or of every chunk for
an operation that delivers a whole result with its last. -/
def VOp.popFlags (v : VOp) (j : Nat) : U32 :=
  if vxChunked v.opc then v.flags.getD j 0#32
  else if j + 1 = v.chunks then v.flags.foldl (· ||| ·) 0#32 else 0#32

/-- Computes what the operation delivers for chunk `j`; `whole` operations deliver at the last. -/
def State.vxMake (s : State) (v : VOp) (free j : Nat) : Made :=
  let chunked := vxChunked v.opc
  if !chunked && j + 1 ≠ v.chunks then {}
  else
    let (first, n) := if chunked then v.chunkElems j else (0, v.count)
    let a := if v.opc = 0x31 then s.cvtReady v free j else s.ready v v.a v.layA free first n v.ea
    let b := s.ready v v.b v.layB (free + 2 ^ 20) first n v.eb
    let d := s.ready v v.d v.layD (free + 2 ^ 21) first n v.ed
    let lo := ((v.window j).head?.map (fun i => (v.chunkElems i).1)).getD first
    let v := { v with ea := a.1, eb := b.1, ed := d.1 }
    let fl := v.popFlags j ||| a.2 ||| b.2 ||| d.2
    if vxToMask v.opc then
      let m := v.mask (Config.freeWord (free + 2 ^ 22))
      { mask := some m.1, flags := fl ||| m.2 }
    else
      let r := if chunked then v.chunkResult (free + 2 ^ 22) j lo else v.wholeResult (free + 2 ^ 22)
      { res := r.1, flags := fl ||| r.2 }

/-- Places results in memory: refused elements are left out and set their flag (R210). -/
def placeRes (t : Team) (x : OpSrc) (l : Lay) (rs : List Res) : List (Nat × Nat × U16) × U32 :=
  rs.foldr (fun r p =>
    let a := x.elemAddr l r.1
    let st : BitVec 8 :=
      if x.spec.space = 5#3 then (if handleRefuses x.hand a l.width then 4#8 else 0#8)
      else localRefusal t true a l.width
    if st = 0#8 then ((a, r.2.1, r.2.2) :: p.1, p.2) else (p.1, p.2 ||| statusFlags st)) ([], 0#32)

/-- A later result touches a block. -/
def laterTouches (x : OpSrc) (l : Lay) (count from' block : Nat) : Bool :=
  (chunksFrom count from').any (fun e =>
    let a := x.elemAddr l e
    !(handleRefuses x.hand a l.width) && (a / 64 = block || (a + l.width - 1) / 64 = block))

/-- Adds the bytes of a line to a waiting store, whose descriptor is that of its lowest byte. -/
def AccOp.addLine (o : AccOp) (l : OutLine) : AccOp :=
  match o with
  | .store ws tag =>
    let f := l.final
    let lowest := ws.foldl (fun m w => min m w.1) 64
    .store (ws ++ f.ws) (if l.poison || l.low ≤ lowest || tag.isNone then some f.tag else tag)
  | o => o

/-- Changes a waiting access. -/
def State.updAcc (s : State) (id : Nat) (f : Access → Access) : State :=
  { s with acc := s.acc.map (fun a => if a.id = id then f a else a) }

/-- Writes the lines of a destination behind a handle into its waiting stores; those that no later element
touches become ready. -/
def State.storeLines (s : State) (v : VOp) (next : Nat) (ls : List OutLine) : State :=
  v.stores.foldl (fun s st =>
    let s := (ls.filter (fun l => l.line = st.1)).foldl (fun s l => s.updAcc st.2 (fun a => { a with op := a.op.addLine l })) s
    if laterTouches v.d v.layD v.countD next st.1 then s else s.updAcc st.2 (fun a => { a with ready := true })) s

/-- Appends to what the stream's operations delivered in this cycle. -/
def Core.note (c : Core) (ps : List Put) : Core := { c with pipe := { c.pipe with puts := c.pipe.puts ++ ps } }

/-- Pushes lines into a queue (R181, R182): too little room is Q_OVER; a queue linked to a stage queue has held the cluster
before. -/
def State.pushTo (s : State) (k : Nat) (ls : List (List Byte × U16)) : State :=
  let q := sget {} s.me.units.q k
  let n := ls.foldl (fun n l => n + l.1.length) 0
  if queueCap < q.held + n && q.link = 0 then s.timing 12
  else s.updMe (fun c => { c with units := { c.units with q := sset {} c.units.q k (q.push ls) } })

/-- What a delivery writes: the lines of a destination in a tile register or in memory, in the light of what the
operation has written before, the queue lines, and the flags of refused elements. -/
structure Writes where
  lines : List OutLine := []
  queue : List (List Byte × U16) := []
  flags : U32 := 0#32

/-- The lines that the results of a delivery make at the destination of an operation (R208, R210, R214). -/
def State.vxLines (s : State) (v : VOp) (m : Made) : Writes :=
  let carry := v.carries
  let w := v.layD.width
  let onto (ps : List (Nat × Nat × U16)) := (outLines w carry ps).map (fun l => l.onto v.lines)
  match v.word.d.space.toNat with
  | 1 => { lines := onto (m.res.map (fun r => (tileOff v.word.d v.layD r.1, r.2))) }
  | 2 => { queue := queueLines w carry m.res }
  | 4 | 5 =>
    let p := placeRes s.myCluster.info v.d v.layD m.res
    { lines := onto p.1, flags := p.2 }
  | _ => {}

/-- The bytes that the result port of a vector unit shows for a delivery (R31): those of the chunk, or of the mask. -/
def Made.bytes (m : Made) (w : Nat) : List Byte :=
  match m.mask with
  | some b => leBytes 512 b.toNat
  | none => m.res.flatMap (fun r => leBytes w r.2.1)

/-- Writes what an operation delivers to its destination and shows it in the unit's result port; `next` is the first
element not yet delivered. -/
def State.vxPut (s : State) (v : VOp) (next : Nat) (m : Made) (w : Writes) : State :=
  let i := v.word.d.index.toNat
  let s := match m.mask with
    | some b => s.updMe (fun c => c.note [.mask (v.word.opm.toNat % 8) b])
    | none => s
  if m.res.isEmpty && m.mask.isNone then s
  else
    let s := s.updMe (fun c => { c with vres := sset [] c.vres (if v.word.u then 1 else 0) (m.bytes v.layD.width) })
    match v.word.d.space.toNat with
    | 1 =>
      s.updMe (fun c => { c.note (w.lines.map (fun l => .tileTag (64 * (i % 32) + l.line) (l.final).tag)) with
        tile := putTile c.tile (4096 * (i % 32)) w.lines })
    | 2 => s.pushTo (i % 16) w.queue
    | 4 =>
      let ws := w.lines.flatMap (OutLine.locW (if v.word.u then 2 else 1) s.coreOf v.word.cls)
      (s.updMine (fun cl => { cl with endLoc := cl.endLoc ++ ws })).updMe (fun c => c.stickyNow w.flags)
    | 5 => (s.storeLines v next w.lines).updMe (fun c => c.stickyNow w.flags)
    | _ => s

/-- The bytes that an operation pushes into a queue in this cycle (R181, R209). -/
def VOp.pushes (v : VOp) (k : Nat) : Nat :=
  if v.word.d.space = 2#3 && v.word.d.index.toNat % 16 = k && v.lat ≤ v.age && v.age < v.lat + v.chunks then
    (if vxChunked v.opc then (v.chunkElems (v.age - v.lat)).2 else if v.age + 1 = v.lat + v.chunks then v.countD else 0) * v.layD.width
  else 0

/-- A queue linked to a stage queue has room for some bytes; an unlinked one raises Q_OVER at the push itself (R182). -/
def Core.linkRoom (c : Core) (k n : Nat) : Bool :=
  let q := sget {} c.units.q k
  q.link = 0 || n = 0 || q.held + n ≤ queueCap

/-- Operations push in this cycle into a queue linked to a stage queue more than it has room for: a stall until bytes have
passed on (R182). -/
def Core.pushLate (c : Core) : Bool :=
  (List.range 16).any (fun k => !(c.linkRoom k ((c.pipe.vops.map (fun v => v.pushes k)).foldl (· + ·) 0)))

/-- The accesses whose replies the delivery of chunk `j` needs. -/
def VOp.needs (v : VOp) (j : Nat) : List Nat :=
  if vxChunked v.opc then
    (v.window j).flatMap (fun i =>
      let (first, n) := v.chunkElems i
      [v.ea, v.eb, v.ed].flatMap (fun es => ((es.drop first).take n).flatMap (fun e => e.mem.map (·.1))))
  else if j + 1 = v.chunks then v.ids else []

/-- A store of the operation stands ready in the buffers: it should have performed by now (R209). -/
def State.storesLate (s : State) (v : VOp) : Bool :=
  v.stores.any (fun st => s.acc.any (fun a => a.id = st.2 && a.ready))

/-- The operation needs a reply in this cycle that has not come (R26). -/
def State.vxLate (s : State) (v : VOp) : Bool :=
  (v.lat ≤ v.age && v.age < v.lat + v.chunks && !(s.allArrived (v.needs (v.age - v.lat)))) || s.storesLate v

/-- A fault on consumed poison, taken after the result that consumed it has been delivered (R52, R298). -/
def State.poisonRead (s : State) (b : Bool) : State := if b && s.myCluster.fenOr 1 then s.raise 8 0 0#64 else s

/-- Delivers what an operation completes in this cycle; the operation notes what it has written. -/
def State.vxDeliver (s : State) (pos : Nat) (v : VOp) : State × VOp :=
  if v.lat ≤ v.age && v.age < v.lat + v.chunks then
    let j := v.age - v.lat
    let m := s.vxMake v (s.freeAt (1 + if v.word.u then 1 else 0) (pos * 2 ^ 24)) j
    let next := if vxChunked v.opc then (v.chunkElems j).1 + (v.chunkElems j).2 else v.countD
    let w := s.vxLines v m
    let s := s.vxPut v (min next v.countD) m w
    let s := s.updMe (fun c => c.stickyNow m.flags)
    (s.poisonRead ((v.popFlags j &&& fPOI) != 0#32 || (v.numeric && (m.flags &&& fPOI) != 0#32)), { v with lines := noteLines v.lines w.lines })
  else (s, v)

/-- The operation has nothing left to do, and its last chunk stands written. -/
def State.vxDone (s : State) (v : VOp) : Bool :=
  v.lat + v.chunks ≤ v.age && v.stores.all (fun st => (s.arrivedReply st.2).isSome)

/-- Delivers the chunks of all operations of the stream, the earliest issued first, and drops those that are
done. -/
def State.vxDelivers (s : State) : State :=
  let r := (s.me.pipe.vops.zipIdx).foldl (fun (p : State × List VOp) x =>
    let q := p.1.vxDeliver x.2 x.1
    (q.1, p.2 ++ [q.2])) (s, [])
  let gone := r.2.filter r.1.vxDone
  (r.1.dropReplies (gone.flatMap (fun v => v.ids ++ v.stores.map (·.2)))).updMe (fun c =>
    { c with pipe := { c.pipe with vops := r.2.filter (fun v => !(r.1.vxDone v)) } })

/-! ## Vector forms of `ls` -/

/-- Reads chunk `j` of a local load or of the tile register of a store (R161). -/
def State.lsRead (s : State) (x : LsVec) (j : Nat) : LsVec :=
  let c := s.me
  let t := s.myCluster.info
  let (first, n) := x.chunk j
  let es := (List.range n).map (fun i =>
    let e := first + i
    if x.store then
      let a := 4096 * x.reg + e * x.width
      ({ bits := leNat (c.tile.bytes a x.width), tag := c.tile.tag dtOn a } : Elem)
    else if x.refused.getLsbD e then { kind := .refused }
    else if x.handle then
      let a := x.addr + e * x.width
      { mem := (splitLines a x.width).map (fun q =>
          (((x.ids.find? (fun i => i.2.1 = 64 * q.1)).map (fun i => i.2.2)).getD 0, q.2.1, q.2.2)) }
    else
      let a := x.addr + e * x.width
      { bits := leNat (s.localBytes t c a x.width), tag := s.localTag t c a,
        hi := (tagStatus (s.localTags t c a x.width)).setWidth 32 })
  { x with elems := x.elems ++ es }

/-- The line of a store's data that goes to the block at `64·b` of its space: the bytes of accepted elements of
the elements read so far, and the descriptor of the tile line that supplies the block's first byte. -/
def LsVec.blockOut (x : LsVec) (b : Nat) : List (Nat × Byte) × U16 :=
  let at' (i : Nat) : Option (Byte × U16) :=
    let off := 64 * b + i
    if off < x.addr then none
    else
      let k := off - x.addr
      let e := k / x.width
      if x.refused.getLsbD e then none
      else (x.elems[e]?).map (fun el => (BitVec.ofNat 8 (el.bits / 256 ^ (k % x.width)), el.tag))
  let bs := (List.range 64).filterMap (fun i => (at' i).map (fun p => (i, p)))
  (bs.map (fun p => (p.1, p.2.1)), (bs.head?.map (fun p => p.2.2)).getD dtOn)

/-- Scratchpad writes of chunk `j` of a local store, at the end of the cycle; a block that the access covers
takes its descriptor with its last bytes (R161, R51). -/
def LsVec.locWrites (x : LsVec) (core j : Nat) : List LocW :=
  let (first, n) := x.chunk j
  let lo := x.addr + first * x.width
  let bytes := ((List.range n).filter (fun i => !(x.refused.getLsbD (first + i)))).map (fun i =>
    let e := first + i
    ({ prio := 0, core := core, addr := x.addr + e * x.width,
       bytes := leBytes x.width (x.elems.getD e {}).bits, cls := x.cls } : LocW))
  let ends := (splitLines lo (n * x.width)).filter (fun q => q.2.1 + q.2.2 = 64)
  let tags := ends.filterMap (fun q =>
    let o := x.blockOut q.1
    if whole o.1 then some ({ prio := 0, core := core, addr := 64 * q.1, bytes := [], tags := [(q.1, o.2)], cls := x.cls } : LocW) else none)
  bytes ++ tags

/-- What happens to a vector form in its read phase: the chunk of the cycle is read, and a store writes it
or makes the blocks ready whose last chunk it is. -/
def State.lsStep (s : State) (x : LsVec) (j : Nat) : State × LsVec :=
  let s := if x.store || x.handle then s
    else s.windowsMet s.myCluster.info ((List.range (x.chunk j).2).map (fun i => x.addr + ((x.chunk j).1 + i) * x.width))
  let y := s.lsRead x j
  if !x.store then (s, y)
  else if x.handle then
    (x.ids.foldl (fun s i =>
      if i.1 = j then
        let o := y.blockOut (i.2.1 / 64)
        s.updAcc i.2.2 (fun a => { a with op := .store o.1 (some o.2), ready := true })
      else s) s, y)
  else (s.updMine (fun cl => { cl with endLoc := cl.endLoc ++ y.locWrites s.coreOf j }), y)

/-- The read phase of the vector forms; with `all`, every chunk left. -/
def State.lsReads (s : State) (all : Bool) : State :=
  let xs := s.me.pipe.lsv
  let r := xs.foldl (fun (p : State × List LsVec) x =>
    let js := if x.full || x.chunks ≤ x.age then [] else if all then chunksFrom x.chunks x.age else [x.age]
    let q := js.foldl (fun (q : State × LsVec) j => q.1.lsStep q.2 j) (p.1, x)
    (q.1, p.2 ++ [{ q.2 with full := q.2.full || all }])) (s, [])
  r.1.updMe (fun c => { c with pipe := { c.pipe with lsv := r.2 } })

/-- The accesses whose replies the delivery of chunk `j` needs. -/
def LsVec.needs (x : LsVec) (j : Nat) : List Nat :=
  if x.store then (if j + 1 = x.chunks then x.ids.map (fun i => i.2.2) else [])
  else
    let (first, n) := x.chunk j
    ((x.elems.drop first).take n).flatMap (fun e => e.mem.map (·.1))

/-- The form needs a reply in this cycle that has not come (R26). -/
def State.lsLate (s : State) (x : LsVec) : Bool :=
  x.lat ≤ x.age && x.age < x.lat + x.chunks && !(s.allArrived (x.needs (x.age - x.lat)))

/-- The status of a load's element: of every line that its bytes come from. -/
def State.elemStatus (s : State) (e : Elem) : BitVec 8 :=
  e.mem.foldl (fun st m => st ||| (match s.arrivedReply m.1 with | some r => tagStatus [r.tag] | none => 0#8)) (e.hi.setWidth 8)

/-- Delivers chunk `j` of a load into its tile register: each line takes the tag of the block that holds its
first accepted byte (R161). -/
def State.lsTile (s : State) (x : LsVec) (j : Nat) : State :=
  let (first, n) := x.chunk j
  let es := ((x.elems.drop first).take n).map s.resolve
  let per := 64 / x.width
  let lines := pieces per (n + 1) es
  let out := lines.mapIdx (fun k l =>
    let base := 4096 * x.reg + 256 * j + 64 * k
    (base, l.flatMap (fun e => leBytes x.width (if e.kind = .refused then 0 else e.bits)),
      ((l.find? (fun e => e.kind ≠ .refused)).map Elem.tag).getD dtOn))
  s.updMe (fun c => { c.note (out.map (fun o => .tileTag (o.1 / 64) o.2.2)) with
    tile := out.foldl (fun m o => (m.wrs o.1 o.2.1).wrTag dtOn o.1 o.2.2) c.tile })

/-- The port `ls.f`. -/
def kLsF : Nat := keyOf 0x0C 1

/-- Delivers what a vector form completes in this cycle: a chunk of a load; with the last chunk the residency
mask (R161, R169), the status in `ls.f` and its sticky flags. -/
def State.lsDeliver (s : State) (x : LsVec) : State × LsVec :=
  if x.lat ≤ x.age && x.age < x.lat + x.chunks then
    let j := x.age - x.lat
    let (first, n) := x.chunk j
    let st := if x.store then x.status
      else ((x.elems.drop first).take n).foldl (fun st e => st ||| s.elemStatus e) x.status
    let s := if x.store then s else s.lsTile x j
    if j + 1 = x.chunks then
      (s.updMe (fun c =>
        let c := { c.note [.mask x.mask x.refused] with masks := sset 0#4096 c.masks x.mask x.refused }
        (c.setResult kLsF (st.setWidth 64)).stickyNow (statusFlags st)),
        { x with status := st })
    else (s, { x with status := st })
  else (s, x)

/-- Delivers the chunks of all vector forms of the stream and drops those that are done. -/
def State.lsDelivers (s : State) : State :=
  let r := s.me.pipe.lsv.foldl (fun (p : State × List LsVec) x =>
    let q := p.1.lsDeliver x
    (q.1, p.2 ++ [q.2])) (s, [])
  let ended (x : LsVec) : Bool := x.lat + x.chunks ≤ x.age + 1
  (r.1.dropReplies ((r.2.filter ended).flatMap (fun x => x.ids.map (fun i => i.2.2)))).updMe (fun c =>
    { c with pipe := { c.pipe with lsv := r.2.filter (fun x => !(ended x)) } })

end Sys2Proof.Machine
end

