-- ==== Sys2Proof/Machine/Engine.lean ====
section
/-!
DEFINITION. Engine commands (spec/01 R35, R36, spec/08 R236-R239, spec/06 R188-R190): what a word captures,
issue, tokens, completion records, and the conditions of a start. Every function acts on the stream `s.cur`.
-/
namespace Sys2Proof.Machine

open Sys2Proof

/-! ## Words -/

/-- The engine of a word, its opcode and its common fields. -/
def engWord (i : Instr) : Option (EngKind × Nat × EngCommon) :=
  match mxOf i with
  | some (o, w) => some (.mx, o, w.c)
  | none =>
    match wzOf i with
    | some (o, w) => some (.wz, o, w.c)
    | none => (panOf i).map (fun p => (.pan, p.1, p.2.c))

/-- The number of an engine in a record (R190). -/
def engCode : EngKind → Nat
  | .mx => 0
  | .wz => 1
  | .pan => 2

/-- The depth of a queue (R36). -/
def engDepth : EngKind → Nat
  | .mx => 8
  | .wz => 96
  | .pan => 4

/-- The queue of an engine port. -/
def Core.engQ (c : Core) : EngKind → List Cmd
  | .mx => c.units.mxq
  | .wz => c.units.wzq
  | .pan => c.units.panq

/-- Replaces the queue of an engine port. -/
def Core.setEngQ (c : Core) (k : EngKind) (q : List Cmd) : Core :=
  { c with units := match k with
    | .mx => { c.units with mxq := q }
    | .wz => { c.units with wzq := q }
    | .pan => { c.units with panq := q } }

/-- The common fields of a command. -/
def Cmd.com (c : Cmd) : EngCommon :=
  match engWord c.instr with
  | some (_, _, e) => e
  | none => { g := 0#4, n := false, e := false, kin0 := 0#6, kin1 := 0#6, kin2 := 0#6, kout := 0#6, stamp := 0#32,
              rcl := 0#4, aft := 0#16 }

/-- The opcode of a command. -/
def Cmd.opc (c : Cmd) : Nat := ((engWord c.instr).map (fun p => p.2.1)).getD 0

/-- The engine of a command. -/
def Cmd.kind (c : Cmd) : EngKind := ((engWord c.instr).map (fun p => p.1)).getD .mx

/-- The token that a command produces, 0 for none. -/
def Cmd.kout (c : Cmd) : Nat := c.com.kout.toNat

/-- The tokens that a command consumes, in field order (R35). -/
def Cmd.kins (c : Cmd) : List Nat := [c.com.kin0.toNat, c.com.kin1.toNat, c.com.kin2.toNat].filter (· ≠ 0)

/-! Registers captured at issue (R236). -/

def Cmd.a (c : Cmd) (n : BitVec 5) : U64 := if n = 0#5 then 0#64 else sget 0#64 c.regs (kA n.toNat)
def Cmd.s (c : Cmd) (n : BitVec 6) : U32 := if n = 0#6 then 0#32 else (sget 0#64 c.regs (kS n.toNat)).setWidth 32
def Cmd.h (c : Cmd) (n : Nat) : U64 := sget 0#64 c.regs (kH n)

/-- An operand of a command, with its captured registers. -/
def Cmd.src (c : Cmd) (o : Opnd) : OpSrc :=
  let i := o.index.toNat
  match o.space.toNat with
  | 4 => { spec := o, addr := sget 0#64 c.regs (kA i) }
  | 5 => { spec := o, addr := sget 0#64 c.regs (kA i), hand := c.h i, cls := c.com.rcl }
  | 7 => { spec := o, splat := (sget 0#64 c.regs (kS i)).setWidth 32 }
  | _ => { spec := o }

/-- The registers that an operand specifier names. -/
def opndKeys (o : Opnd) : List Nat :=
  match o.space.toNat with
  | 4 => [kA o.index.toNat]
  | 5 => [kA o.index.toNat, kH o.index.toNat]
  | 7 => [kS o.index.toNat]
  | _ => []

/-- Captures registers as they stand at the start of the cycle. -/
def Core.capture (c : Core) (keys : List Nat) : Store U64 := keys.foldl (fun m k => sset 0#64 m k (c.reg k)) []

/-! ## Issue -/

/-- An engine word (R236): nothing under a false guard; ENG_IN_HANDLER in handler mode; TOKEN_PEND for a
produced token that is pending; a wait hold while the queue is full; otherwise the command enters its queue at
the end of the cycle. `more` is what the word does at once beside. -/
def engIssue (i : Instr) (keys : List Nat) (mask : Core → BitVec 4096) (more : Core → Core) (s : State) :
    Host.Outcome State Fault Refusal :=
  match engWord i with
  | none => .next s
  | some (k, _, e) =>
    if !(s.me.guard e.g e.n) then .next s
    else if s.myCluster.handler then .next (s.timing 15)
    else if e.kout ≠ 0#6 && s.me.token e.kout.toNat = 1#2 then .next (s.timing 2)
    else if engDepth k ≤ (s.me.engQ k).length then .next s.askWait
    else
      .next (s.updMe (fun c => more ((c.atEnd (.enq k
        { instr := i, stamp := e.stamp, regs := c.capture keys, mask := mask c, key := c.key, ctr := c.units.drawCtr })).event 5
          (BitVec.ofNat 8 (2 * (engCode k))) (e.kout.setWidth 32))))

/-- A command that enters its queue at the end of its issue cycle (R237, R322): it counts as issued after every
access of its bundle; whether AT has passed is judged at c+1; its token is pending. -/
def State.enter (s : State) (k : EngKind) (c : Cmd) : State :=
  let csc := s.myCluster.csc
  let gap : U32 := c.stamp - (csc + 1).setWidth 32
  let c := { c with seq := s.nextAcc, csc := csc, missed := c.stamp ≠ 0#32 && gap.getLsbD 31 }
  s.updMe (fun m => (m.setEngQ k (m.engQ k ++ [c])).setToken c.kout 1#2)

/-! ## Ends -/

/-- Where the completion record of a token lies (R190). -/
def recordAt (k : Nat) : Nat := 0x17FC00 + 16 * k

/-- The 16 bytes of a completion record (R190). -/
def recordBytes (chain : Bool) (ckv : U32) (status opc eng offset : Nat) : List Byte :=
  leBytes 8 (offset % 2 ^ 48 + eng % 4 * 2 ^ 48 + opc % 64 * 2 ^ 50 + status % 256 * 2 ^ 56) ++
    leBytes 8 (ckv.toNat + if chain then 2 ^ 63 else 0)

/-- Settles a command's token with its record written first (R35, R190): done for status 0, failed otherwise. -/
def Core.settle (c : Core) (m : Cmd) (chain : Bool) (status offset : Nat) (ckv : U32) : Core :=
  let k := m.kout
  let c := c.event 5 (BitVec.ofNat 8 (2 * engCode m.kind + 1)) (BitVec.ofNat 32 k)
  if k = 0 then c
  else
    let failed := status ≠ 0 || chain
    { c.setToken k (if failed then 3#2 else 2#2) with
      scratch := c.scratch.wrs (recordAt k) (recordBytes chain ckv status m.opc (engCode m.kind) offset)
      tokWhy := sset 0 c.tokWhy k (if failed then status else 0) }

/-- Takes the command at a place out of its queue. -/
def Core.leave (c : Core) (k : EngKind) (pos : Nat) : Core := c.setEngQ k ((c.engQ k).eraseIdx pos)

/-- Changes the command at a place of a queue. -/
def Core.updCmd (c : Core) (k : EngKind) (pos : Nat) (f : Cmd → Cmd) : Core := c.setEngQ k (lmod f pos (c.engQ k))

/-- Raises a fault of an engine command (R296, R298). -/
def State.raiseEng (s : State) (cls code : Nat) (tval : U64) : State :=
  s.updMine (·.raise { cls := cls, strm := s.coreOf, eng := true, code := code, tval := tval })

/-- A command that faulted or was stopped whole runs again from its start (R189, R259, R260); the writes that it has made are
still its own (R326). -/
def Cmd.restart (c : Cmd) : Cmd :=
  { c with el := none, dur := 0, held := none, moving := false, data := { writes := c.data.writes } }

/-- Every write of a command has performed (R326). -/
def State.written (s : State) (m : Cmd) : Bool := !(s.acc.any (fun a => m.data.writes.contains a.id))

/-- Completes the command at a place of a queue: sticky flags, record, token, and a fault on consumed poison
(R58, R238, R190, R258). -/
def State.finish (s : State) (k : EngKind) (pos : Nat) (m : Cmd) (status offset : Nat) (ckv : U32) (flags : U32) : State :=
  let s := (s.dropReplies (m.data.reads.map (·.2))).updMe (fun c =>
    let c := (c.leave k pos).settle m false status offset ckv
    { c with sflag := c.sflag ||| flags })
  if k ≠ .wz && (flags &&& fPOI) != 0#32 && s.myCluster.fenOr 1 then s.raiseEng 8 0 0#64 else s

/-! ## Start -/

/-- Ends the reading of a command with STATUS SHAPE. -/
def Cmd.shape (m : Cmd) (dur : Nat) (flags : U32) : Cmd :=
  { m with dur := dur, data := { m.data with status := 2, flags := m.data.flags ||| flags } }

/-- Notes flags that a command sets at its completion (R238, R258). -/
def Cmd.flag (m : Cmd) (f : U32) : Cmd := { m with data := { m.data with flags := m.data.flags ||| f } }

/-- The first failed token that a command consumes (R35). -/
def Core.failedIn (c : Core) (m : Cmd) : Option Nat := m.kins.find? (fun k => c.token k = 3#2)

/-- A consumed token is pending. -/
def Core.pendingIn (c : Core) (m : Cmd) : Bool := m.kins.any (fun k => c.token k = 1#2)

/-- Every access to the buffers that the command's "after" mask names has performed at package scope (R326). -/
def State.afterBuffers (s : State) (m : Cmd) : Bool := s.afterDone s.cur m.com.aft m.seq

/-- Every access to the scratchpad of an operation issued before the command, in a class of its "after" mask, has
performed (R188, R320): the reads of a vector operation and of a vector form with their last chunk, the writes of a
vector operation with its last delivery, those of the verifier, in class 0, with its occupancy (R283). -/
def Core.afterLocal (c : Core) (csc : U64) (m : Cmd) : Bool :=
  let upTo (at' : U64) : Bool := at' - m.csc = 0#64 || (at' - m.csc).getLsbD 63
  let before (age : Nat) : Bool := upTo (csc - BitVec.ofNat 64 age)
  let loc (x : OpSrc) : Bool := x.spec.space = 4#3 || (x.spec.space = 3#3 && !((x.pop.map ZPop.handle).getD false))
  c.pipe.vops.all (fun v => !(m.com.aft.getLsbD v.word.cls.toNat && before v.age &&
      (loc v.d || ((loc v.a || loc v.b) && v.age < v.chunks)))) &&
    c.pipe.lsv.all (fun x => !(m.com.aft.getLsbD x.cls.toNat && before x.age && !x.handle && x.age < x.chunks)) &&
    !(m.com.aft.getLsbD 0 && c.units.ver.busy ≠ 0 && upTo c.units.ver.since)

/-- The stamp lets the command start: none, or equal to CSC[31:0]; a stamp never matches during a hold (R25,
R237). -/
def stampOk (m : Cmd) (csc : U64) (held : Bool) : Bool := m.stamp = 0#32 || (!held && m.stamp = csc.setWidth 32)

/-- A schedule-miss of a command at this cycle (R188, R237): AT had passed on entry, or the stamp cycle finds a
consumed token pending or, for `mx` and `pan`, an earlier command not complete; a stamp never matches during a hold
(R25). -/
def Core.misses (c : Core) (csc : U64) (held : Bool) (pos : Nat) (m : Cmd) : Bool :=
  m.el.isNone && m.stamp ≠ 0#32 && (m.missed ||
    (!held && m.stamp = csc.setWidth 32 && (c.pendingIn m || (m.kind ≠ .wz && pos ≠ 0))))

/-- Judges the schedule-misses of one queue: each command that misses counts from here as if AT were 0, and
either faults with SCHED_MISS or sets SCH (R188, R237, R294). In a wait hold a miss that faults is left until the hold
ends (R298). -/
def State.missQueue (s : State) (held : Bool) (k : EngKind) : State :=
  let c := s.me
  let csc := s.myCluster.csc
  (c.engQ k).zipIdx.foldl (fun s p =>
    if c.misses csc held p.2 p.1 && !(held && s.myCluster.fenOr 2) then
      let s := s.updMe (fun c => c.updCmd k p.2 (fun m => { m with stamp := 0#32, missed := false }))
      if s.myCluster.fenOr 2 then s.raiseEng 3 (engCode k) (p.1.stamp.setWidth 64) else s.updMe (fun c => c.sticky fSCH)
    else s) s

/-- The schedule-misses of the stream. -/
def State.missAll (s : State) (held : Bool) : State := ((s.missQueue held .mx).missQueue held .wz).missQueue held .pan

/-! ## Operands read by a running command -/

/-- Whether a command may find a store of the stream not yet done (R160, R326): no "after" mask orders the two. -/
def Cmd.unordered (m : Cmd) (r : Recent) : Bool := !(m.com.aft.getLsbD r.cls.toNat) || (m.csc - r.csc).getLsbD 63

/-- The stores that a read of a scratchpad line by a command may miss, newest first: those to one location perform in
program order, so none is missed behind one that is ordered. -/
def Cmd.missable (m : Cmd) (rs : List Recent) (line : Nat) : List Recent :=
  (rs.filter (fun r => r.addr < 64 * line + 64 && 64 * line < r.addr + r.old.length)).takeWhile m.unordered

/-- A scratchpad as a command reads it in this cycle: each line with the newest of the stores that nothing orders before the
command missing, as many as a free choice says (log entry 82). -/
def State.padFor (s : State) (m : Cmd) (core : Nat) : TMem :=
  let c := s.myCluster.core core
  let lines := (c.recent.flatMap (fun r => (splitLines r.addr r.old.length).map (·.1))).eraseDups
  lines.foldl (fun p l =>
    let rs := m.missable c.recent l
    let k := (Config.freeWord (s.freeAt 17 ((m.csc.toNat % 2 ^ 16) * 2 ^ 15 + l))).toNat % (rs.length + 1)
    (rs.take k).foldl (fun p r => (splitLines r.addr r.old.length).foldl (fun p q =>
      if q.1 = l then p.wrs (64 * l + q.2.1) ((r.old.drop (64 * l + q.2.1 - r.addr)).take q.2.2) else p) p) p) c.scratch

/-- The stream as a command reads it. -/
def State.viewFor (s : State) (m : Cmd) : Core := { s.me with scratch := s.padFor m s.coreOf }

/-- The line of device memory at a physical address as a command has read it: its reply, if that has come. -/
def State.lineRead (s : State) (m : Cmd) (pa : Nat) : Option Reply :=
  (m.data.reads.find? (fun p => p.1 = pa / 64 * 64)).bind (fun p => s.arrivedReply p.2)

/-- The physical addresses, by line, that an element of a handle operand reads, and the part of each. -/
def handleLines (x : OpSrc) (l : Lay) (e : Nat) : List (Nat × Nat × Nat) :=
  let a := x.elemAddr l e
  if handleRefuses x.hand a l.width then [] else (splitLines a l.width).map (fun q => (hAddr x.hand (64 * q.1), q.2.1, q.2.2))

/-- The lines of device memory of some elements of an operand. -/
def OpSrc.span (x : OpSrc) (l : Lay) (first n : Nat) : List Nat :=
  if x.spec.space = 5#3 then ((List.range n).flatMap (fun i => (handleLines x l (first + i)).map (·.1))).eraseDups else []

/-- The lines that some elements of an operand read outside the scratchpad, where its handle lets it read. -/
def OpSrc.lines (x : OpSrc) (l : Lay) (first n : Nat) : List Nat := if hPr x.hand then x.span l first n else []

/-- Reads one element of an operand: through a handle from the replies to the command's accesses, otherwise as it stands
(R239, R240, R318); `v` is the stream as the command reads it. -/
def State.engElem (s : State) (v : Core) (m : Cmd) (x : OpSrc) (l : Lay) (e : Nat) : Elem :=
  if x.spec.space = 5#3 then
    if handleRefuses x.hand (x.elemAddr l e) l.width then { kind := .refused, hi := fRES }
    else
      let rs := (handleLines x l e).filterMap (fun q => (s.lineRead m q.1).map (fun r => ((r.bytes.drop q.2.1).take q.2.2, r.tag)))
      { bits := leNat (rs.flatMap (·.1)), tag := (rs.map (·.2)).headD 0#16 }
  else s.readElem s.myCluster.info v x l e

/-- Reads elements `first` up to `first + n - 1` in order. -/
def State.engElems (s : State) (m : Cmd) (x : OpSrc) (l : Lay) (first n : Nat) : List Elem :=
  let v := s.viewFor m
  (List.range n).map (fun i => s.engElem v m x l (first + i))

/-- A handle operand without the permission it needs (R168, R259): the byte offset of its first element. -/
def engPerm (x : OpSrc) (l : Lay) (rd wr : Bool) : Option Nat :=
  if x.spec.space = 5#3 && hV x.hand && hRsd x.hand && ((rd && !(hPr x.hand)) || (wr && !(hPw x.hand))) then
    some (x.elemAddr l 0)
  else none

/-- A command of the cluster that runs and has still to write loses, as free choices say, scratchpad bytes that another one
writes: no token edge orders the two (R198). `same` tells the command that writes. -/
def Cluster.loseBytes (c : Cluster) (same : Nat → Cmd → Bool) (free owner : Nat) (at' : List Nat) : Cluster :=
  let hit (i : Nat) (m : Cmd) : Cmd :=
    if m.el.isSome && m.data.phase < 2 && !(same i m) then
      { m with data := { m.data with lost := m.data.lost ++ (at'.filter (fun a => Config.freeBit (free + a))).map (fun a => (owner, a)) } }
    else m
  { c with cores := c.cores.mapIdx (fun i k => { k with units := { k.units with
      mxq := k.units.mxq.map (hit i), wzq := k.units.wzq.map (hit i), panq := k.units.panq.map (hit i) } }) }

/-- A command of a core's queues, by its core, engine and cycle of issue: no two of one engine are issued in one cycle. -/
def Cmd.is (m : Cmd) (core : Nat) (i : Nat) (x : Cmd) : Bool := i = core && x.csc = m.csc && x.kind = m.kind

/-- What a write of operand rows has done: the state, the flags of refused elements, and the accesses that write. -/
abbrev EngPut := State × U32 × List Nat

/-- Writes placed lines of an operand: into a tile register (as end-of-cycle writes, R95), the scratchpad, or, by accesses of
the command, memory behind a handle (R318, R322); a line written whole takes its descriptor, any other keeps what it had
(R51). Scratchpad bytes that an unlinked command has written meanwhile may keep that value (R198). -/
def State.engPut (s : State) (m : Cmd) (x : OpSrc) (l : Lay) (rs : List Res) : EngPut :=
  let i := x.spec.index.toNat % 32
  match x.spec.space.toNat with
  | 1 =>
    let ls := (outLines l.width true (rs.map (fun r => (tileOff x.spec l r.1, r.2)))).map OutLine.final
    (s.updMe (fun c => { c with pipe := { c.pipe with puts := c.pipe.puts ++ ls.flatMap (fun o =>
      o.ws.map (fun w => Put.tile (4096 * i + 64 * o.line + w.1) [w.2]) ++
        [Put.tileTag (64 * i + o.line) (if whole o.ws then o.tag else c.tile.tag dtOn (4096 * i + 64 * o.line))]) } }), 0#32, [])
  | 4 =>
    let t := s.myCluster.info
    let ok := rs.filter (fun r => localRefusal t true (x.elemAddr l r.1) l.width = 0#8)
    let fl := rs.foldl (fun f r => f ||| statusFlags (localRefusal t true (x.elemAddr l r.1) l.width)) 0#32
    let ls := (outLines l.width true (ok.map (fun r => (x.elemAddr l r.1, r.2)))).map (fun o =>
      { o with ws := o.ws.filter (fun w => !(m.data.lost.contains (s.coreOf, 64 * o.line + w.1))) })
    let at' := ls.flatMap (fun o => o.ws.map (fun w => 64 * o.line + w.1))
    (s.updMine (fun cl => ({ cl with endLoc := cl.endLoc ++ ls.flatMap (OutLine.locW 4 s.coreOf 0#4) }).loseBytes (m.is s.coreOf)
      (s.freeAt 14 (2 ^ 26)) s.coreOf at'), fl, [])
  | 5 =>
    let ok := rs.filter (fun r => !(handleRefuses x.hand (x.elemAddr l r.1) l.width))
    let fl := flagIf (ok.length ≠ rs.length) fRES
    let ls := (outLines l.width true (ok.map (fun r => (x.elemAddr l r.1, r.2)))).map OutLine.final
    let go := ls.foldl (fun (p : State × List Nat) o =>
      (p.1.addParty .engine x.cls (.mem (hAddr x.hand (64 * o.line) / 64)) (.put o.ws (some o.tag) none) .queue,
        p.2 ++ [p.1.nextAcc])) (s, [])
    (go.1, fl, go.2)
  | _ => (s, 0#32, [])

/-- Notes what a write of operand rows gave. -/
def Cmd.put (m : Cmd) (p : EngPut) : Cmd :=
  { m with data := { m.data with flags := m.data.flags ||| p.2.1, writes := m.data.writes ++ p.2.2 } }

/-! ## Pages (R189, R259, R364) -/

/-- What a running command does in a cycle: it goes on, it waits for a page, it waits for a migration to end
before it writes through a handle, it waits for what it reads (R26), or it faults. -/
inductive EngAct where
  | go (s : State) (m : Cmd)
  | wait (va : U64) (write : Bool)
  | hold
  | late
  | fault (cls code : Nat) (tval : U64)

/-- Goes on to a write through an operand unless it is a handle whose page is migrating, or one that is not writable any
more when the migration has ended (R168, R332). -/
def State.withPut (s : State) (x : OpSrc) (k : Unit → EngAct) : EngAct :=
  if x.spec.space = 5#3 && hV x.hand && hRsd x.hand then
    (if !(hPw x.hand) then .fault 6 2 x.addr
     else if s.migrating s.myCluster.info.launch x.hand then .hold else k ())
  else k ()

/-- What an engine finds at a virtual address: device memory, a page to wait for, or a protection fault. -/
inductive VaRes where
  | at' (pa : Nat) (entry : U64)
  | wait
  | fault (code : Nat)
  deriving DecidableEq, Repr

/-- Translates a virtual address for an engine access (R187, R189, R332): unmapped or malformed is BAD_VA, a
missing permission PERM; a page that is not resident, and for a write one that is migrating, is waited for. -/
def State.engVa (s : State) (va : Nat) (write : Bool) : VaRes :=
  match s.translate s.myCluster.info va with
  | .leaf e l =>
    if (if write then !(e.getLsbD 5) else !(e.getLsbD 4)) then .fault 2
    else if !(e.getLsbD 2) || (write && e.getLsbD 3) then .wait
    else .at' (leafAddr e l va) e
  | _ => .fault 3

/-- The first address of a list that a command cannot access now. -/
def State.firstNeed (s : State) (vas : List (Nat × Bool)) : Option (Nat × Bool × VaRes) :=
  vas.findSome? (fun p => match s.engVa p.1 p.2 with
    | .at' _ _ => none
    | r => some (p.1, p.2, r))

/-- Goes on when every address of a list can be accessed. -/
def State.withPages (s : State) (vas : List (Nat × Bool)) (k : Unit → EngAct) : EngAct :=
  match s.firstNeed vas with
  | none => k ()
  | some (va, w, .wait) => .wait (BitVec.ofNat 64 va) w
  | some (va, _, .fault c) => .fault 6 c (BitVec.ofNat 64 va)
  | some _ => k ()

/-- The physical address of the line at a virtual address, where it can be read. -/
def State.vaLine (s : State) (va : Nat) : Option Nat :=
  match s.engVa va false with
  | .at' pa _ => some (pa / 64 * 64)
  | _ => none

/-- The block of device memory at a virtual address as a command has read it: bytes, descriptor and metadata. -/
def State.vaBlock (s : State) (m : Cmd) (va : Nat) : List Byte × U16 × U64 :=
  match (s.vaLine va).bind (s.lineRead m) with
  | some r => (r.bytes, r.tag, r.swMeta)
  | none => (List.replicate 64 0#8, dtZero, 0#64)

/-- Goes on when a command has read some lines of device memory. -/
def State.withLines (s : State) (m : Cmd) (ls : List Nat) (k : Unit → EngAct) : EngAct :=
  if ls.all (fun pa => (s.lineRead m pa).isSome) then k () else .late

/-- Goes on when every address of a list can be accessed and its line has been read. -/
def State.withVas (s : State) (m : Cmd) (vas : List Nat) (k : Unit → EngAct) : EngAct :=
  s.withPages (vas.map (fun a => (a, false))) fun _ => s.withLines m (vas.filterMap s.vaLine) k

/-- Makes the read accesses of a command to lines that it has not read yet, one for each, in its class RCL (R318, R322). -/
def State.fetchLines (s : State) (m : Cmd) (ls : List Nat) : State × Cmd :=
  (ls.filter (fun a => !(m.data.reads.any (fun p => p.1 = a)))).eraseDups.foldl (fun p a =>
    (p.1.addParty .engine p.2.com.rcl (.mem (a / 64)) .load .queue,
      { p.2 with data := { p.2.data with reads := p.2.data.reads ++ [(a, p.1.nextAcc)] } })) (s, m)

end Sys2Proof.Machine
end

