-- ==== Sys2Proof/Machine/Wz.lean ====
section
/-!
DEFINITION. Winze, the copy engines `wz` (spec/06 R187-R203, spec/04 R131, spec/15 R355, R369). A command first makes its
read accesses; with what they bring it computes what it writes and makes its write accesses, single lines ahead of the others
where nothing forbids it, and it settles when all have performed (spec/11 R318, R322, R326; log entry 21).
-/
namespace Sys2Proof.Machine

open Sys2Proof

/-! ## Addresses (R187) -/

/-- What an engine finds at one address. -/
inductive WzAt where
  | mem (pa : Nat)
  | gal (line : Nat)
  | loc (core : Nat) (off : Nat)
  | wait
  | fault (code : Nat)
  deriving DecidableEq, Repr

/-- Checks and translates one address. -/
def State.wzAt (s : State) (a : Nat) (write : Bool) : WzAt :=
  let a := a % 2 ^ 64
  match a / 2 ^ 62 with
  | 0 =>
    if field a 57 5 ≠ 0 then .fault 3
    else match s.engVa a write with
      | .at' pa _ => .mem pa
      | .wait => .wait
      | .fault c => .fault c
  | 2 => if field a 27 35 ≠ 0 || !(inScratch (a % 2 ^ 24) 1) then .fault 3 else .loc (field a 24 3) (a % 2 ^ 24)
  | 3 =>
    if field a 29 33 ≠ 0 then .fault 3
    else if s.myCluster.info.inGallery (a % 2 ^ 29) 1 then .gal (a % 2 ^ 29 / 64)
    else .fault 1
  | _ => .fault 3

/-- The first piece of some ranges (address, bytes, write) that cannot be accessed now. -/
def State.wzBad (s : State) (ranges : List (Nat × Nat × Bool)) : Option (Nat × Bool × WzAt) :=
  ranges.findSome? (fun r => (splitLines r.1 r.2.1).findSome? (fun q =>
    let a := 64 * q.1 + q.2.1
    match s.wzAt a r.2.2 with
    | .wait => some (a, r.2.2, .wait)
    | .fault c => some (a, r.2.2, .fault c)
    | _ => none))

/-- A byte as an engine carries it: with the descriptor and, from device memory, the metadata of its block
(R51, R355). `ok` says that the command has read it. -/
structure SrcByte where
  b : Byte
  tag : U16
  swm : Option U64 := none
  ok : Bool := true
  deriving DecidableEq, Repr

/-- An address names a line of a scratchpad (R187). -/
def isPad (a : Nat) : Bool := a % 2 ^ 64 / 2 ^ 62 = 2

/-- The bytes of a piece of a line as a command has read them: from the copy of a scratchpad line that it took, or as the
reply to its access brought them. -/
def State.wzPiece (s : State) (m : Cmd) (a n : Nat) : List SrcByte :=
  let line := a % 2 ^ 64 / 64 * 64
  let cutOut (bs : List Byte) (tag : U16) (swm : Option U64) : List SrcByte :=
    ((bs.drop (a % 64)).take n).map (fun b => { b := b, tag := tag, swm := swm })
  let missing : List SrcByte := List.replicate n { b := 0#8, tag := dtZero, ok := false }
  if isPad a then
    match m.data.pads.find? (fun p => p.1 = line) with
    | some p => cutOut p.2.1 p.2.2 none
    | none => missing
  else
    match s.lineRead m line with
    | some r => cutOut r.bytes r.tag (match r.loc with | .mem _ => some r.swMeta | .gal _ => none)
    | none => missing

/-- The bytes of a range that a command has read. -/
def State.wzRead (s : State) (m : Cmd) (a n : Nat) : List SrcByte :=
  (splitLines a n).flatMap (fun q => s.wzPiece m (64 * q.1 + q.2.1) q.2.2)

/-- The addresses of the lines of some ranges, each once, in rising order. -/
def wzLines (rs : List (Nat × Nat × Bool)) : List Nat :=
  (rs.foldl (fun (m : Store Unit) r => (splitLines r.1 r.2.1).foldl (fun m q => sins (64 * q.1) () m) m) []).map (·.1)

/-- Makes the read accesses of a command, one per line outside the scratchpads, in its class RCL (R157, R318). -/
def State.wzFetch (s : State) (m : Cmd) (rs : List (Nat × Nat × Bool)) : State × Cmd :=
  (wzLines rs).foldl (fun p a =>
    let go (l : Loc) : State × Cmd :=
      (p.1.addParty .engine m.com.rcl l .load .queue,
        { p.2 with data := { p.2.data with reads := p.2.data.reads ++ [(a % 2 ^ 64, p.1.nextAcc)] } })
    match p.1.wzAt a false with
    | .mem pa => go (.mem (pa / 64))
    | .gal l => go (.gal l)
    | _ => p) (s, { m with data := { m.data with phase := 1 } })

/-- Reads a line of a scratchpad (R320). -/
def State.takePad (s : State) (m : Cmd) (a : Nat) : Cmd :=
  let pad := s.padFor m (field a 24 3)
  let off := a % 2 ^ 24 / 64 * 64
  { m with data := { m.data with pads := m.data.pads ++ [(a % 2 ^ 64 / 64 * 64, pad.bytes off 64, pad.tag dtOn off)] } }

/-- A command has read a scratchpad line. -/
def Cmd.hasPad (m : Cmd) (a : Nat) : Bool := m.data.pads.any (fun p => p.1 = a % 2 ^ 64 / 64 * 64)

/-- Writes bytes of one line at their offsets: a scratchpad line at once (R320), any other by an access of the command
(R318). A line written whole takes the descriptor of its first byte and, where there is one, its metadata (R51, R192,
R355). -/
def State.wzLine (s : State) (m : Cmd) (dc : BitVec 4) (a : Nat) (ws : List (Nat × SrcByte)) : State × List Nat :=
  let bytes := ws.map (fun w => (w.1, w.2.b))
  let first := (ws.find? (fun w => w.1 = 0)).map (·.2)
  let tag := first.map SrcByte.tag
  let put (l : Loc) : State × List Nat := (s.addParty .engine dc l (.put bytes tag (first.bind SrcByte.swm)) .queue, [s.nextAcc])
  match s.wzAt (a / 64 * 64 + (ws.head?.map (·.1)).getD 0) true with
  | .mem pa => put (.mem (pa / 64))
  | .gal l => put (.gal l)
  | .loc c off =>
    let base := off / 64 * 64
    let bytes := bytes.filter (fun w => !(m.data.lost.contains (c, base + w.1)))
    (s.updMine (fun cl => (cl.updCore c (fun k =>
      let pad := bytes.foldl (fun p w => p.wr (base + w.1) w.2) k.scratch
      { k with scratch := match tag with
        | some t => if whole bytes then pad.wrTag dtOn base t else pad
        | none => pad })).loseBytes (m.is s.coreOf) (s.freeAt 14 0) c (bytes.map (fun w => base + w.1))), [])
  | _ => (s, [])

/-- Bytes to write, by address, in the order written: a later byte at an address replaces an earlier one. -/
abbrev WzPuts := Store SrcByte

/-- Bytes from an address up. -/
def putsFrom (a : Nat) (bs : List SrcByte) : WzPuts := bs.mapIdx (fun i b => (a + i, b))

/-- The puts as lines in rising order: line number and offsets. -/
def putLines (ps : WzPuts) : List (Nat × List (Nat × SrcByte)) :=
  (ps.foldr (fun p (acc : List (Nat × List (Nat × SrcByte))) =>
    match acc with
    | (l, ws) :: t => if l = p.1 / 64 then (l, (p.1 % 64, p.2) :: ws) :: t else (p.1 / 64, [(p.1 % 64, p.2)]) :: acc
    | [] => [(p.1 / 64, [(p.1 % 64, p.2)])]) [])

/-- The first byte that a line of puts writes, as a range. -/
def putRange (l : Nat × List (Nat × SrcByte)) : Nat × Nat × Bool := (64 * l.1 + (l.2.head?.map (·.1)).getD 0, 1, true)

/-- The lines of some puts that a command has still to write. -/
def Cmd.unwritten (m : Cmd) (ps : WzPuts) : List (Nat × List (Nat × SrcByte)) :=
  (putLines ps).filter (fun l => !(m.data.wrote.contains l.1))

/-- Writes lines, and notes the accesses. -/
def State.wzWrite (s : State) (m : Cmd) (dc : BitVec 4) (ls : List (Nat × List (Nat × SrcByte))) : State × List Nat :=
  ls.foldl (fun p l =>
    let r := p.1.wzLine m dc (64 * l.1) l.2
    (r.1, p.2 ++ r.2)) (s, [])

/-! ## Bytes, checksums, conversion -/

/-- One step of CRC-32C (R193). -/
def crcByte (x : U32) (b : Byte) : U32 :=
  (List.range 8).foldl (fun x _ => (x >>> 1) ^^^ (if x.getLsbD 0 then 0x82F63B78#32 else 0#32)) (x ^^^ b.setWidth 32)

/-- `crc32c(v, bytes)` (R193). -/
def crc32c (v : U32) (bs : List Byte) : U32 := bs.foldl crcByte (v ^^^ 0xFFFFFFFF#32) ^^^ 0xFFFFFFFF#32

/-- `add32(v, bytes)` (R193). -/
def add32 (v : U32) (bs : List Byte) : U32 :=
  (pieces 4 (bs.length + 1) bs).foldl (fun v p => v + BitVec.ofNat 32 (leNat p)) v

/-- The fill pattern: byte `i` is byte `i mod 4` of s[XS] (R195). -/
def patByte (x : U32) (i : Nat) : SrcByte := { b := (x >>> (8 * (i % 4))).setWidth 8, tag := 0x00FF#16 }

/-- The flags of byte reads of blocks with these descriptors (R52). -/
def srcFlags (bs : List SrcByte) : U32 := bs.foldl (fun f b => f ||| tagFlags b.tag) 0#32

/-- The elements of a source block, as a conversion to elements of `b` bits reads them (R192, R64). DESIGN CHOICE: no rule
counts the elements of a block that is raw, poison or of a reserved format, and it contributes as many as fill a block of the
destination (log entry 7). -/
def blockElems (b : Nat) (blk : List SrcByte) : List Dec :=
  let tag := (blk.head?.map SrcByte.tag).getD dtZero
  let f := descFmt tag
  let bytes := blk.map SrcByte.b
  if (fmtOf f).isNone then
    List.replicate (512 / b) (if f = 0x7F then { v := .poison, fmt := f, flags := fPOI } else badLine f)
  else (List.range (512 / fmtBits f)).map (fun i => decIn f (descScale tag) (unpackCode (fmtBits f) bytes i))

/-- Converts whole source blocks to format `df` (R192): bytes and flags. -/
def wzConvert (df wr : Nat) (src : List SrcByte) : List SrcByte × U32 :=
  let b := if fmtBits df = 0 then 8 else fmtBits df
  let ds := (pieces 64 (src.length + 1) src).flatMap (blockElems b)
  let r := convRun df (rcOf wr) false true (ds.map (fun d => (d, 0)))
  (r.1.flatMap (fun k => k.1.map (fun x => ({ b := x, tag := k.2 } : SrcByte))),
    ds.foldl (fun f d => f ||| d.flags) r.2)

/-! ## Shapes (R196, R197) -/

/-- The shape block of a gather or scatter. -/
structure Shape where
  esz : Nat
  counts : List Nat
  strides : List Int
  origins : List Int
  extents : List Nat
  deriving DecidableEq, Repr

/-- Reads a shape block: none if it breaks a limit of R196. -/
def shapeOf (ndim : Nat) (d : List Byte) : Option Shape :=
  let num (o n : Nat) : Nat := leNat ((d.drop o).take n)
  let sg (o n : Nat) : Int := (BitVec.ofNat (8 * n) (num o n)).toInt
  let sh : Shape :=
    { esz := num 0 2, counts := (List.range 4).map (fun i => num (8 + 2 * i) 2),
      strides := (List.range 4).map (fun i => sg (0x10 + 4 * i) 4),
      origins := (List.range 4).map (fun i => sg (0x20 + 2 * i) 2),
      extents := (List.range 4).map (fun i => num (0x28 + 2 * i) 2) }
  if sh.esz = 0 || 4096 < sh.esz || num 2 1 ≠ ndim || num 3 5 ≠ 0 || sh.counts.any (· = 0) ||
      (ndim = 2 && (sh.counts.getD 2 1 ≠ 1 || sh.counts.getD 3 1 ≠ 1)) || sh.extents.any (· = 0) || num 0x30 16 ≠ 0 then none
  else some sh

/-- Number of elements. -/
def Shape.count (h : Shape) : Nat := h.counts.foldl (· * ·) 1

/-- The coordinates of element `e`, i0 fastest. -/
def Shape.coords (h : Shape) (e : Nat) : List Int :=
  let c (k : Nat) : Nat := h.counts.getD k 1
  let ix := [e % c 0, e / c 0 % c 1, e / (c 0 * c 1) % c 2, e / (c 0 * c 1 * c 2)]
  List.zipWith (fun (o : Int) (i : Nat) => o + i) h.origins ix

/-- The element is out of bounds. -/
def Shape.out (h : Shape) (e : Nat) : Bool :=
  (List.zipWith (fun (x : Int) (n : Nat) => x < 0 || (n : Int) ≤ x) (h.coords e) h.extents).any id

/-- The strided address of element `e`. -/
def Shape.addr (h : Shape) (base e : Nat) : Nat :=
  let cl := List.zipWith (fun (x : Int) (n : Nat) => max 0 (min x ((n : Int) - 1))) (h.coords e) h.extents
  (((base : Int) + (List.zipWith (· * ·) cl h.strides).foldl (· + ·) 0) % (2 ^ 64 : Nat)).toNat

/-! ## Compressed streams (R199-R201) -/

/-- The result of a decoding: the blocks produced (bytes, descriptor), the source offset reached, and whether
the stream is malformed there. -/
structure Expanded where
  blocks : List (List Byte × U16)
  off : Nat
  bad : Bool
  deriving DecidableEq, Repr

/-- The offset at which reading `n` bytes from `off` fails, if it does: the token, where the end of the source cuts it off,
or the first byte of a block of another format. -/
def cutAt (src : List SrcByte) (off n : Nat) : Option Nat :=
  let piece := (src.drop off).take n
  if piece.length < n then some off
  else ((piece.mapIdx (fun i b => (i, b))).find? (fun p => descFmt p.2.tag ≠ 0x38)).map (fun p => off + p.1)

/-- The bytes of a SPARSE block from its bitmap and values (R199). -/
def sparseBytes (bits : Nat) : Nat → Nat → List Byte → List Byte
  | 0, _, _ => []
  | n + 1, i, vs => if bitAt bits i then vs.headD 0#8 :: sparseBytes bits n (i + 1) vs.tail else 0#8 :: sparseBytes bits n (i + 1) vs

/-- Decodes tokens from `off` on; `n` bounds the tokens, `left` counts the blocks still due. -/
def expTokens (src : List SrcByte) : Nat → Nat → Nat → Expanded
  | 0, off, _ => { blocks := [], off := off, bad := true }
  | n + 1, off, left =>
    let num (o k : Nat) : Nat := leNat (((src.drop o).take k).map SrcByte.b)
    let stop (o : Nat) : Expanded := { blocks := [], off := o, bad := true }
    let go (len : Nat) (bs : List (List Byte × U16)) : Expanded :=
      if left < bs.length then stop off
      else
        match cutAt src off len with
        | some o => stop o
        | none =>
          let r := expTokens src n (off + len) (left - bs.length)
          { r with blocks := bs ++ r.blocks }
    if src.length ≤ off then { blocks := [], off := off, bad := left ≠ 0 }
    else match cutAt src off 1 with
      | some o => stop o
      | none =>
        let t := num off 1
        let desc : U16 := BitVec.ofNat 16 (num (off + 1) 2)
        if t < 0x40 then go 3 (List.replicate (t + 1) (List.replicate 64 0#8, desc))
        else if t = 0x40 then go 67 [(((src.drop (off + 3)).take 64).map SrcByte.b, desc)]
        else if t = 0x80 then
          match (if left = 0 then some off else cutAt src off 11) with
          | some o => stop o
          | none =>
            let bits := num (off + 3) 8
            let k := ((List.range 64).filter (bitAt bits)).length
            go (11 + k) [(sparseBytes bits 64 0 (((src.drop (off + 11)).take k).map SrcByte.b), desc)]
        else if t = 0xFF then (if left = 0 then { blocks := [], off := off + 1, bad := false } else stop off)
        else stop off

/-- A poison block. -/
def poisonBlock : List Byte × U16 := (List.replicate 64 0#8, 0xFFFF#16)

/-- The offset of the first fault in the header of a stream: a block of another format, or a reserved byte that is not
zero. -/
def headerStop (src : List SrcByte) : Option Nat :=
  let head := (src.take 8).mapIdx (fun i b => (i, b))
  (head.find? (fun p => descFmt p.2.tag ≠ 0x38 || (4 ≤ p.1 && p.2.b ≠ 0#8))).map (·.1)

/-- Decodes a whole stream (R200): the blocks to write, OFFSET, and whether the stream is malformed. A stream that ends
inside OUTBLK names no number of blocks and gives none (log entry 19). -/
def expand (src : List SrcByte) : List (List Byte × U16) × Nat × Bool :=
  let outblk := leNat ((src.take 4).map SrcByte.b)
  let pad (r : Expanded) : List (List Byte × U16) × Nat × Bool :=
    (r.blocks ++ (if r.bad then List.replicate (outblk - r.blocks.length) poisonBlock else []), r.off, r.bad)
  if src.length < 4 then ([], (headerStop src).getD src.length, true)
  else match headerStop src with
    | some o => pad { blocks := [], off := o, bad := true }
    | none =>
      if src.length < 8 then pad { blocks := [], off := src.length, bad := outblk ≠ 0 }
      else pad (expTokens src (src.length + 1) 8 outblk)

/-- The tokens of blocks (R201): runs of all-zero blocks of one descriptor, SPARSE up to 55 nonzero bytes, else
LITERAL. `run` is the open run of zero blocks. -/
def packTokens : List (List Byte × U16) → Option (Nat × U16) → List Byte
  | [], none => []
  | [], some (n, d) => BitVec.ofNat 8 (n - 1) :: leBytes 2 d.toNat
  | (b, d) :: t, run =>
    let flush : List Byte := match run with
      | some (n, e) => BitVec.ofNat 8 (n - 1) :: leBytes 2 e.toNat
      | none => []
    if b.all (· = 0#8) then
      match run with
      | some (n, e) => if n < 64 && e = d then packTokens t (some (n + 1, e)) else flush ++ packTokens t (some (1, d))
      | none => packTokens t (some (1, d))
    else
      let nz := b.filter (· ≠ 0#8)
      let bits := (b.mapIdx (fun i x => if x = 0#8 then 0 else 2 ^ i)).foldl (· + ·) 0
      let tok := if nz.length ≤ 55 then 0x80#8 :: (leBytes 2 d.toNat ++ leBytes 8 bits ++ nz) else 0x40#8 :: (leBytes 2 d.toNat ++ b)
      flush ++ tok ++ packTokens t none

/-- The stream of some blocks, padded to whole blocks of descriptor 0x70FF (R201). -/
def packStream (blocks : List (List Byte × U16)) : List SrcByte :=
  let body := leBytes 8 blocks.length ++ packTokens blocks none ++ [0xFF#8]
  let full := body ++ List.replicate (64 * ceilDiv body.length 64 - body.length) 0#8
  full.map (fun b => { b := b, tag := 0x70FF#16 })

/-! ## The commands -/

/-- The least duration for `b` bytes (R131). -/
def wzLeast (b : Nat) : Nat := 24 + ceilDiv b 256

/-- What a command does once its reads have come: the bytes it writes, its status, OFFSET and flags, the bytes that decide
its least duration, the bytes to checksum, and the payload of a remote copy. -/
structure WzOut where
  puts : WzPuts := []
  status : Nat := 0
  off : Nat := 0
  flags : U32 := 0#32
  len : Nat := 0
  sum : List Byte := []
  send : Option (List SrcByte) := none
  deriving DecidableEq, Repr

/-- Blocks to write with their descriptors, as bytes. -/
def blockBytes (bs : List (List Byte × U16)) : List SrcByte :=
  bs.flatMap (fun k => k.1.map (fun v => ({ b := v, tag := k.2 } : SrcByte)))

/-- The node that a remote copy names (R202). -/
def Cmd.node (m : Cmd) (w : WzWord) : BitVec 20 := (m.s w.xs).setWidth 20

/-- DA of a remote copy has the virtual kind (R202). -/
def remoteOk (da : U64) : Bool := da.toNat < 2 ^ 57

/-- A node can be reached: a route leads to it through a port that is up (R391). -/
def State.reachable (s : State) (n : BitVec 20) : Bool :=
  match s.links.routes.find? (fun r => r.1 = n) with
  | some r => s.links.up.getLsbD r.2.toNat
  | none => false

/-- A command reads a shape block (R196). -/
def readsShape (opc : Nat) : Bool := 3 ≤ opc && opc ≤ 6

/-- Reads the shape block, once: the bytes at the local address that PA names, refused ones as zero (R196, R318). -/
def State.wzTakeShape (s : State) (m : Cmd) (opc : Nat) (w : WzWord) : Cmd :=
  if !(readsShape opc) || w.pa = 0#5 || !(m.data.header.isEmpty) then m
  else
    let t := s.myCluster.info
    let v := s.viewFor m
    let a := (m.a w.pa).toNat
    { m with data := { m.data with header := (List.range 64).flatMap (fun i =>
        if localRefusal t false (a + i) 1 = 0#8 then s.localBytes t v (a + i) 1 else [0#8]) } }

/-- The shape block that a command has read: none for PA = 0 or a broken limit (R196). -/
def Cmd.wzShape (m : Cmd) (w : WzWord) (ndim : Nat) : Option Shape :=
  if w.pa = 0#5 then none else shapeOf ndim m.data.header

/-- A length or an address that makes a command end with BADLEN and nothing written (R192, R193, R197, R200, R201,
R202). -/
def Cmd.wzBadLen (m : Cmd) (opc : Nat) (w : WzWord) : Bool :=
  let b := (m.s w.ls).toNat
  let sa := (m.a w.sa).toNat
  let da := (m.a w.da).toNat
  let convBad := w.df ≠ 0#7 && (b % 64 ≠ 0 || sa % 64 ≠ 0 || da % 64 ≠ 0)
  match opc with
  | 0x00 | 0x01 => b ≠ 0 && ((w.ck = 2#2 && b % 4 ≠ 0) || convBad)
  | 0x03 | 0x05 =>
    match m.wzShape w (if opc = 0x03 then 2 else 4) with
    | some h => w.df ≠ 0#7 && (h.esz * h.count % 64 ≠ 0 || da % 64 ≠ 0)
    | none => false
  | 0x07 => da % 64 ≠ 0
  | 0x08 => b % 64 ≠ 0 || sa % 64 ≠ 0 || da % 64 ≠ 0
  | 0x09 => b ≠ 0 && w.ck = 2#2 && b % 4 ≠ 0
  | _ => false

/-- The ranges that a command reads (R192-R202): the source, or the elements of a gather or scatter that it copies. -/
def Cmd.wzNeeds (m : Cmd) (opc : Nat) (w : WzWord) : List (Nat × Nat × Bool) :=
  let b := (m.s w.ls).toNat
  let sa := (m.a w.sa).toNat
  if m.wzBadLen opc w then []
  else
    match opc with
    | 0x00 | 0x01 | 0x07 | 0x08 | 0x09 => [(sa, b, false)]
    | 0x03 | 0x05 =>
      match m.wzShape w (if opc = 0x03 then 2 else 4) with
      | some h => (List.range h.count).filterMap (fun e =>
          if h.out e && w.pm ≠ 0#2 then none else some (h.addr sa e, h.esz, false))
      | none => []
    | 0x04 | 0x06 =>
      match m.wzShape w (if opc = 0x04 then 2 else 4) with
      | some h => ((List.range h.count).filter (fun e => !(h.out e && w.pm ≠ 0#2))).map (fun e => (sa + h.esz * e, h.esz, false))
      | none => []
    | _ => []

/-- `wz.copy` and `wz.copyk`, and `wz.rcopy` to the module's own node (R192, R193, R202). -/
def State.wzCopy (s : State) (m : Cmd) (w : WzWord) : WzOut :=
  let src := s.wzRead m (m.a w.sa).toNat (m.s w.ls).toNat
  let out : List SrcByte × U32 := if w.df = 0#7 then (src, srcFlags src) else wzConvert w.df.toNat w.wr.toNat src
  { puts := putsFrom (m.a w.da).toNat out.1, off := out.1.length, flags := out.2, len := out.1.length, sum := out.1.map SrcByte.b }

/-- `wz.fill` (R195). -/
def Cmd.wzFill (m : Cmd) (w : WzWord) : WzOut :=
  let b := (m.s w.ls).toNat
  { puts := putsFrom (m.a w.da).toNat ((List.range b).map (patByte (m.s w.xs))), off := b }

/-- The bytes that a gather brings for element `e`: none where the dense bytes stay unwritten (R197). -/
def State.gatherElem (s : State) (m : Cmd) (w : WzWord) (h : Shape) (e : Nat) : List (Option SrcByte) :=
  if h.out e && w.pm = 1#2 then (List.range h.esz).map (fun i => some (patByte (m.s w.xs) (h.esz * e + i)))
  else if h.out e && w.pm = 2#2 then List.replicate h.esz none
  else (s.wzRead m (h.addr (m.a w.sa).toNat e) h.esz).map some

/-- `wz.gat2` and `wz.gat4` (R197). Bytes that PADS leaves unwritten enter a conversion as free values (log
entry 22). -/
def State.wzGather (s : State) (m : Cmd) (w : WzWord) (ndim : Nat) : WzOut :=
  match m.wzShape w ndim with
  | none => { status := 2 }
  | some h =>
    let da := (m.a w.da).toNat
    let src := (List.range h.count).flatMap (s.gatherElem m w h)
    if w.df = 0#7 then
      let ps := (src.mapIdx (fun i o => o.map (fun x => (da + i, x)))).filterMap id
      { puts := ps, off := ps.length, flags := srcFlags (ps.map (·.2)) }
    else
      let bs := src.mapIdx (fun i o => o.getD { b := (Config.freeWord (s.freeAt 15 i)).setWidth 8, tag := dtOn })
      let out := wzConvert w.df.toNat w.wr.toNat bs
      { puts := putsFrom da out.1, off := out.1.length, flags := out.2 }

/-- `wz.sct2` and `wz.sct4` (R197): later elements win. -/
def State.wzScatter (s : State) (m : Cmd) (w : WzWord) (ndim : Nat) : WzOut :=
  match m.wzShape w ndim with
  | none => { status := 2 }
  | some h =>
    let es := (List.range h.count).filter (fun e => !(h.out e && w.pm ≠ 0#2))
    let r := es.foldl (fun (p : WzPuts × U32) e =>
      let x := s.wzRead m ((m.a w.sa).toNat + h.esz * e) h.esz
      let at' := h.addr (m.a w.da).toNat e
      ((x.mapIdx (fun i b => (at' + i, b))).foldl (fun ps q => sins q.1 q.2 ps) p.1, p.2 ||| srcFlags x)) ([], 0#32)
    { puts := r.1, off := h.esz * es.length, flags := r.2 }

/-- `wz.expd` (R200). DESIGN CHOICE: no rule says which of the B bytes count as read where the stream ends or fails before
them; POI and FMT come from the blocks of the bytes up to OFFSET and of the byte there (log entry 19). -/
def State.wzExpand (s : State) (m : Cmd) (w : WzWord) : WzOut :=
  let src := s.wzRead m (m.a w.sa).toNat (m.s w.ls).toNat
  let x := expand src
  { puts := putsFrom (m.a w.da).toNat (blockBytes x.1), status := if x.2.2 then 3 else 0, off := x.2.1
    flags := srcFlags (src.take (x.2.1 + 1)), len := 64 * x.1.length }

/-- `wz.pack` (R201). -/
def State.wzPack (s : State) (m : Cmd) (w : WzWord) : WzOut :=
  let src := s.wzRead m (m.a w.sa).toNat (m.s w.ls).toNat
  let x : List SrcByte × U32 := if w.df = 0#7 then (src, srcFlags src) else wzConvert w.df.toNat w.wr.toNat src
  let out := packStream ((pieces 64 (x.1.length + 1) x.1).map (fun p => (p.map SrcByte.b, (p.head?.map SrcByte.tag).getD dtZero)))
  { puts := putsFrom (m.a w.da).toNat out, off := out.length, flags := x.2 }

/-- `wz.rcopy` (R202): a copy to this module, or a payload to send; a node that cannot be reached ends it with LINK even
when there is nothing to send. -/
def State.wzRemote (s : State) (m : Cmd) (w : WzWord) : WzOut :=
  if m.node w = s.links.node then s.wzCopy m w
  else
    let src := s.wzRead m (m.a w.sa).toNat (m.s w.ls).toNat
    if !(s.reachable (m.node w)) then { status := 5 }
    else if src.isEmpty then {}
    else { flags := srcFlags src, off := src.length, send := some src }

/-- What a command writes and reports, with its reads at hand. -/
def State.wzAct (s : State) (m : Cmd) (opc : Nat) (w : WzWord) : WzOut :=
  if m.wzBadLen opc w then { status := 1 }
  else
    match opc with
    | 0x00 | 0x01 => s.wzCopy m w
    | 0x02 => m.wzFill w
    | 0x03 => s.wzGather m w 2
    | 0x04 => s.wzScatter m w 2
    | 0x05 => s.wzGather m w 4
    | 0x06 => s.wzScatter m w 4
    | 0x07 => s.wzExpand m w
    | 0x08 => s.wzPack m w
    | 0x09 => s.wzRemote m w
    | _ => {}

/-- The value that a checksum starts from (R194). -/
def Core.wzStart (c : Core) (w : WzWord) : U32 := if w.ci then c.units.wzCarry else 0#32

/-- The checksum of bytes from a start value; kind 1 is CRC-32C, 2 is add32 (R193). -/
def wzSumOf (ck : BitVec 2) (start : U32) (bs : List Byte) : U32 :=
  if ck = 0#2 then 0#32 else if ck = 1#2 then crc32c start bs else add32 start bs

/-- The payload of a remote copy as it goes to its node: for each line of the destination the descriptor and the metadata
of the source block that holds its first byte (R192, R355). -/
def payloadBlocks (da : Nat) (src : List SrcByte) : List (U16 × Option U64) :=
  (splitLines da src.length).map (fun q =>
    match src[64 * q.1 + q.2.1 - da]? with
    | some b => (b.tag, b.swm)
    | none => (dtZero, none))

/-- Sends the payload of a remote copy (R202). -/
def State.wzSend (s : State) (m : Cmd) (w : WzWord) (src : List SrcByte) : State × Cmd :=
  let id := s.nextAcc
  let r : Remote :=
    { id := id, slot := s.slotOf, core := s.coreOf, node := m.node w, launch := s.myCluster.info.launch, da := m.a w.da
      bytes := src.map SrcByte.b, blocks := payloadBlocks (m.a w.da).toNat src, ck := w.ck, start := m.data.carry }
  ({ s with nextAcc := id + 1, links := { s.links with sent := s.links.sent ++ [r] } },
    { m with data := { m.data with sent := true, remote := none, i0 := id } })

/-- Replaces a Winze command by its next form. -/
def State.putWz (s : State) (pos : Nat) (m : Cmd) : State := s.updMe (fun c => c.updCmd .wz pos (fun _ => m))

/-- A command waits for a page, or raises a fault at the next boundary and runs again from its start (R189). -/
def State.wzStop (s : State) (pos : Nat) (m : Cmd) (a : Nat) (write : Bool) (x : WzAt) : State :=
  match x with
  | .fault code =>
    let s := if code = 3 then s.report s.myCluster.info.launch (s.translate s.myCluster.info a) else s
    ((s.dropReplies (m.data.reads.map (·.2))).updMe (fun c => c.updCmd .wz pos Cmd.restart)).updMine (fun c =>
      { c with lateIn := c.lateIn ++ [{ cls := 6, strm := s.coreOf, eng := true, code := code, tval := BitVec.ofNat 64 a }] })
  | _ => s.putWz pos { m with held := some (BitVec.ofNat 64 a, write) }

/-- The walks for some ranges meet the errors that stand in the page tables (R357). -/
def State.wzWalks (s : State) (rs : List (Nat × Nat × Bool)) : State :=
  if s.fire.loc.isNone then s
  else rs.foldl (fun s r => (splitLines r.1 r.2.1).foldl (fun s q =>
    if 64 * q.1 < 2 ^ 57 then s.walked s.myCluster.info (64 * q.1) else s) s) s

/-- The first part of a command: its shape block, then its read accesses, once every address can be read. -/
def State.wzBegin (s : State) (pos : Nat) (m : Cmd) (opc : Nat) (w : WzWord) : State :=
  let s := if readsShape opc then s.windowsMet s.myCluster.info [(m.a w.pa).toNat, (m.a w.pa).toNat + 63] else s
  let m := s.wzTakeShape m opc w
  let rs := m.wzNeeds opc w
  let s := s.wzWalks rs
  match s.wzBad rs with
  | some (a, wr, x) => s.wzStop pos m a wr x
  | none =>
    let r := s.wzFetch m rs
    r.1.putWz pos r.2

/-- The scratchpad lines that a command reads. -/
def Cmd.padLines (m : Cmd) (opc : Nat) (w : WzWord) : List Nat := (wzLines (m.wzNeeds opc w)).filter isPad

/-- Reads the scratchpad lines that a command has not read yet. -/
def State.takePads (s : State) (m : Cmd) (opc : Nat) (w : WzWord) : Cmd :=
  ((m.padLines opc w).filter (fun a => !(m.hasPad a))).foldl s.takePad m

/-- The last part of a command, once its reads have come: the scratchpad lines and the writes that are left, once every
address can be written, or the sending of its payload. -/
def State.wzGoOn (s : State) (pos : Nat) (m : Cmd) (opc : Nat) (w : WzWord) : State :=
  let m := s.takePads m opc w
  let o := s.wzAct m opc w
  let ls := m.unwritten o.puts
  let s := s.wzWalks (ls.map putRange)
  match s.wzBad (ls.map putRange) with
  | some (a, wr, x) => s.wzStop pos m a wr x
  | none =>
    let r := s.wzWrite m w.dc ls
    let m := { m with
      dur := wzLeast (max (m.s w.ls).toNat o.len)
      data := { m.data with phase := 2, writes := m.data.writes ++ r.2, status := o.status, n := o.off, flags := o.flags, lists := [o.sum] } }
    let t := r.1.dropReplies (m.data.reads.map (·.2))
    match o.send with
    | some src => (fun p => p.1.putWz pos p.2) (t.wzSend m w src)
    | none => t.putWz pos m

/-- The next part of a running command, if its turn has come (R322, step 5). -/
def State.wzAdvance (s : State) (pos : Nat) : Option State :=
  match s.me.units.wzq[pos]? with
  | none => none
  | some m =>
    match wzOf m.instr with
    | none => none
    | some (o, w) =>
      let m := { m with held := none }
      if m.opc = 0x0A || m.el.isNone || m.chain.isSome then none
      else if m.data.phase = 0 then some (s.wzBegin pos m o w)
      else if m.data.phase = 1 && s.allArrived (m.data.reads.map (·.2)) then some (s.wzGoOn pos m o w)
      else none

/-- A command has still to read the line that an address names now: no write of its own reaches it before (R192, overlap). -/
def State.wzUnread (s : State) (m : Cmd) (opc : Nat) (w : WzWord) (x : WzAt) : Bool :=
  (wzLines (m.wzNeeds opc w)).any (fun a => s.wzAt a false = x &&
    (if isPad a then !(m.hasPad a)
     else !(m.data.reads.any (fun p => p.1 = a % 2 ^ 64 && s.replies.any (fun r => r.id = p.2)))))

/-- What one location is called at the line of an address. -/
def WzAt.line : WzAt → WzAt
  | .mem pa => .mem (pa / 64 * 64)
  | .loc c off => .loc c (off / 64 * 64)
  | x => x

/-- Writes line `n` of a destination ahead of the others, where everything that goes into it has been read: copies without
conversion, fills, gathers and scatters (R322, step 5; log entry 21). -/
def State.wzEarly (s : State) (pos : Nat) (m : Cmd) (opc : Nat) (w : WzWord) (n : Nat) : Option State :=
  match (putLines (s.wzAct m opc w).puts)[n]? with
  | none => none
  | some l =>
    let to' := s.wzAt (putRange l).1 true
    if w.df ≠ 0#7 || opc = 7 || opc = 8 || !(l.2.all (fun x => x.2.ok)) || m.data.wrote.contains l.1 || s.wzUnread m opc w to'.line then none
    else match s.wzBad [putRange l] with
      | some (a, wr, x) => some (s.wzStop pos m a wr x)
      | none =>
        let r := s.wzWrite m w.dc [l]
        some (r.1.putWz pos { m with data := { m.data with writes := m.data.writes ++ r.2, wrote := m.data.wrote ++ [l.1] } })

/-- One access of a running command by itself: it reads line `n` of its scratchpad lines, or writes line `n` of its
destination (R322, step 5). -/
def State.wzPart (s : State) (pos : Nat) (write : Bool) (n : Nat) : Option State :=
  match s.me.units.wzq[pos]? with
  | none => none
  | some m =>
    match wzOf m.instr with
    | none => none
    | some (o, w) =>
      let m := { m with held := none }
      if m.el.isNone || m.chain.isSome || m.data.phase ≠ 1 then none
      else if write then s.wzEarly pos m o w n
      else ((m.padLines o w)[n]?).bind (fun a => if m.hasPad a then none else some (s.putWz pos (s.takePad m a)))

/-- What a command reports at its end: STATUS, OFFSET and CKV, with the carry that it leaves (R190, R194, R202). -/
def State.wzEnd (s : State) (m : Cmd) (opc : Nat) (w : WzWord) : State × Nat × Nat × U32 :=
  let ended : Option Nat := match m.data.remote with | some .rpage => some 6 | some .link => some 5 | _ => none
  match ended with
  | some st => (s, st, 0, 0#32)
  | none =>
    if m.data.status ≠ 0 && m.data.status ≠ 4 then (s, m.data.status, m.data.n, 0#32)
    else if w.ck = 0#2 || opc ∉ [0x01, 0x09] then (s, m.data.status, m.data.n, 0#32)
    else
      let v := if m.data.sent then BitVec.ofNat 32 m.data.width else wzSumOf w.ck m.data.carry (m.data.lists.headD [])
      (s.updMe (fun c => { c with units := { c.units with wzCarry := v } }), if w.ce && v ≠ m.s w.xs then 4 else 0, m.data.n, v)

/-! ## The words -/

/-- A `wz` word: it captures the registers its fields name (R188, R236). -/
def wzIssue (i : Instr) (w : WzWord) (s : State) : Host.Outcome State Fault Refusal :=
  engIssue i [kA w.sa.toNat, kA w.da.toNat, kA w.pa.toNat, kS w.ls.toNat, kS w.xs.toNat] (fun _ => 0#4096) id s

/-- `wz.copy` (R192). -/
def execWzCopy (w : WzWord) (s : State) : Host.Outcome State Fault Refusal := wzIssue (.wzCopy w) w s

/-- `wz.copyk` (R192, R193). -/
def execWzCopyk (w : WzWord) (s : State) : Host.Outcome State Fault Refusal := wzIssue (.wzCopyk w) w s

/-- `wz.fill` (R195). -/
def execWzFill (w : WzWord) (s : State) : Host.Outcome State Fault Refusal := wzIssue (.wzFill w) w s

/-- `wz.gat2` (R197). -/
def execWzGat2 (w : WzWord) (s : State) : Host.Outcome State Fault Refusal := wzIssue (.wzGat2 w) w s

/-- `wz.sct2` (R197). -/
def execWzSct2 (w : WzWord) (s : State) : Host.Outcome State Fault Refusal := wzIssue (.wzSct2 w) w s

/-- `wz.gat4` (R197). -/
def execWzGat4 (w : WzWord) (s : State) : Host.Outcome State Fault Refusal := wzIssue (.wzGat4 w) w s

/-- `wz.sct4` (R197). -/
def execWzSct4 (w : WzWord) (s : State) : Host.Outcome State Fault Refusal := wzIssue (.wzSct4 w) w s

/-- `wz.expd` (R200). -/
def execWzExpd (w : WzWord) (s : State) : Host.Outcome State Fault Refusal := wzIssue (.wzExpd w) w s

/-- `wz.pack` (R201). -/
def execWzPack (w : WzWord) (s : State) : Host.Outcome State Fault Refusal := wzIssue (.wzPack w) w s

/-- `wz.rcopy` (R202). -/
def execWzRcopy (w : WzWord) (s : State) : Host.Outcome State Fault Refusal := wzIssue (.wzRcopy w) w s

/-- `wz.mark` (R203). -/
def execWzMark (w : WzWord) (s : State) : Host.Outcome State Fault Refusal := wzIssue (.wzMark w) w s

end Sys2Proof.Machine
end

