-- ==== Sys2Proof/Machine/Rings.lean ====
section
/-!
DEFINITION. The collective engine (spec/17 R395-R401): rings, doorbells, descriptors, tables, the fixed order of
combination, quorums, and completion areas.
-/
namespace Sys2Proof.Machine

open Sys2Proof

/-- A step whose conditions do not hold. -/
def notYet (row : String) : Host.Outcome State Fault Refusal := .refused (.notEnabled row)

/-! ## Descriptors (R395) -/

/-- Fields of a descriptor. -/
def dField (d : List Byte) (o n : Nat) : Nat := leNat ((d.drop o).take n)
def dOp (d : List Byte) : Nat := dField d 0 1
def dTopo (d : List Byte) : Nat := dField d 1 1
def dRed (d : List Byte) : Nat := dField d 2 1
def dDt (d : List Byte) : Nat := dField d 3 1
def dQuorum (d : List Byte) : Bool := bitAt (dField d 4 2) 0
def dEf (d : List Byte) : Bool := bitAt (dField d 4 2) 1
def dTable (d : List Byte) : Nat := dField d 0x08 8
def dSrc (d : List Byte) : Nat := dField d 0x10 8
def dDst (d : List Byte) : Nat := dField d 0x18 8
def dLen (d : List Byte) : Nat := dField d 0x20 4
def dLead (d : List Byte) : Nat := dField d 0x24 4
def dEfb (d : List Byte) : Nat := dField d 0x28 8
def dDeadline (d : List Byte) : Nat := dField d 0x30 8
def dDone (d : List Byte) : Nat := dField d 0x38 8

/-- The format sent on the wire is a block format (R401). -/
def dWire (d : List Byte) : Bool := dDt d = 3 || dDt d = 4

/-- A descriptor that is BADDESC (R395). -/
def badDesc (d : List Byte) : Bool :=
  !(1 ≤ dOp d && dOp d ≤ 3) || 1 < dTopo d || 4 < dRed d || !([0x22, 0x20, 3, 4, 0].contains (dDt d)) ||
  ((3 ≤ dRed d) != (dDt d = 0)) || (dEf d && !(dWire d)) || (dQuorum d && dTopo d = 1) ||
  3 < dField d 4 2 || dField d 6 2 ≠ 0 || dLen d % 256 ≠ 0

/-! ## Tables (R397) -/

/-- The entries of a table: NODE, PARENT, MEMBER, and whether a reserved bit is set. -/
def tableOf (bs : List Byte) : List ((BitVec 20 × BitVec 20 × Bool) × Bool) :=
  (pieces 8 (bs.length + 1) bs).map (fun p =>
    let x := leNat p
    ((BitVec.ofNat 20 x, BitVec.ofNat 20 (x / 2 ^ 20), bitAt x 40), x / 2 ^ 41 ≠ 0))

/-- No parent. -/
def noParent : BitVec 20 := 0xFFFFF#20

/-- Nodes named by entries before each. -/
def firstTwice : List (BitVec 20) → List (BitVec 20) → Nat → Option Nat
  | _, [], _ => none
  | seen, x :: xs, i => if seen.contains x then some i else firstTwice (x :: seen) xs (i + 1)

/-- The first failure of the entries of a table in the order of R397: its code, and the failing entry (0xFFFFFFFF for none
of them). -/
def tableFails (ring : Bool) (es : List ((BitVec 20 × BitVec 20 × Bool) × Bool)) (self : BitVec 20) : Option (Nat × Nat) :=
  let all := 0xFFFFFFFF
  let find (f : Nat → (BitVec 20 × BitVec 20 × Bool) → Bool) : Option Nat := ((es.map (·.1)).zipIdx.find? (fun p => f p.2 p.1)).map (·.2)
  let code (c : Nat) (o : Option Nat) : Option (Nat × Nat) := o.map (fun e => (c, e))
  (code 1 ((es.zipIdx.find? (fun p => p.1.2)).map (·.2))).orElse fun _ =>
  (if ring then none else
    (code 2 (find (fun i e => i = 0 && e.2.1 ≠ noParent))).orElse fun _ =>
    (code 3 (find (fun i e => i ≠ 0 && e.2.1 ≠ noParent && i ≤ e.2.1.toNat))).orElse fun _ =>
    code 4 (find (fun i e => i ≠ 0 && e.2.1 = noParent))).orElse fun _ =>
  (code 5 (firstTwice [] (es.map (fun e => e.1.1)) 0)).orElse fun _ =>
  (code 6 (if es.any (fun e => e.1.1 = self) then none else some all)).orElse fun _ =>
  if ring then code 7 (if es.length < 2 then some all else find (fun _ e => e.2.1 ≠ noParent)) else none

/-- The head of a table fails under code 1: COUNT is out of range or a reserved bit is set (R397). -/
def tableHeadBad (h : List Byte) : Bool :=
  dField h 0 4 = 0 || 2 ^ 20 < dField h 0 4 || dField h 4 8 ≠ 0 || dField h 12 4 ≠ 0

/-- The depth of an entry of a tree. -/
def depthOf (t : List (BitVec 20 × BitVec 20 × Bool)) : Nat → Nat → Nat
  | 0, _ => 0
  | n + 1, i =>
    match t[i]? with
    | some e => if e.2.1 = noParent then 0 else 1 + depthOf t n e.2.1.toNat
    | none => 0

/-- The entries whose parent an entry is. -/
def Run.children (r : Run) : List Nat :=
  if dTopo r.desc = 1 then (if r.self = 0 then [] else [r.self - 1])
  else (List.range r.table.length).filter (fun i => match r.table[i]? with | some e => e.2.1.toNat = r.self && e.2.1 ≠ noParent | none => false)

/-- The entry that gives the result: the root of a tree, the last of a ring. -/
def Run.isRoot (r : Run) : Bool := if dTopo r.desc = 1 then r.self + 1 = r.table.length else r.self = 0

/-- The node of an entry. -/
def Run.node (r : Run) (i : Nat) : List (BitVec 20) := (r.table[i]?.map (fun e => [e.1])).getD []

/-- The node that the entry sends its partial to: its parent's, in a ring the next. -/
def Run.up (r : Run) : List (BitVec 20) :=
  if dTopo r.desc = 1 then r.node (r.self + 1)
  else match r.table[r.self]? with
    | some e => if e.2.1 = noParent then [] else r.node e.2.1.toNat
    | none => []

/-- The neighbours of the entry: those it sends to or receives from. -/
def Run.neighbours (r : Run) : List (BitVec 20) := r.up ++ r.children.flatMap r.node

/-- The other members of the collective. -/
def Run.others (r : Run) : List (BitVec 20) := ((r.table.zipIdx).filter (fun p => p.2 ≠ r.self)).map (fun p => p.1.1)

/-- An entry lies in the subtree of another. -/
def under (t : List (BitVec 20 × BitVec 20 × Bool)) (top : Nat) : Nat → Nat → Bool
  | 0, i => i = top
  | n + 1, i => i = top || (match t[i]? with
      | some e => e.2.1 ≠ noParent && under t top n e.2.1.toNat
      | none => false)

/-! ## Values (R398, R401) -/

/-- The values of wire blocks or of FP32 data; a block that is poison gives poison. -/
def collVals (d : List Byte) (x : List Byte × List U16) : List Val :=
  let bl := pieces 64 (x.1.length + 1) x.1
  (bl.zipIdx).flatMap (fun p =>
    let tag := x.2.getD p.2 0x44FF#16
    if dWire d then (List.range 64).map (fun i => (decLine 1 (dDt d) tag (leNat ((p.1.drop i).take 1))).v)
    else (List.range 16).map (fun i => (decLine 4 0x22 tag (leNat ((p.1.drop (4 * i)).take 4))).v))

/-- Values as FP32 data, or as blocks of the wire format under RNE with SAT (R401). -/
def collData (d : List Byte) (vs : List Val) : List Byte × List U16 :=
  if dWire d then
    let r := convRun (dDt d) { sat := true } false true (vs.map (fun v => (({ v := v } : Dec), 0)))
    (r.1.flatMap (·.1), r.1.map (·.2))
  else
    let bl := pieces 16 (vs.length + 1) vs
    (bl.flatMap (fun b => if b.contains .poison then List.replicate 64 0#8 else b.flatMap (fun v => leBytes 4 (toF32 v).1)),
      bl.map (fun b => if b.contains .poison then 0xFFFF#16 else 0x44FF#16))

/-- Combines two values (R398). -/
def collOp (d : List Byte) (a b : Val) : Val :=
  if dRed d = 0 then (let v := (vadd false a b).1; if v.bad then v else ofF32 (toF32 v).1)
  else if dRed d = 1 then vmax a b
  else vmin a b

/-- The draw pairs of some data: every pair of a poison block is poison (R266). -/
def collPairs (x : List Byte × List U16) : List U64 :=
  ((pieces 8 (x.1.length + 1) x.1).zipIdx).map (fun p =>
    if tagPoison (x.2.getD (p.2 / 8) 0x00FF#16) then poisonPair else BitVec.ofNat 64 (leNat p.1))

/-- Combines a partial into what an entry holds; `i` is the entry, `j` counts its merges (R398). -/
def collStep (d : List Byte) (i j : Nat) (a b : List Byte × List U16) : List Byte × List U16 :=
  if dDt d = 0 then
    let out := ((List.zipWith (fun x y => (x, y)) (collPairs a) (collPairs b)).zipIdx).flatMap (fun p =>
      let n : U64 := BitVec.ofNat 64 (i * 2 ^ 44 + p.2 * 2 ^ 20 + j)
      let u : U32 := (mix (BitVec.ofNat 64 (dEfb d)) n >>> 32).setWidth 32
      leBytes 8 (mergePair p.1.1 p.1.2 (dRed d = 4) u).1.toNat)
    (out, a.2.map (fun _ => 0x00FF#16))
  else collData d (List.zipWith (collOp d) (collVals d a) (collVals d b))

/-- The value with which no contribution stands (R400). -/
def collEmpty (d : List Byte) : List Byte × List U16 :=
  if dDt d = 0 then ((List.replicate (dLen d / 8) (leBytes 8 emptyPair.toNat)).flatten, List.replicate (dLen d / 64) 0x00FF#16)
  else
    let n := if dDt d = 0x20 then dLen d / 2 else dLen d / 4
    collData d (List.replicate n (if dRed d = 0 then .fin false 0 0 else .nan))

/-- The entry has a contribution of its own: in a broadcast entry 0 alone. -/
def Run.gives (r : Run) : Bool := dOp r.desc ≠ 3 || r.self = 0

/-- The entries that have been heard of: this one, and those that the partials included name. In a broadcast an entry
without a contribution sends word that its table is sound (R397, R404). -/
def Run.included (r : Run) : List Nat :=
  sortBy (fun a b => a ≤ b) ((if r.own.isSome || !r.gives then [r.self] else []) ++ r.parts.flatMap (fun p => p.2.1))

/-- The mask of contributions that an entry holds. -/
def Run.mask (r : Run) : List Nat := if dOp r.desc = 3 then r.included.filter (· = 0) else r.included

/-- A partial brings data: one without a contribution is not combined (R398). -/
def brings (d : List Byte) (p : Nat × List Nat × List (BitVec 8) × List U16) : Bool :=
  if dOp d = 3 then p.2.1.contains 0 else !(p.2.1.isEmpty)

/-- What an entry holds, combined in the fixed order; none when nothing contributed (R398, R400). Blocks of a wire format are
decoded, their values combined, and the sum is compressed once; what a leaf gives is sent as it is (R401). -/
def Run.value (r : Run) : Option (List Byte × List U16) :=
  let parts := (sortBy (fun a b => a.1 ≤ b.1) (r.parts.filter (brings r.desc))).map (fun p => (p.2.2.1, p.2.2.2))
  let all := if dTopo r.desc = 1 then parts ++ r.own.toList else r.own.toList ++ parts
  match all with
  | [] => none
  | v :: vs =>
    some (if dWire r.desc && !(parts.isEmpty) then
        collData r.desc (vs.foldl (fun a p => List.zipWith (collOp r.desc) a (collVals r.desc p)) (collVals r.desc v))
      else (vs.zipIdx).foldl (fun a p => collStep r.desc r.self p.2 a p.1) v)

/-! ## Completion (R399) -/

/-- The 64 bytes of a completion area. -/
def doneLine (status entry contrib late : Nat) : List Byte :=
  leBytes 4 (2 ^ 31 + status) ++ leBytes 4 entry ++ leBytes 4 contrib ++ leBytes 4 late ++ List.replicate 48 0#8

/-- The bytes of a mask of `count` entries. -/
def maskBytes (count : Nat) (mask : List Nat) : List Byte :=
  (List.range (ceilDiv count 8)).map (fun j => BitVec.ofNat 8 (((List.range 8).filter (fun i => mask.contains (8 * j + i))).foldl (fun a i => a + 2 ^ i) 0))

/-- The keys of a session may be used no more (R403): 2^32 frames, or 2^36 DCC cycles, would be reached. -/
def Session.spent (x : Session) (dcc : Nat) : Bool := 2 ^ 32 ≤ x.frames + 1 || x.since + 2 ^ 36 ≤ dcc + 1

/-- The GCM nonce of a frame: the session identifier, then the counter (R403). -/
def Session.nonce (x : Session) (counter : U64) : BitVec 96 := x.sid ++ counter

/-- Sends a message in a session as a frame (R403). -/
def Session.send (x : Session) (m : CollMsg) : Session :=
  { x with out := x.out ++ [(x.nonce x.sent, m)], sent := x.sent + 1, frames := x.frames + 1 }

/-- A node can be reached: over a Levanter port that is up, or in a session whose keys may be used (R391, R402, R403). -/
def State.linked (s : State) (m : BitVec 20) : Bool :=
  s.reachable m || s.sessions.any (fun q => q.node = m && !(q.spent s.dcc.toNat))

/-- Sends a message to nodes: a node that no port reaches gets it as a frame of its session. -/
def State.sendTo (s : State) (m : CollMsg) (nodes : List (BitVec 20)) : State :=
  nodes.foldl (fun s v =>
    if s.reachable v then s
    else match s.sessions.findIdx? (fun q => q.node = v && !(q.spent s.dcc.toNat)) with
      | some i => { s with sessions := lmod (fun q => q.send m) i s.sessions }
      | none => s) s

/-- The engine sends a message of the collective of a ring. -/
def State.collSend (s : State) (n : Nat) (m : CollMsg) (nodes : List (BitVec 20)) : State :=
  (s.updRing n (fun r => { r with sent := r.sent ++ [m] })).sendTo m nodes

/-- Ends the collective of a ring: the completion area is written, or FLT is set (R396, R399). DONE is an address of the
descriptor as well: where it does not translate PGF is set too, and after a result an abort goes out outside QUORUM. -/
def State.collEnd (s : State) (n : Nat) (r : Ring) (x : Run) (status entry : Nat) (mask : List Nat) : State :=
  let t := s.ringTeam r
  let done := dDone x.desc
  let count := x.table.length
  let s := if s.vaOk t true done (64 + ceilDiv count 8) then
      let s := s.vaWrite t (done + 64) (maskBytes count mask) (fun _ => 0x00FF#16)
      s.vaWrite t done (doneLine status entry mask.length x.late) (fun _ => 0x00FF#16)
    else
      let s := ((s.vaReport t true done (64 + ceilDiv count 8)).ringErr r 1).ringErr r 2
      if status = 0 && !(dQuorum x.desc) then s.collSend n .abort x.neighbours else s
  s.updRing n (fun r => { r with run := none, last := some x, early := r.early.filter (fun e => e.1 ≠ x.index) })

/-- Ends a collective with word to the members that it sends to or hears from, who end as well (R396, R397, R399). -/
def State.collStop (s : State) (n : Nat) (r : Ring) (x : Run) (m : CollMsg) (status : Nat) : State :=
  (s.collSend n m x.neighbours).collEnd n r x status 0xFFFFFFFF []

/-- An address of a descriptor failed translation: PGF, and an abort outside QUORUM; under QUORUM the module
contributes and forwards nothing until its close (R396). A malformed entry is reported (R364). -/
def State.collPage (s : State) (n : Nat) (r : Ring) (x : Run) (write : Bool) (va len : Nat) : State :=
  let s := (s.vaReport (s.ringTeam r) write va len).ringErr r 2
  if dQuorum x.desc then s.updRing n (fun r => { r with run := some { x with page := true, own := none, parts := [], late := x.late + x.parts.length } })
  else s.collStop n r x .abort 6

/-- The bytes that DST takes (R398, R401). -/
def collDst (d : List Byte) (x : List Byte × List U16) : List Byte × List U16 :=
  if dDt d = 0 then x
  else if dWire d then
    let vs := collVals d x
    let bl := pieces 16 (vs.length + 1) vs
    (bl.flatMap (fun b => if b.contains .poison then List.replicate 64 0#8 else b.flatMap (fun v => leBytes 4 (toF32 v).1)),
      bl.map (fun b => if b.contains .poison then 0xFFFF#16 else 0x44FF#16))
  else if dDt d = 0x20 then
    let vs := collVals d x
    let bl := pieces 32 (vs.length + 1) vs
    (bl.flatMap (fun b => if b.contains .poison then List.replicate 64 0#8 else b.flatMap (fun v => leBytes 2 (rndVal bf16 rne v).1)),
      bl.map (fun b => if b.contains .poison then 0xFFFF#16 else 0x40FF#16))
  else x

/-- Delivers a result on this member: DST, then MASK and the completion area (R399). -/
def State.collDeliver (s : State) (n : Nat) (r : Ring) (x : Run) (mask : List Nat) (v : List Byte × List U16) : State :=
  let t := s.ringTeam r
  if x.page then s.collEnd n r x 6 0xFFFFFFFF mask
  else
    let o := collDst x.desc v
    if s.vaOk t true (dDst x.desc) o.1.length then
      (s.vaWrite t (dDst x.desc) o.1 (fun k => o.2.getD (k / 64) 0x00FF#16)).collEnd n r x 0 0xFFFFFFFF mask
    else
      let s := (s.vaReport t true (dDst x.desc) o.1.length).ringErr r 2
      if dQuorum x.desc then s.collEnd n r x 6 0xFFFFFFFF mask else s.collStop n r x .abort 6

/-- Whether an entry waits for nothing more: all children's partials and its own, or under QUORUM every MEMBER of
its subtree. -/
def Run.complete (r : Run) : Bool :=
  if dQuorum r.desc then
    (List.range r.table.length).all (fun i => match r.table[i]? with
      | some e => !(e.2.2 && under r.table r.self r.table.length i) || r.included.contains i
      | none => true)
  else (!r.gives || r.own.isSome) && r.children.all (fun c => r.parts.any (fun p => p.1 = c))

/-- Digest of a table, as the first message carries it. -/
def tableDigest (t : List (BitVec 20 × BitVec 20 × Bool)) : BitVec 512 :=
  Config.sha512 (leBytes 4 t.length ++ List.replicate 12 0#8 ++
    t.flatMap (fun e => leBytes 8 (e.1.toNat + e.2.1.toNat * 2 ^ 20 + if e.2.2 then 2 ^ 40 else 0)))

/-- Forwards the partial of an entry, or at the root delivers and broadcasts the result; a root that cannot write its own
DST broadcasts nothing (R396). -/
def State.collForward (s : State) (n : Nat) (r : Ring) (x : Run) : State :=
  let v := (x.value).getD (if dOp x.desc = 3 && !x.isRoot then ([], []) else collEmpty x.desc)
  let y := { x with forwarded := true }
  if x.isRoot then
    let ok := s.vaOk (s.ringTeam r) true (dDst x.desc) (collDst x.desc v).1.length
    let s := if ok then s.collSend n (.result (tableDigest x.table) x.mask v.1 v.2) x.others else s
    s.collDeliver n r y x.mask v
  else
    (s.collSend n (.part x.self (tableDigest x.table) x.included v.1 v.2) x.up).updRing n (fun r => { r with run := some y })

/-- Goes on with a collective as far as it can. -/
def State.collGo (s : State) (n : Nat) (r : Ring) (x : Run) : State :=
  if x.complete && !x.forwarded && !x.page then s.collForward n r x
  else s.updRing n (fun r => { r with run := some x })

/-- The DCC value at which an entry closes (R400). -/
def Run.close (r : Run) : Int := (dDeadline r.desc : Int) - r.depth * dLead r.desc

/-- The collective was posted in time for the entry's own contribution to count (R400). -/
def Run.inTime (r : Run) : Bool := !(dQuorum r.desc) || (r.posted : Int) ≤ r.close

/-- Takes a partial that came at a DCC value: it is included, or discarded and counted as late (R396, R400). -/
def Run.takePart (r : Run) (at' entry : Nat) (mask : List Nat) (data : List Byte) (descs : List U16) : Run :=
  if r.page || (dQuorum r.desc && (r.forwarded || r.close < (at' : Int))) then { r with late := r.late + 1 }
  else { r with parts := r.parts ++ [(entry, mask, data, descs)] }

/-- A partial is one that the entry waits for. -/
def Run.awaits (r : Run) (entry : Nat) : Bool := r.children.contains entry && !(r.parts.any (fun p => p.1 = entry))

/-- What a message that came at a DCC value does to the collective under way: an abort, word that a member cannot be
reached, and word that tables differ are passed on (R396-R400). -/
def State.collTake (s : State) (n : Nat) (r : Ring) (x : Run) (at' : Nat) (m : CollMsg) : State :=
  let quorum := dQuorum x.desc
  match m with
  | .part entry digest mask data descs =>
    if x.page && quorum then s.updRing n (fun r => { r with run := some { x with late := x.late + 1 } })
    else if digest ≠ tableDigest x.table then s.collStop n r x .mismatch 2
    else if !(x.awaits entry) then s
    else s.collGo n r (x.takePart at' entry mask data descs)
  | .result digest mask data descs =>
    if !x.page && digest ≠ tableDigest x.table then s.collStop n r x .mismatch 2
    else s.collDeliver n r x mask (data, descs)
  | .abort => if quorum then s else s.collStop n r x .abort 7
  | .unreachable => if quorum then s else s.collStop n r x .unreachable 3
  | .mismatch => s.collStop n r x .mismatch 2

/-- A message for a collective that has ended: under QUORUM a partial is late, and LATE in the completion area follows, as
long as no other collective of the ring has ended since (R400, R404). -/
def State.collAfter (s : State) (n : Nat) (r : Ring) (index : U32) (m : CollMsg) : State :=
  match r.last, m with
  | some x, .part .. =>
    if x.index = index && dQuorum x.desc then
      let s := s.updRing n (fun r => { r with last := some { x with late := x.late + 1 } })
      let t := s.ringTeam r
      if s.vaOk t true (dDone x.desc) 16 then s.vaWrite t (dDone x.desc + 12) (leBytes 4 (x.late + 1)) (fun _ => 0x00FF#16) else s
    else s
  | _, _ => s

/-- A message of descriptor `index` of a ring: for the collective under way, for one not started yet, which it waits for, or
for one that has ended. -/
def State.collMessage (s : State) (n : Nat) (index : U32) (at' : Nat) (m : CollMsg) : State :=
  match s.rings[n]? with
  | none => s
  | some r =>
    match r.run with
    | some x =>
      if x.index = index then s.collTake n r x at' m
      else if (index - r.head).toNat < 2 ^ 31 then s.updRing n (fun r => { r with early := r.early ++ [(index, at', m)] })
      else s.collAfter n r index m
    | none =>
      if (index - r.head).toNat < 2 ^ 31 then s.updRing n (fun r => { r with early := r.early ++ [(index, at', m)] })
      else s.collAfter n r index m

/-- A neighbour of the entry failed a check of session setup and cannot be reached: the collective needs a session that it
does not get (R402). -/
def State.keyFails (s : State) (x : Run) : Bool := x.neighbours.any (fun m => s.links.refused.contains m && !(s.linked m))

/-- A member cannot be reached, outside QUORUM (R399). -/
def State.cutOff (s : State) (x : Run) : Bool := !(dQuorum x.desc) && x.others.any (fun m => !(s.linked m))

/-- Ends a collective that a link or a session has cut off: with KEYFAIL, or with LINK (R399, R402). -/
def State.collCut (s : State) (n : Nat) (r : Ring) (x : Run) : State :=
  s.collStop n r x .unreachable (if s.keyFails x then 5 else 3)

/-- The contribution of this module: its data in the form that is sent, and its error-feedback buffer after
(R401). -/
def collOwn (d : List Byte) (src : List (Byte × U16)) (efb : List (Byte × U16)) : (List Byte × List U16) × List Byte :=
  let bytes := src.map (·.1)
  if dDt d = 0 then
    let tag (p : List (Byte × U16)) : U16 := if (p.head?.map (fun b => tagPoison b.2)).getD false then 0xFFFF#16 else 0x00FF#16
    ((bytes, (pieces 64 (src.length + 1) src).map tag), [])
  else
    let w := if dDt d = 0x20 then 2 else 4
    let named := if dDt d = 0x20 then 0x20 else 0x22
    let val (xs : List (Byte × U16)) (i : Nat) : Val :=
      (decLine w named ((xs.drop (w * i)).head?.map (·.2) |>.getD 0x00FF#16) (leNat (((xs.drop (w * i)).take w).map (·.1)))).v
    let n := bytes.length / w
    let es := (List.range n).map (fun i =>
      if dEf d then (let v := (vadd false (val src i) (val efb i)).1; if v.bad then v else ofF32 (toF32 v).1) else val src i)
    let out := collData d es
    let back := if dEf d then
        ((List.zipWith (fun (e q : Val) => (toF32 (vadd false e q.neg).1).1) es (collVals d out)).flatMap (leBytes 4))
      else []
    (out, back)

/-! ## Rows -/

/-- COLLECTIVE_RING_MAP: the driver maps a ring with its SIZE into a launch's space, on writable pages of ECC grade 1; its
control line and its slots are set up (R396). -/
def execCollectiveRingMap (s : State) : Host.Outcome State Fault Refusal :=
  match s.inp with
  | .ringMap launch crb size =>
    let r : Ring := { launch := launch, crb := crb, size := size }
    let t := s.ringTeam r
    let n := 64 + 64 * size.toNat
    if (s.launchOf launch).isNone || crb.toNat % 65536 ≠ 0 || !([16, 32, 64, 128, 256, 512, 1024, 2048, 4096].contains size.toNat) ||
        s.rings.any (fun q => q.launch = launch) || (s.ringPa r).isNone || !(s.vaOk t true crb.toNat n && s.vaFirst t crb.toNat n) then
      notYet "COLLECTIVE_RING_MAP"
    else
      let line := List.replicate 8 0#8 ++ leBytes 4 size.toNat ++ List.replicate (n - 12) 0#8
      let w := s.vaWrite t crb.toNat line (fun _ => 0x00FF#16)
      .next { w with rings := w.rings ++ [r] }
  | _ => notYet "COLLECTIVE_RING_MAP"

/-- The partials that came before the collective started are taken by the DCC at which they came (R400). -/
def Run.withEarly (x : Run) (r : Ring) : Run :=
  r.early.foldl (fun x e =>
    match e.2.2 with
    | .part entry digest mask data descs =>
      if e.1 = x.index && digest = tableDigest x.table && x.awaits entry then x.takePart e.2.1 entry mask data descs else x
    | _ => x) x

/-- A message that had to wait for its collective and is no partial of its own table. -/
def Run.pending (x : Run) (e : U32 × Nat × CollMsg) : Bool :=
  e.1 = x.index && (match e.2.2 with | .part _ digest .. => digest ≠ tableDigest x.table | _ => true)

/-- The module's own part of a collective: its contribution is read, and the collective goes on (R396, R398-R401). -/
def State.collJoin (s : State) (n : Nat) (r : Ring) (x : Run) : State :=
  let d := x.desc
  let t := s.ringTeam r
  if !x.gives || !x.inTime then s.collGo n r x
  else if !(s.vaOk t false (dSrc d) (dLen d)) then s.collPage n r x false (dSrc d) (dLen d)
  else if dEf d && !(s.vaOk t true (dEfb d) (dLen d)) then s.collPage n r x true (dEfb d) (dLen d)
  else if dEf d && !(s.vaOk t false (dEfb d) (dLen d)) then s.collPage n r x false (dEfb d) (dLen d)
  else
    let src := s.vaRead t (dSrc d) (dLen d)
    let efb := if dEf d then src.1.vaRead t (dEfb d) (dLen d) else (src.1, [])
    let o := collOwn d src.2 efb.2
    let s := if dEf d then efb.1.vaWrite t (dEfb d) o.2 (fun _ => 0x44FF#16) else efb.1
    s.collGo n r { x with own := some o.1 }

/-- Starts a collective whose descriptor and table are sound (R398-R402): one whose session is refused ends with KEYFAIL, and
outside QUORUM one with a member that cannot be reached with LINK; then what came before its start is taken. -/
def State.collStart (s : State) (n : Nat) (r : Ring) (x : Run) : State :=
  if s.keyFails x || s.cutOff x then s.collCut n r x
  else
    let x := x.withEarly r
    let s := s.updRing n (fun r => { r with early := r.early.filter (fun e => e.1 ≠ x.index) })
    (r.early.filter x.pending).foldl (fun s e => s.collMessage n e.1 e.2.1 e.2.2) (s.collJoin n r x)

/-- COLLECTIVE_DESCRIPTOR_TAKE: the engine reads the next posted descriptor, checks it and the table, and starts
the collective (R395-R397); a rejected table is told to the members that can be reached. -/
def execCollectiveDescriptorTake (s : State) : Host.Outcome State Fault Refusal :=
  match s.inp with
  | .ring n =>
    match s.rings[n]? with
    | none => notYet "COLLECTIVE_DESCRIPTOR_TAKE"
    | some r =>
      let t := s.ringTeam r
      let slot := r.crb.toNat + 0x40 + 64 * (r.head.toNat % r.size.toNat)
      if r.run.isSome || r.head = r.tail || !(s.vaOk t false slot 64) then notYet "COLLECTIVE_DESCRIPTOR_TAKE"
      else
        let got := s.vaRead t slot 64
        let d := got.2.map (·.1)
        let s := (got.1.ringWord r 4 (r.head + 1)).updRing n (fun r => { r with head := r.head + 1, posts := r.posts.drop 1 })
        let bare : Run :=
          { desc := d, table := [], self := 0, depth := 0, own := none, parts := [], late := 0, forwarded := false, page := false
            posted := r.posts.headD 0, index := r.head }
        let reject (s : State) (x : Run) (f : Nat × Nat) : State :=
          ((s.updRing n (fun r => { r with code := f.1 })).collSend n .mismatch x.others).collEnd n r x 1 f.2 []
        if badDesc d then .next (s.collEnd n r bare 4 0xFFFFFFFF [])
        else if !(s.vaOk t false (dTable d) 16) then .next (s.collPage n r bare false (dTable d) 16)
        else
          let head := s.vaRead t (dTable d) 16
          let h := head.2.map (·.1)
          let count := dField h 0 4
          if tableHeadBad h then .next (reject head.1 bare (1, 0xFFFFFFFF))
          else if !(head.1.vaOk t false (dTable d + 16) (8 * count)) then
            .next (head.1.collPage n r bare false (dTable d + 16) (8 * count))
          else
            let rest := head.1.vaRead t (dTable d + 16) (8 * count)
            let es := tableOf (rest.2.map (·.1))
            let table := es.map (·.1)
            let self := table.findIdx (fun e => e.1 = s.links.node)
            let x : Run := { bare with table := table, self := self, depth := depthOf table table.length self }
            match tableFails (dTopo d = 1) es s.links.node with
            | some f => .next (reject rest.1 x f)
            | none => .next (rest.1.collStart n r x)
  | _ => notYet "COLLECTIVE_DESCRIPTOR_TAKE"

/-- Ends the collectives that a link or a session has cut off from a member (R399, R402). -/
def State.cutCollectives (s : State) : State :=
  (List.range s.rings.length).foldl (fun s n =>
    match s.rings[n]? with
    | none => s
    | some r =>
      match r.run with
      | none => s
      | some x => if s.keyFails x || s.cutOff x then s.collCut n r x else s) s

/-- COLLECTIVE_MESSAGE: a message of a collective arrives, with the number of the descriptor that it belongs to
(R396-R400). -/
def execCollectiveMessage (s : State) : Host.Outcome State Fault Refusal :=
  match s.inp with
  | .coll n index m =>
    match s.rings[n]? with
    | none => notYet "COLLECTIVE_MESSAGE"
    | some r =>
      let waits : Bool := match r.run, m with
        | some x, .result .. => x.index = index && s.vaMoving (s.ringTeam r) (dDst x.desc) (dLen x.desc)
        | _, _ => false
      if waits then notYet "COLLECTIVE_MESSAGE" else .next (s.collMessage n index s.dcc.toNat m)
  | _ => notYet "COLLECTIVE_MESSAGE"

/-- QUORUM_CLOSE: when the cycle of its close is over an entry forwards what it holds (R400). -/
def execQuorumClose (s : State) : Host.Outcome State Fault Refusal :=
  match s.inp with
  | .ring n =>
    match s.rings[n]? with
    | none => notYet "QUORUM_CLOSE"
    | some r =>
      match r.run with
      | none => notYet "QUORUM_CLOSE"
      | some x =>
        if !(dQuorum x.desc) || x.forwarded || !(x.close < (s.dcc.toNat : Int)) then notYet "QUORUM_CLOSE"
        else if x.page then .next (s.collEnd n r x 6 0xFFFFFFFF [])
        else .next (s.collForward n r x)
  | _ => notYet "QUORUM_CLOSE"

end Sys2Proof.Machine
end

