-- ==== Sys2Proof/Machine/Ag.lean ====
section
/-!
DEFINITION. The address operations of `ag0` and `ag1` (spec/05 R141-R143, spec/04 R117).
-/
namespace Sys2Proof.Machine

open Sys2Proof

/-- The unit number of `ag0` or `ag1`. -/
def agUnit (u : Bool) : Nat := if u then 0x0B else 0x0A

/-- An `ag` operation: `f` of the ports `o` and `x` and the trigger operand into `r` (R135, R141). -/
def agOp (f : U64 → U64 → U64 → U64) (u : Bool) (t : Trig) (s : State) : Host.Outcome State Fault Refusal :=
  shortMe t s (fun v c => c.deliverPort 1 (agUnit u) 0 (f (c.port (agUnit u) 0) (c.port (agUnit u) 1) v))

/-- `ag.add` (R141). -/
def execAgAdd (u : Bool) (t : Trig) (s : State) : Host.Outcome State Fault Refusal :=
  agOp (fun o _ t => o + t) u t s

/-- `ag.sub` (R141). -/
def execAgSub (u : Bool) (t : Trig) (s : State) : Host.Outcome State Fault Refusal :=
  agOp (fun o _ t => o - t) u t s

/-- `ag.addx` (R141). -/
def execAgAddx (u : Bool) (t : Trig) (s : State) : Host.Outcome State Fault Refusal :=
  agOp (fun o x t => o + t * x) u t s

/-- `ag.and` (R141). -/
def execAgAnd (u : Bool) (t : Trig) (s : State) : Host.Outcome State Fault Refusal :=
  agOp (fun o _ t => o &&& t) u t s

/-- `ag.ltu` (R141). -/
def execAgLtu (u : Bool) (t : Trig) (s : State) : Host.Outcome State Fault Refusal :=
  agOp (fun o _ t => if o.toNat < t.toNat then 1#64 else 0#64) u t s

/-- `ag.bnd`: `o` clamped to [x, t], unsigned; `t` where x > t (R141). -/
def execAgBnd (u : Bool) (t : Trig) (s : State) : Host.Outcome State Fault Refusal :=
  agOp (fun o x t =>
    let m := if o.toNat < x.toNat then x else o
    if m.toNat < t.toNat then m else t) u t s

/-- A slot of the KV slot table: maximum and valid length (R37). -/
def Core.kvSlot (c : Core) (n : Nat) : U32 × U32 := sget (0#32, 0#32) c.units.kv n

/-- The address that `ag.kv` computes from the shared configuration (R115, R142). -/
def kvAddr (c : Core) (o t : U64) : U64 :=
  let slot := t &&& 0x3F#64
  let head := (t >>> 8) &&& 0xFFFF#64
  let pos := o &&& 0xFFFFFFFF#64
  if (c.kvSlot slot.toNat).1.toNat ≤ pos.toNat then BitVec.allOnes 64
  else c.port 0x0A 2 + slot * c.port 0x0A 3 + pos * c.port 0x0A 4 + head * c.port 0x0A 5

/-- `ag.kv` (R142). -/
def execAgKv (u : Bool) (t : Trig) (s : State) : Host.Outcome State Fault Refusal :=
  shortMe t s (fun v c => c.deliverPort 2 (agUnit u) 0 (kvAddr c (c.port (agUnit u) 0) v))

/-- `ag.kvmax`: sets the maximum length of a slot at the end of the cycle (R143). -/
def execAgKvmax (u : Bool) (t : Trig) (s : State) : Host.Outcome State Fault Refusal :=
  shortMe t s (fun v c => c.atEnd (.kvMax (v.toNat % 64) ((c.port (agUnit u) 0).setWidth 32)))

/-- `ag.kvlen`: sets the valid length of a slot, cut to the maximum as it stands at the start of the cycle,
at its end (R143). -/
def execAgKvlen (u : Bool) (t : Trig) (s : State) : Host.Outcome State Fault Refusal :=
  shortMe t s (fun v c =>
    let o : U32 := (c.port (agUnit u) 0).setWidth 32
    let mx := (c.kvSlot (v.toNat % 64)).1
    c.atEnd (.kvLen (v.toNat % 64) (if o.toNat < mx.toNat then o else mx)))

/-- `ag.kvget` (R143). -/
def execAgKvget (u : Bool) (t : Trig) (s : State) : Host.Outcome State Fault Refusal :=
  shortMe t s (fun v c => c.deliverPort 1 (agUnit u) 0 ((c.kvSlot (v.toNat % 64)).2.setWidth 64))

end Sys2Proof.Machine
end

