-- ==== Sys2Proof/Machine/Ctl.lean ====
section
/-!
DEFINITION. The control operations (spec/05 R144-R156, spec/04 R118).
-/
namespace Sys2Proof.Machine

open Sys2Proof

/-- The condition of a transfer: p[P] xor SN (R144). -/
def Core.cond (c : Core) (t : U64) : Bool := c.pred (field t.toNat 4 4) != bitAt t.toNat 8

/-- The bundle being issued is a delay bundle of a taken transfer (R145). -/
def Core.inDelay (c : Core) : Bool :=
  match c.ctl.xfer with
  | some x => 0 < x.slots
  | none => false

/-- The fault that forbids a transfer here, before any other of R136, since the lower code is the cause (R299). -/
def Core.xferFault (c : Core) : Option Nat := if c.inDelay then some 3 else if c.ctl.loop.active then some 4 else none

/-- A taken transfer to `target` with a bubble (R145), or the fault of R136 that forbids it. -/
def State.transfer (s : State) (target : Addr20) (bubble : Nat) (more : Core → Core) : State :=
  match s.me.xferFault with
  | some code => s.timing code
  | none => s.updMe (fun c =>
    more ((c.atEnd (.take { target := target, slots := 2, bubble := bubble })).event 1 0#8 (target.setWidth 32)))

/-- The bubble of a branch on `bn` (R145). A register that nothing has written since the first bind has no last write w:
it counts as ready (DESIGN CHOICE, log entry 72). -/
def Core.bubble (c : Core) (n : Nat) : Nat := sget 0 c.ctl.bwait n

/-- `ctl.pbr`: bn := t[19:0] at the end of the cycle (R144). -/
def execCtlPbr (t : Trig) (s : State) : Host.Outcome State Fault Refusal :=
  shortMe t s (fun v c => c.atEnd (.reg (kB (field v.toNat 20 3)) (v &&& 0xFFFFF#64)))

/-- `ctl.br` (R144, R145). -/
def execCtlBr (t : Trig) (s : State) : Host.Outcome State Fault Refusal :=
  short t s (fun v s =>
    let c := s.me
    let n := v.toNat % 8
    if c.cond v then s.transfer (c.breg n) (c.bubble n) id else s)

/-- `ctl.call`: pushes the address that follows the second delay bundle, writes it to b7 and transfers to
the old b7 (R147). -/
def execCtlCall (t : Trig) (s : State) : Host.Outcome State Fault Refusal :=
  short t s (fun v s =>
    let c := s.me
    if c.cond v then
      let ret := afterBundles s.lineOf 3 c.ctl.pc
      if c.xferFault.isNone && 32 ≤ c.ctl.stack.length then s.timing 6
      else s.transfer (c.breg 7) (c.bubble 7) (fun c => (c.atEnd (.push ret)).atEnd (.reg (kB 7) (ret.setWidth 64)))
    else s)

/-- `ctl.ret`: pops the return stack and transfers to the entry (R147). -/
def execCtlRet (t : Trig) (s : State) : Host.Outcome State Fault Refusal :=
  short t s (fun v s =>
    let c := s.me
    if c.cond v then
      if c.xferFault.isNone && c.ctl.stack.isEmpty then s.timing 7
      else s.transfer (c.ctl.stack.headD 0#20) 0 (fun c => c.atEnd .pop)
    else s)

/-- `ctl.jt`: jumps through a table by the fragment register (R148). The table is read at the byte address that `bn`
holds, aligned or not, and its addresses wrap at 20 bits (DESIGN CHOICE, log entry 72). -/
def execCtlJt (t : Trig) (s : State) : Host.Outcome State Fault Refusal :=
  short t s (fun v s =>
    let c := s.me
    let n := v.toNat % 8
    let a := (c.breg n).toNat
    let f := c.units.ver.frag.toNat
    let cnt := (imemWord s.myCluster.imem a).toNat
    if c.cond v && f < cnt then
      s.transfer ((imemWord s.myCluster.imem (a + 4 + 4 * f)).setWidth 20) (2 + c.bubble n) id
    else s)

/-- `ctl.loop`: starts the loop engine at the end of the cycle (R153). -/
def execCtlLoop (t : Trig) (s : State) : Host.Outcome State Fault Refusal :=
  short t s (fun v s =>
    let c := s.me
    let b := field v.toNat 4 16
    if b = 0 || c.ctl.loop.active || c.inDelay then s.timing 5
    else
      let start := afterBundles s.lineOf 1 c.ctl.pc
      s.updMe (fun c => c.atEnd (.loop
        { active := true, b := b, n := field v.toNat 2 2, stages := v.toNat % 4 + 1, start := start,
          stop := afterBundles s.lineOf b start, fresh := true })))

/-- `ctl.twait`: at the end of the cycle a pending token starts a wait hold (R151). -/
def execCtlTwait (t : Trig) (s : State) : Host.Outcome State Fault Refusal :=
  shortMe t s (fun v c => { c with pipe := { c.pipe with twait := some (v.toNat % 64) } })

/-- `ctl.tpoll`: the state of a token at the end of the cycle, into `r` (R152). -/
def execCtlTpoll (t : Trig) (s : State) : Host.Outcome State Fault Refusal :=
  shortMe t s (fun v c => c.deliver 1 [.poll (v.toNat % 64)])

/-- `ctl.skip`: suppresses the next t[3:0] bundles when a predicate holds (R150). -/
def execCtlSkip (t : Trig) (s : State) : Host.Outcome State Fault Refusal :=
  shortMe t s (fun v c =>
    let o := (c.port 0x0D 0).toNat
    if c.pred (o % 16) != bitAt o 4 then c.atEnd (.skip (v.toNat % 16)) else c)

/-- `ctl.lbrk`: ends the running loop after its current iteration; nothing with the engine idle (R155). -/
def execCtlLbrk (t : Trig) (s : State) : Host.Outcome State Fault Refusal :=
  shortMe t s (fun _ c => if c.ctl.loop.active then c.atEnd (.lbrk c.ctl.loop.n) else c)

/-- A predicate combination (R149). -/
def predOp (f : Bool → Bool → Bool) (t : Trig) (s : State) : Host.Outcome State Fault Refusal :=
  shortMe t s (fun v c =>
    let n := v.toNat
    let x := c.pred (field n 4 4) != bitAt n 12
    let y := c.pred (field n 8 4) != bitAt n 13
    if n % 16 = 0 then c else c.atEnd (.reg (kP (n % 16)) (if f x y then 1#64 else 0#64)))

/-- `ctl.pand` (R149). -/
def execCtlPand (t : Trig) (s : State) : Host.Outcome State Fault Refusal := predOp (fun x y => x && y) t s

/-- `ctl.por` (R149). -/
def execCtlPor (t : Trig) (s : State) : Host.Outcome State Fault Refusal := predOp (fun x y => x || y) t s

/-- `ctl.pxor` (R149). -/
def execCtlPxor (t : Trig) (s : State) : Host.Outcome State Fault Refusal := predOp (fun x y => x != y) t s

end Sys2Proof.Machine
end

