-- ==== Sys2Proof/Machine/Mx.lean ====
section
/-!
DEFINITION. The matrix unit `mx` (spec/08 R230-R257, spec/02 R69-R72).
-/
namespace Sys2Proof.Machine

open Sys2Proof

/-! ## Accumulators and assay -/

/-- Sets an accumulator pair. -/
def Core.setPair (c : Core) (xa row col : Nat) (p : U32 × U32) : Core :=
  { c with xa := sset (0#32, 0#32) c.xa (16384 * xa + 128 * row + col) p }

/-- The exact value of an accumulator element; NaN where its line is poison (R351). -/
def Core.accVal (c : Core) (xa row col : Nat) : Val :=
  if tagPoison (c.accTag xa row col) then .poison
  else let p := c.accPair xa row col; pairVal p.1 p.2

/-- Sets the pairs of a row from column 0 up; its lines are then written whole. -/
def Core.setRow (c : Core) (xa row : Nat) (ps : List (U32 × U32)) : Core :=
  let c := ps.zipIdx.foldl (fun c p => c.setPair xa row p.2 p.1) c
  { c with xaTag := (List.range 16).foldl (fun t i => sset dtOn t (2048 * xa + 16 * row + i) dtOn) c.xaTag }

/-- An entry of an assay: 0 to 127 the bounds, 128 mass done, 129 mass total, 130 coverage. -/
def Core.ayGet (c : Core) (xa i : Nat) : U32 := sget 0#32 c.ay (131 * xa + i)
def Core.aySet (c : Core) (xa i : Nat) (v : U32) : Core := { c with ay := sset 0#32 c.ay (131 * xa + i) v }

/-- Zeroes an accumulator and its assay (R249, R33). -/
def Core.zeroXa (c : Core) (xa : Nat) : Core :=
  { c with xa := sclear c.xa (16384 * xa) (16384 * xa + 16384)
           xaTag := sclear c.xaTag (2048 * xa) (2048 * xa + 2048)
           ay := sclear c.ay (131 * xa) (131 * xa + 131) }

/-- A cursor. -/
def Core.curGet (c : Core) (n : BitVec 2) : Nat := (sget 0#8 c.cur n.toNat).toNat
def Core.curSet (c : Core) (n : BitVec 2) (v : Nat) : Core := { c with cur := sset 0#8 c.cur n.toNat (BitVec.ofNat 8 v) }

/-- Adds a column sum to a pair (R70): the new pair, the flags, and whether the add is inexact. -/
def accAdd (old s : Val) : (U32 × U32) × U32 × Bool :=
  let t := vadd false old s
  match t.1 with
  | .nan | .poison => ((BitVec.ofNat 32 nan32, 0#32), t.2, false)
  | .inf n => ((BitVec.ofNat 32 (fp32.infCode n), 0#32), t.2, false)
  | .fin n m e =>
    if m = 0 then ((0#32, 0#32), t.2, false)
    else
      let h := (toF32 t.1).1
      match ofF32 h with
      | .inf _ => ((BitVec.ofNat 32 h, 0#32), t.2 ||| fOF ||| fNX, true)
      | hv =>
        let l := (toF32 (vadd false t.1 hv.neg).1).1
        let inexact := !(veq (vadd false hv (ofF32 l)).1 (.fin n m e))
        ((BitVec.ofNat 32 h, BitVec.ofNat 32 l),
          t.2 ||| flagIf inexact fNX ||| flagIf (inexact && vlt (.fin false m e) (.fin false 1 (-126))) fUF, inexact)

/-- What adding a row of sums does: the accumulator row, flags, the allowance of R243, and whether some element
is NaN or infinite. -/
structure RowAdd where
  pairs : List (U32 × U32)
  flags : U32
  al : Val
  bad : Bool
  deriving DecidableEq, Repr

/-- Adds a row of column sums (none: no add) into row `j` (R70, R243, R254). A poison element counts as NaN, and reading
it sets POI (R52). -/
def Core.rowAdd (c : Core) (xa j : Nat) (sums : Option (List Val)) : RowAdd :=
  let old := (List.range 128).map (c.accVal xa j)
  let rs : List ((U32 × U32) × U32 × Bool) := old.mapIdx (fun q v =>
    match sums with
    | some ss => accAdd v (ss.getD q .nan)
    | none => (c.accPair xa j q, 0#32, false))
  let vals : List Val := match sums with
    | some _ => rs.map (fun r => pairVal r.1.1 r.1.2)
    | none => old
  let inexact := rs.any (fun r => r.2.2)
  let a := vals.foldl (fun m v => if v.bad then m else vmax m v.abs) (.fin false 0 0)
  let al := if inexact then (vadd false (vmul (.fin false 1 (-47)) a).1 (.fin false 1 (-149))).1 else .fin false 0 0
  { pairs := rs.map (·.1), flags := rs.foldl (fun f r => f ||| r.2.1) (flagIf (old.contains .poison) fPOI), al := al
    bad := vals.any (fun v => match v with | .fin _ _ _ => false | _ => true) }

/-! ## Tiles (R230-R233, R244) -/

/-- An FP32 field of a header. -/
def headF32 (h : List Byte) (o : Nat) : Val := ofF32 (leNat ((h.drop o).take 4))

/-- Slab count, weight format, blocks per slab. -/
def headK (h : List Byte) : Nat := (h.getD 0 0#8).toNat
def headFmt (h : List Byte) : Nat := (h.getD 1 0#8).toNat
def headBps (h : List Byte) : Nat := (h.getD 2 0#8).toNat
def headMass (h : List Byte) : Val := headF32 h 4
def headCmax (h : List Byte) : Val := headF32 h 8

/-- A value that is neither NaN nor negative. -/
def nonNeg (v : Val) : Bool :=
  match v with
  | .inf n => !n
  | .fin n m _ => !n || m = 0
  | _ => false

/-- A header that meets R230. -/
def headOk (tag : U16) (h : List Byte) : Bool :=
  let f := headFmt h
  descFmt tag = 0x31 && 1 ≤ headK h && headK h ≤ 128 && (f = 0x20 || f = 0x28 || isB8 f) &&
    headBps h = (if f = 0x20 then 8 else 2) && h.getD 3 0#8 = 0#8 && (h.drop 12).all (· = 0#8) &&
    nonNeg (headMass h) && nonNeg (headCmax h)

/-- The tile address (R236). -/
def tileAddr (m : Cmd) (w : MxWord) : U64 := m.a w.wa + 64#64 * (w.wo.signExtend 64)

/-- The virtual address of block `b` of slab `i`. -/
def slabAddr (t i bps b : Nat) : Nat := t + 64 * (1 + i * bps + b)

/-- c_s as a value. -/
def csVal (x : U16) : Val := decFmt (.flt fp16) x.toNat 0

/-- Metadata that R244 accepts: reserved bits 0, CS neither NaN nor negative. -/
def metaOk (x : U64) : Bool := field x.toNat 23 9 = 0 && nonNeg (csVal (x.setWidth 16))

/-- The ECC grade of the page of a virtual address that can be accessed (R232, R356). -/
def State.vaGrade (s : State) (va : Nat) : Nat :=
  match s.engVa va false with
  | .at' _ e => field e.toNat 6 2
  | _ => 0

/-- The virtual addresses of the blocks of some slabs. -/
def slabBlocks (t bps : Nat) (is : List Nat) : List Nat :=
  is.flatMap (fun i => (List.range bps).map (slabAddr t i bps))

/-- Slab `i` as its blocks have been read. -/
def State.readSlab (s : State) (m : Cmd) (t bps i : Nat) : Slab :=
  let bs := (slabBlocks t bps [i]).map (s.vaBlock m)
  let ms := bs.map (fun b => b.2.2)
  { orig := field (ms.headD 0#64).toNat 16 7, cs := (ms.headD 0#64).setWidth 16, css := ms.map (fun x => x.setWidth 16)
    tags := bs.map (fun b => b.2.1), bytes := bs.flatMap (·.1) }

/-- A descriptor that a slab block may carry. -/
def slabTag (d : U16) : Bool := descFmt d = 0x30 || descFmt d = 0x7F

/-- Element `q` of a slab with its weight format (R231). -/
def Slab.weight (x : Slab) (wf q : Nat) : Val × U32 :=
  let b := if wf = 0x20 then q / 16 else q / 64
  let tag := x.tags.getD b 0xFFFF#16
  if descFmt tag = 0x7F then (.poison, fPOI)
  else
    let raw := if wf = 0x20 then leNat ((x.bytes.drop (64 * b + 4 * (q % 16) + 2)).take 2) else (x.bytes.getD q 0#8).toNat
    dec raw wf (descScale tag)

/-- CS of each block is at least every |w| of its elements that are numbers (R244). -/
def Slab.covers (x : Slab) (wf : Nat) : Bool :=
  (List.range 128).all (fun q =>
    let w := (x.weight wf q).1
    w.bad || !(vlt (csVal (x.css.getD (if wf = 0x20 then q / 16 else q / 64) 0#16)) w.abs))

/-- c_s does not increase from slab to slab. -/
def falling (xs : List Slab) : Bool :=
  (List.zipWith (fun a b => !(vlt (csVal a.cs) (csVal b.cs))) xs (xs.drop 1)).all id

/-! ## Activations (R235, R240) -/

/-- The element width that FMT gives, `dflt` for 0. -/
def fmtWidth (f : BitVec 7) (dflt : Nat) : Nat := if f = 0#7 then dflt else fmtBits f.toNat / 8

/-- Decodes an element under a format override, with the SCALE of its own line (R235, R64). -/
def actDec (f : BitVec 7) (w : Nat) (e : Elem) : Dec :=
  if e.kind = .refused then { v := .fin false 0 0 }
  else
    let own := descFmt e.tag
    if f = 0#7 then decLine w 0 e.tag e.bits
    else if own = 0x7F then { v := .poison, fmt := own, flags := fPOI }
    else if own ≠ 0 && fmtBits own ≠ 8 * w then badLine own
    else decIn f.toNat (descScale e.tag) e.bits

/-- The layout of activation, bias, load and drain rows (R240). -/
def rowLay (w : Nat) : Lay := { rows := 4096 / (128 * w), cols := 128, width := w }

/-- The layout of a bound vector or an assay image: FP32 values one after the other. -/
def imageLay : Lay := { rows := 1024, cols := 1, width := 4 }

/-- Row `j` of an operand of 128 elements. -/
def State.engRow (s : State) (m : Cmd) (x : OpSrc) (w j : Nat) : List Elem := s.engElems m x (rowLay w) (128 * j) 128

/-- `|v|`, or +∞ for NaN and poison (R243). -/
def ax (v : Val) : Val := if v.bad then .inf false else v.abs

/-- `a ⊗ b`: 0 where a factor is 0 (R243). -/
def otimes (a b : Val) : Val × U32 := if a.isZero || b.isZero then (.fin false 0 0, 0#32) else vmul a b

/-- The exact sum of some values, in which infinities of both signs set NV whatever else stands among them (R69). -/
def sumVals (vs : List (Val × U32)) : Val × U32 :=
  let fl := vs.foldl (fun f v => f ||| v.2) 0#32
  let up := vs.any (fun v => v.1 = .inf false)
  let down := vs.any (fun v => v.1 = .inf true)
  if up && down then (.nan, fl ||| fNV)
  else if vs.any (fun v => v.1.bad) then (.nan, fl)
  else if up || down then (.inf down, fl)
  else (vs.foldl (fun a v => (vadd false a v.1).1) (.fin false 0 0), fl)

/-- The column sum of R69 and R242 for column `q`. -/
def columnSum (slabs : List Slab) (wf : Nat) (xs : List Val) (q : Nat) : Val × U32 :=
  sumVals (slabs.map (fun sl =>
    let w := sl.weight wf q
    let m := vmul (xs.getD sl.orig .nan) w.1
    (m.1, m.2 ||| w.2)))

/-- A bound-in element: a number, or NaN with NV (R225, R243). -/
def boundIn (e : Elem) : Val × U32 :=
  let d : Dec :=
    if e.kind = .line then
      (let f := descFmt e.tag
       if f = 0 || f = 0x22 || f = 0x7F then decLine 4 0x22 e.tag e.bits else badLine f)
    else if e.kind = .splat then decIn 0x22 255 e.bits
    else { v := .fin false 0 0 }
  if nonNeg d.v then (match d.v with | .fin _ m x => .fin false m x | v => v, d.flags) else (.nan, d.flags ||| fNV)

/-- The flags of reading some bound-in elements (R258): those of their lines and refusals. -/
def boundFlags (es : List Elem) : U32 :=
  es.foldl (fun f e => f ||| ((boundIn e).2 &&& (fPOI ||| fFMT))) (refusedFlags es)

/-- The flags of reading the lines of some elements byte by byte (R52, R258). -/
def byteFlags (es : List Elem) : U32 :=
  es.foldl (fun f e => if e.kind = .refused then f else f ||| tagFlags e.tag) (refusedFlags es)

/-! ## Running: what a command reads at each cycle (R239) -/

/-- Cost per row and slab (R241). -/
def passCost (wf wx : Nat) : Nat := if wf = 0x20 || wx = 2 then 4 else 1

/-- The duration of a command (R127, R245). -/
def mxDur (opc rows n k rest : Nat) (surv : Bool) : Nat :=
  match opc with
  | 0x00 | 0x01 => 12 + ceilDiv n 8 + rows + (if surv then ceilDiv (rest * rows) 64 else 0) + 128
  | 0x02 => 16
  | 0x03 | 0x07 | 0x09 => 8 + rows
  | 0x04 | 0x0A => 8
  | 0x05 | 0x06 => 2
  | 0x08 => 12 + ceilDiv (k * rows) 64
  | _ => 1

/-- What a command that reads a tile takes from its header: cursor, slabs run, duration, the slabs that it uses, of every
slab for `mx.survey`, and whether grade and cursor allow it (R241, R244, R256). -/
structure TileUse where
  i0 : Nat
  n : Nat
  dur : Nat
  first : Nat
  used : List Nat
  ok : Bool

/-- The use of a tile by a command that has read the header `h`. -/
def State.tileUse (s : State) (m : Cmd) (opc : Nat) (w : MxWord) (h : List Byte) : TileUse :=
  let rows := w.m1.toNat + 1
  let k := headK h
  let i0 := if opc = 0 || (opc = 1 && w.zero) then 0 else s.me.curGet w.cur
  let n := if opc = 8 then 0 else min (k - i0) ((m.s w.es).toNat / (rows * passCost (headFmt h) (fmtWidth w.fmt 1)))
  let surv := opc = 0 && w.surv
  let first := if opc = 8 then 0 else i0
  { i0 := i0, n := n, dur := mxDur opc rows n k (k - i0 - n) surv, first := first
    used := chunksFrom (if opc = 8 || surv then k else i0 + n) first
    ok := s.vaGrade (tileAddr m w).toNat ≠ 0 && decide (i0 ≤ k) }

/-- The command reads a tile. -/
def readsTile (opc : Nat) : Bool := opc = 0 || opc = 1 || opc = 8

/-- The lines of its tile that a command reads, as far as it knows them: the header, then the blocks of its slabs. -/
def State.tileLines (s : State) (m : Cmd) (opc : Nat) (w : MxWord) : List Nat :=
  let t := (tileAddr m w).toNat
  if !(readsTile opc) || t % 64 ≠ 0 then []
  else match s.vaLine t with
    | none => []
    | some pa =>
      pa :: (match s.lineRead m pa with
        | some r =>
          if headOk r.tag r.bytes then
            let u := s.tileUse m opc w r.bytes
            if u.ok then (slabBlocks t (headBps r.bytes) u.used).filterMap s.vaLine else []
          else []
        | none => [])

/-- The layout of the operand X (R240, R250-R256). -/
def mxLay (opc : Nat) (w : MxWord) : Lay :=
  match opc with
  | 0x03 => rowLay (fmtBits (if w.fmt = 0#7 then 0x22 else w.fmt.toNat) / 8)
  | 0x04 | 0x0A => imageLay
  | 0x07 | 0x09 => rowLay (fmtWidth w.fmt 4)
  | _ => rowLay (fmtWidth w.fmt 1)

/-- How many elements of X a command reads. -/
def mxReads (opc : Nat) (w : MxWord) : Nat :=
  match opc with
  | 0x00 | 0x01 | 0x08 | 0x09 => 128 * (w.m1.toNat + 1)
  | 0x07 => 128
  | 0x0A => 144
  | _ => 0

/-- The lines outside the scratchpad that a running command reads, as far as it knows them (R318). -/
def State.mxLines (s : State) (m : Cmd) (opc : Nat) (w : MxWord) : List Nat :=
  (m.src w.x).lines (mxLay opc w) 0 (mxReads opc w) ++
    (if opc = 0 then (m.src w.bin).lines imageLay 0 (w.m1.toNat + 1) else []) ++ s.tileLines m opc w

/-- The last cycle of setup of a command that reads a tile: the header and the blocks of its slabs are there, and the checks
of R244 that belong to setup are made (R239, R241, R243, R256). -/
def State.mxTile (s : State) (m : Cmd) (opc : Nat) (w : MxWord) : EngAct :=
  let t := (tileAddr m w).toNat
  let fail (dur : Nat) (fl : U32) : EngAct := .go s (m.shape dur fl)
  let least := mxDur opc (w.m1.toNat + 1) 0 0 0 false
  if t % 64 ≠ 0 then fail least 0#32
  else
    s.withVas m [t] fun _ =>
      let hd := s.vaBlock m t
      let h := hd.1
      let fl := tagFlags hd.2.1
      let bps := headBps h
      let u := s.tileUse m opc w h
      if !(headOk hd.2.1 h) then fail least fl
      else if !u.ok then fail u.dur fl
      else
        s.withVas m (slabBlocks t bps u.used) fun _ =>
          let slabs := u.used.map (s.readSlab m t bps)
          let ok := (slabBlocks t bps u.used).all (fun a => s.vaGrade a ≠ 0 && metaOk (s.vaBlock m a).2.2 && slabTag (s.vaBlock m a).2.1) &&
            falling slabs
          if !ok then fail u.dur fl
          else
            .go s { m with
              dur := u.dur
              data := { m.data with header := h, slabs := (slabs.drop (u.i0 - u.first)).take u.n
                                    rest := slabs.drop (u.i0 - u.first + u.n), n := u.n, i0 := u.i0, width := fmtWidth w.fmt 1 } }

/-- Takes the slabs of the run of which cycle `el` is the turn, eight in a cycle, with their checks (R239, R244). -/
def Cmd.mxSlabs (m : Cmd) (el : Nat) : Cmd :=
  let now := (m.data.slabs.drop (8 * (el - 12))).take 8
  let ok := now.all (fun sl => sl.covers (headFmt m.data.header))
  let fl := (now.flatMap Slab.tags).foldl (fun f d => f ||| tagFlags d) m.data.flags
  { m with data := { m.data with flags := fl, status := if ok then m.data.status else 2 } }

/-- Reads activation row `j`. -/
def State.mxRow (s : State) (m : Cmd) (w : MxWord) (j : Nat) : Cmd :=
  let r := s.engRow m (m.src w.x) m.data.width j
  { m with data := { m.data with rows := m.data.rows ++ [r], flags := m.data.flags ||| refusedFlags r } }

/-- The control word of `mx.drain` (R250). -/
def drainBad (e : U32) : Bool := 2 ^ 12 ≤ e.toNat || field e.toNat 5 3 ≠ 0 || 4 ≤ e.toNat % 8

/-- The destination block of each element of row `j` of a drain, numbered within the operand (R72, R181, R240). -/
def drainLine (x : OpSrc) (l : Lay) (e : Nat) : Nat :=
  match x.spec.space.toNat with
  | 1 => tileOff x.spec l e / 64
  | 2 => e * l.width / 64
  | _ => x.elemAddr l e / 64

/-- Converts row `j` of an accumulator for a drain: codes with descriptors, and the flags. Each destination block takes
its scale from its own elements of the row (R72, R250; log entry 70). -/
def Core.drainRow (c : Core) (x : OpSrc) (xa f j : Nat) (e : U32) : List Res × U32 :=
  let l := rowLay (fmtBits f / 8)
  let vs : List (Nat × Nat × ConvIn) := (List.range 128).map (fun q =>
    (drainLine x l (128 * j + q), 128 * j + q, ({ v := c.accVal xa j q }, 0)))
  let po := vs.any (fun v => v.2.2.1.v = .poison)
  let go := ((vs.map (·.1)).eraseDups).foldl (fun (p : List Res × U32) k =>
    let own := vs.filter (fun v => v.1 = k)
    let r := convBlock f (rcOf (e.toNat % 16)) (e.getLsbD 4) (own.map (·.2.2))
    (p.1 ++ List.zipWith (fun v y => (v.2.1, y, r.2.1)) own r.1, p.2 ||| r.2.2)) ([], 0#32)
  (go.1, go.2 ||| flagIf po fPOI)

/-- Drains row `j` at the end of this cycle (R250). -/
def State.mxDrain (s : State) (m : Cmd) (w : MxWord) (j : Nat) : State × Cmd :=
  let e := m.s w.es
  if e.getLsbD 11 && !(m.mask.getLsbD j) then (s, m)
  else
    let f := if w.fmt = 0#7 then 0x22 else w.fmt.toNat
    let r := s.me.drainRow (m.src w.x) w.xa.toNat f j e
    let m := m.flag r.2
    if w.x.space = 2#3 then (s.pushTo (w.x.index.toNat % 16) (queueLines (fmtBits f / 8) true r.1), m)
    else
      let p := s.engPut m (m.src w.x) (rowLay (fmtBits f / 8)) r.1
      (p.1, m.put p)

/-- The bytes that row `j` of a drain pushes into a queue. -/
def Cmd.drainBytes (m : Cmd) (w : MxWord) (j : Nat) : Nat :=
  if (m.s w.es).getLsbD 11 && !(m.mask.getLsbD j) then 0 else 128 * (fmtBits (if w.fmt = 0#7 then 0x22 else w.fmt.toNat) / 8)

/-- The assay image of R251. -/
def Core.assayImage (c : Core) (xa : Nat) : List Res :=
  (List.range 144).map (fun i => (i, (if i < 131 then (c.ayGet xa i).toNat else 0), 0x44FF#16))

/-- The remaining term of row `j` for `mx.survey` (R256). -/
def surveyRow (m : Cmd) (w : MxWord) (j : Nat) : Nat × U32 :=
  let ds := (m.data.rows.getD j []).map (actDec w.fmt m.data.width)
  let t := sumVals (m.data.rest.map (fun sl => otimes (ax (ds.getD sl.orig { v := .nan }).v) (csVal sl.cs)))
  let r := rndVal fp32 rup t.1
  (r.1, ds.foldl (fun f d => f ||| d.flags) t.2)

/-- The start cycle of a command: the permissions of its handle operands, and what it reads and checks at once (R239, R244,
R250-R256, R259). -/
def State.mxBegin (s : State) (m : Cmd) (opc : Nat) (w : MxWord) : EngAct :=
  let rows := w.m1.toNat + 1
  let x := m.src w.x
  let toMem := opc = 3 || opc = 4
  let toBin := opc = 8
  match engPerm x (mxLay opc w) (!toMem) toMem, engPerm (m.src w.bin) imageLay (!toBin) toBin with
  | some a, _ | none, some a => .fault 6 2 (BitVec.ofNat 64 a)
  | none, none =>
    let dur := mxDur opc rows 0 0 0 false
    let take (rs : List (List Elem)) : EngAct :=
      .go s { m with dur := dur, data := { m.data with rows := rs, width := fmtWidth w.fmt 4, flags := refusedFlags rs.flatten } }
    match opc with
    | 0x00 =>
      if w.bin.space = 0#3 then .go s m
      else
        s.withLines m ((m.src w.bin).lines imageLay 0 rows) fun _ =>
          let r := s.engElems m (m.src w.bin) imageLay 0 rows
          .go s { m with data := { m.data with row := r, flags := boundFlags r } }
    | 0x01 | 0x08 => .go s m
    | 0x03 => .go s (if drainBad (m.s w.es) then m.shape dur 0#32 else { m with dur := dur })
    | 0x04 => .go s (if (w.x.space = 4#3 || w.x.space = 5#3) && x.addr.toNat % 64 ≠ 0 then m.shape dur 0#32 else { m with dur := dur })
    | 0x06 => .go s (if 128 < (m.s w.es).toNat then m.shape dur 0#32 else { m with dur := dur })
    | 0x07 =>
      if w.x.space = 7#3 then take [List.replicate 128 { kind := .splat, bits := x.splat.toNat }]
      else s.withLines m (x.lines (mxLay opc w) 0 128) fun _ => take [s.engRow m x (fmtWidth w.fmt 4) 0]
    | 0x09 =>
      s.withLines m (x.lines (mxLay opc w) 0 (128 * rows)) fun _ =>
        take ((List.range rows).map (s.engRow m x (fmtWidth w.fmt 4)))
    | 0x0A =>
      s.withLines m (x.lines imageLay 0 144) fun _ =>
        let r := s.engElems m x imageLay 0 144
        .go s { m with dur := dur, data := { m.data with row := r, flags := byteFlags r } }
    | _ => .go s { m with dur := dur }

/-- What a started command does in cycle `el` after its start. -/
def State.mxRun (s : State) (m : Cmd) (opc : Nat) (w : MxWord) (el : Nat) : EngAct :=
  let rows := w.m1.toNat + 1
  let x := m.src w.x
  if el = 0 then s.mxBegin m opc w
  else if m.data.status ≠ 0 then .go s m
  else if readsTile opc && el < 11 then .go s m
  else if readsTile opc && el = 11 then s.mxTile m opc w
  else match opc with
    | 0x00 | 0x01 =>
      let first := 12 + ceilDiv m.data.n 8
      if el < first then .go s (m.mxSlabs el)
      else if el < first + rows then
        s.withLines m (x.lines (mxLay opc w) (128 * (el - first)) 128) fun _ => .go s (s.mxRow m w (el - first))
      else .go s m
    | 0x08 =>
      s.withLines m (if el = 12 then x.lines (mxLay opc w) 0 (128 * rows) else []) fun _ =>
        let m := if el = 12 then (List.range rows).foldl (fun m j => s.mxRow m w j) m else m
        if el + 1 = m.dur then
          let rs : List (Nat × U32) := (List.range rows).map (surveyRow m w)
          let m := m.flag (rs.foldl (fun (f : U32) x => f ||| x.2) 0#32)
          s.withPut (m.src w.bin) fun _ =>
            (fun p => .go p.1 (m.put p)) (s.engPut m (m.src w.bin) imageLay (rs.mapIdx (fun j x => (j, x.1, 0x44FF#16))))
        else .go s m
    | 0x03 =>
      if 8 ≤ el && el < 8 + rows then
        (if w.x.space = 2#3 && !(s.me.linkRoom (w.x.index.toNat % 16) (m.drainBytes w (el - 8))) then .late
         else s.withPut x fun _ => (fun p => .go p.1 p.2) (s.mxDrain m w (el - 8)))
      else .go s m
    | 0x04 =>
      if el + 1 = m.dur then
        s.withPut x fun _ => (fun p => .go p.1 (m.put p)) (s.engPut m x imageLay (s.me.assayImage w.xa.toNat))
      else .go s m
    | _ => .go s m

/-! ## Completion (R238, R243-R257) -/

/-- The effect of a step or resumption on row `j`: the stream's core, and the flags. -/
def Core.stepRow (c : Core) (m : Cmd) (opc : Nat) (w : MxWord) (j : Nat) : Core × U32 :=
  let d := m.data
  let xa := w.xa.toNat
  let step := opc = 0 || w.zero
  let ds := (d.rows.getD j []).map (actDec w.fmt d.width)
  let xs := ds.map Dec.v
  let fl := ds.foldl (fun f x => f ||| x.flags) 0#32
  let sums : Option (List (Val × U32)) :=
    if d.n = 0 then none else some ((List.range 128).map (columnSum d.slabs (headFmt d.header) xs))
  let fl := (sums.getD []).foldl (fun f x => f ||| x.2) fl
  let ra := c.rowAdd xa j (sums.map (fun l => l.map (·.1)))
  let old := ofF32 (c.ayGet xa j).toNat
  let spent := sumVals (d.slabs.map (fun sl => (csVal sl.cs, 0#32)))
  let bnd : Val × U32 :=
    if step then
      let bin : Val × U32 := if opc = 0 && w.bin.space ≠ 0#3 then boundIn (d.row.getD j {}) else (.fin false 0 0, 0#32)
      let t : Val × U32 :=
        if opc = 0 && w.surv then sumVals (d.rest.map (fun sl => otimes (ax (xs.getD sl.orig .nan)) (csVal sl.cs)))
        else
          let x := xs.foldl (fun a v => vmax a (ax v)) (.fin false 0 0)
          let left := vadd false (headMass d.header) spent.1.neg
          (fun p => (p.1, p.2 ||| left.2)) (otimes x left.1)
      let s := sumVals [(old, 0#32), otimes bin.1 (headCmax d.header), t, (ra.al, 0#32)]
      (s.1, s.2 ||| bin.2)
    else
      let run := sumVals (d.slabs.map (fun sl => otimes (ax (xs.getD sl.orig .nan)) (csVal sl.cs)))
      let s := sumVals [(old, 0#32), (run.1.neg, run.2), (ra.al, 0#32)]
      if vlt s.1 (.fin false 0 0) then (.inf false, s.2 ||| fNV) else s
  let b := if ra.bad then .inf false else bnd.1
  let c := if d.n = 0 then c else c.setRow xa j ra.pairs
  (c.aySet xa j (BitVec.ofNat 32 (rndVal fp32 rup b).1), fl ||| ra.flags ||| bnd.2)

/-- The coverage of R248. -/
def coverage (done total : U32) : U32 :=
  let d := ofF32 done.toNat
  let t := ofF32 total.toNat
  if t.isZero || veq d t then 0x3F800000#32 else BitVec.ofNat 32 (rndDiv fp32 rne d t).1

/-- All effects of a step or resumption (R243). -/
def Core.stepAll (c : Core) (m : Cmd) (opc : Nat) (w : MxWord) : Core × U32 :=
  let d := m.data
  let xa := w.xa.toNat
  let c := if w.zero then c.zeroXa xa else c
  let go := (List.range (w.m1.toNat + 1)).foldl (fun (p : Core × U32) j =>
    let r := p.1.stepRow m opc w j
    (r.1, p.2 ||| r.2)) (c, d.flags)
  let c := go.1
  let spent := (sumVals (d.slabs.map (fun sl => (csVal sl.cs, 0#32)))).1
  let more (i : Nat) (v : Val) : U32 × U32 :=
    let t := vadd false (ofF32 (c.ayGet xa i).toNat) v
    (BitVec.ofNat 32 (toF32 t.1).1, t.2 &&& fNV)
  let done := more 128 spent
  let total : U32 × U32 := if opc = 0 || w.zero then more 129 (headMass d.header) else (c.ayGet xa 129, 0#32)
  let c := ((c.aySet xa 128 done.1).aySet xa 129 total.1).aySet xa 130 (coverage done.1 total.1)
  (c.curSet w.cur (d.i0 + d.n), go.2 ||| done.2 ||| total.2)

/-- A bias row added to every row of the command (R254). -/
def Core.biasAll (c : Core) (m : Cmd) (w : MxWord) : Core × U32 :=
  let xa := w.xa.toNat
  let ds := (m.data.rows.headD []).map (fun e =>
    if e.kind = .splat then
      (if w.fmt = 0#7 then decIn 0x22 255 e.bits else decIn w.fmt.toNat 255 (e.bits % 2 ^ fmtBits w.fmt.toNat))
    else actDec w.fmt m.data.width e)
  let vs := ds.map (fun d => if d.v.bad then .nan else d.v)
  (List.range (w.m1.toNat + 1)).foldl (fun (p : Core × U32) j =>
    let ra := p.1.rowAdd xa j (some vs)
    let b := if ra.bad then .inf false else (vadd false (ofF32 (p.1.ayGet xa j).toNat) ra.al).1
    ((p.1.setRow xa j ra.pairs).aySet xa j (BitVec.ofNat 32 (rndVal fp32 rup b).1), p.2 ||| ra.flags))
    (c, ds.foldl (fun f d => f ||| d.flags) m.data.flags)

/-- The pair of a loaded value (R255). -/
def loadPair (v : Val) : (U32 × U32) × U32 :=
  match v with
  | .nan | .poison => ((BitVec.ofNat 32 nan32, 0#32), 0#32)
  | .inf n => ((BitVec.ofNat 32 (fp32.infCode n), 0#32), 0#32)
  | x =>
    let h := (toF32 x).1
    match ofF32 h with
    | .inf _ => ((BitVec.ofNat 32 h, 0#32), fOF ||| fNX)
    | hv =>
      let l := (toF32 (vadd false x hv.neg).1).1
      ((BitVec.ofNat 32 h, BitVec.ofNat 32 l), flagIf (!(veq (vadd false hv (ofF32 l)).1 x)) fNX)

/-- Rows loaded into an accumulator (R255). -/
def Core.loadAll (c : Core) (m : Cmd) (w : MxWord) : Core × U32 :=
  m.data.rows.zipIdx.foldl (fun (p : Core × U32) r =>
    let ds := r.1.map (actDec w.fmt m.data.width)
    let ps := ds.map (fun d => loadPair d.v)
    (p.1.setRow w.xa.toNat r.2 (ps.map (·.1)), ps.foldl (fun f x => f ||| x.2) (ds.foldl (fun f d => f ||| d.flags) p.2)))
    (c, m.data.flags)

/-- Completes the command at the head of the `mx` queue (R238): a nonzero STATUS writes nothing but the record. -/
def State.mxFinish (s : State) (m : Cmd) (opc : Nat) (w : MxWord) : State :=
  let c := s.me
  if m.data.status ≠ 0 then s.finish .mx 0 m m.data.status 0 0#32 m.data.flags
  else
    let put (r : Core × U32) (off : Nat) : State := (s.updMe (fun _ => r.1)).finish .mx 0 m 0 off 0#32 r.2
    match opc with
    | 0x00 | 0x01 => put (c.stepAll m opc w) (m.data.n * (w.m1.toNat + 1) * passCost (headFmt m.data.header) m.data.width)
    | 0x02 => put ((c.zeroXa w.xa.toNat).curSet w.cur 0, 0#32) 0
    | 0x05 => put (c, 0#32) (c.curGet w.cur)
    | 0x06 => put (c.curSet w.cur (m.s w.es).toNat, 0#32) 0
    | 0x07 => put (c.biasAll m w) 0
    | 0x09 => put (c.loadAll m w) 0
    | 0x0A => put ((List.range 131).foldl (fun c i => c.aySet w.xa.toNat i (BitVec.ofNat 32 (m.data.row.getD i {}).bits)) c, m.data.flags) 0
    | _ => put (c, m.data.flags) 0

/-! ## The words -/

/-- An `mx` word: it captures the registers its fields name and, for `mx.drain`, the mask of its control word
(R236). -/
def mxIssue (i : Instr) (w : MxWord) (s : State) : Host.Outcome State Fault Refusal :=
  engIssue i ([kA w.wa.toNat, kS w.es.toNat] ++ opndKeys w.x ++ opndKeys w.bin)
    (fun c => match i with
      | .mxDrain _ => sget 0#4096 c.masks (field (c.sreg w.es.toNat).toNat 8 3)
      | _ => 0#4096) id s

/-- `mx.step` (R243). -/
def execMxStep (w : MxWord) (s : State) : Host.Outcome State Fault Refusal := mxIssue (.mxStep w) w s

/-- `mx.res` (R243). -/
def execMxRes (w : MxWord) (s : State) : Host.Outcome State Fault Refusal := mxIssue (.mxRes w) w s

/-- `mx.zero` (R249). -/
def execMxZero (w : MxWord) (s : State) : Host.Outcome State Fault Refusal := mxIssue (.mxZero w) w s

/-- `mx.drain` (R250). -/
def execMxDrain (w : MxWord) (s : State) : Host.Outcome State Fault Refusal := mxIssue (.mxDrain w) w s

/-- `mx.assay` (R251). -/
def execMxAssay (w : MxWord) (s : State) : Host.Outcome State Fault Refusal := mxIssue (.mxAssay w) w s

/-- `mx.cur.get` (R253). -/
def execMxCurGet (w : MxWord) (s : State) : Host.Outcome State Fault Refusal := mxIssue (.mxCurGet w) w s

/-- `mx.cur.set` (R253). -/
def execMxCurSet (w : MxWord) (s : State) : Host.Outcome State Fault Refusal := mxIssue (.mxCurSet w) w s

/-- `mx.bias` (R254). -/
def execMxBias (w : MxWord) (s : State) : Host.Outcome State Fault Refusal := mxIssue (.mxBias w) w s

/-- `mx.survey` (R256). -/
def execMxSurvey (w : MxWord) (s : State) : Host.Outcome State Fault Refusal := mxIssue (.mxSurvey w) w s

/-- `mx.load` (R255). -/
def execMxLoad (w : MxWord) (s : State) : Host.Outcome State Fault Refusal := mxIssue (.mxLoad w) w s

/-- `mx.aset` (R252). -/
def execMxAset (w : MxWord) (s : State) : Host.Outcome State Fault Refusal := mxIssue (.mxAset w) w s

/-- `mx.mark` (R257). -/
def execMxMark (w : MxWord) (s : State) : Host.Outcome State Fault Refusal := mxIssue (.mxMark w) w s

end Sys2Proof.Machine
end

