-- ==== Sys2Proof/Machine/Ver.lean ====
section
/-!
DEFINITION. The verifier `ver` (spec/09 R283-R290, spec/04 R130).
-/
namespace Sys2Proof.Machine

open Sys2Proof

/-! ## The area -/

/-- Bytes of PROW and of QROW (R284). -/
def rowBytes (n : Nat) : Nat := 256 * ceilDiv n 64

/-- Reads bytes as the verifier does: refused byte by byte, a refused byte reading as zero (R283). -/
def State.verBytes (s : State) (a n : Nat) : List Byte × BitVec 8 :=
  let t := s.myCluster.info
  (List.range n).foldr (fun i p =>
    let st := localRefusal t false (a + i) 1
    if st = 0#8 then (s.localBytes t s.me (a + i) 1 ++ p.1, p.2) else (0#8 :: p.1, p.2 ||| st)) ([], 0#8)

/-- A row of FP32 elements as it stands, with the refusals met. -/
def State.verRow (s : State) (a n : Nat) : List Elem × BitVec 8 :=
  (List.range n).foldr (fun i p =>
    let b := s.verBytes (a + 4 * i) 4
    let tag := if localRefusal s.myCluster.info false (a + 4 * i) 1 = 0#8 then s.localTag s.myCluster.info s.me (a + 4 * i) else dtOn
    ({ bits := leNat b.1, tag := tag } :: p.1, p.2 ||| b.2)) ([], 0#8)

/-- The flags of a numeric read of a line whatever the width of its elements (R52). -/
def numFlags (tag : U16) : U32 :=
  let f := descFmt tag
  if f = 0x7F then fPOI else if fmtReserved f || f = 0x30 || f = 0x31 || f = 0x38 then fPOI ||| fFMT else 0#32

/-- An index, or a byte of a run descriptor, of `n` bytes at an address, with the refusals met. Where its line is poison or of
a reserved format no rule gives the value that the operation goes on with, and it is free (R52; log entry 84). -/
def State.verPlain (s : State) (a n : Nat) : Elem × BitVec 8 :=
  let b := s.verBytes a n
  let tag := if localRefusal s.myCluster.info false a 1 = 0#8 then s.localTag s.myCluster.info s.me a else dtOn
  ({ bits := if numFlags tag = 0#32 then leNat b.1 else (Config.freeWord (s.freeAt 18 (a % 2 ^ 24))).toNat % 256 ^ n, tag := tag }, b.2)

/-- The four candidate indices of an area, with the refusals met (R284). -/
def State.verCand (s : State) (a : Nat) : List Elem × BitVec 8 :=
  (List.range 4).foldr (fun i p => let e := s.verPlain (a + 4 * i) 4; (e.1 :: p.1, p.2 ||| e.2)) ([], 0#8)

/-- The 64 bytes of a run descriptor, each as an element, with the refusals met (R289). -/
def State.verHead (s : State) (a : Nat) : List Elem × BitVec 8 :=
  (List.range 64).foldr (fun i p => let e := s.verPlain (a + i) 1; (e.1 :: p.1, p.2 ||| e.2)) ([], 0#8)

/-- Elements that the verifier reads, after one more cycle in which other writes to them may have landed: each keeps its
value or takes the new one, as a free choice gives, so that it ends as any value that it has held (R283). -/
def State.pickRow (s : State) (kind : Nat) (old new : List Elem) : List Elem :=
  (List.range old.length).map (fun i =>
    let o := old.getD i {}
    let w := new.getD i {}
    if o = w then o else if Config.freeBit (s.freeAt kind i) then w else o)

/-- A logit or a probability of a row: FP32 or raw lines only, any other, a poison line among them, sets FMT and POI
(R284). -/
def verElem (e : Elem) : Val × U32 :=
  let f := descFmt e.tag
  let d := if f = 0 || f = 0x22 then decLine 4 0x22 e.tag e.bits else badLine f
  (d.v, d.flags)

/-- The row's values and flags. -/
def verVals (es : List Elem) : List Val × U32 :=
  es.foldr (fun e p => let v := verElem e; (v.1 :: p.1, p.2 ||| v.2)) ([], 0#32)

/-! ## Probabilities (R285) -/

/-- The lowest index that holds the largest value of a list, −∞ standing for what cannot be compared. -/
def argMax (xs : List Val) : Nat :=
  let num (v : Val) : Val := if v.bad then .inf true else v
  ((List.range xs.length).foldl (fun (p : Nat × Val) k =>
    let x := num (xs.getD k .nan)
    if k = 0 || vlt p.2 x then (k, x) else p) (0, .inf true)).1

/-- An FP32 rounding of a value with its flags. -/
def f32 (x : Val × U32) : Val × U32 := let r := toF32 x.1; (ofF32 r.1, x.2 ||| r.2)

/-- The FP32 sum of a row by the tree of R68. -/
def sumTree (xs : List Val) : Val × U32 :=
  let t := tree (fun (f : U32) x y => let r := f32 (vadd false x y); (f ||| r.2, r.1)) (.fin false 0 0) 64 0#32 xs
  (t.2, t.1)

/-- A quotient rounded to FP32. -/
def quot (a b : Val) : Val × U32 := let r := rndDiv fp32 rne a b; (ofF32 r.1, r.2)

/-- Divides a row by a sum, giving zeros for a zero sum. -/
def normalise (xs : List Val) (s : Val) : List Val × U32 :=
  if s.isZero then (xs.map (fun _ => .fin false 0 0), 0#32)
  else xs.foldr (fun x p => let r := quot x s; (r.1 :: p.1, p.2 ||| r.2)) ([], 0#32)

/-- A logit without its NaN or poison: −∞ with its flag (R267). -/
def logitOf (v : Val) : Val × U32 :=
  match v with
  | .nan => (.inf true, fNV)
  | .poison => (.inf true, fPOI)
  | v => (v, 0#32)

/-- prob(row) under a valid temperature (R285). -/
def probRow (tau : U32) (xs : List Val) : List Val × U32 :=
  let zero : Val := .fin false 0 0
  if tauMode tau = .greedy then
    let ls := xs.map logitOf
    let fl := ls.foldl (fun a l => a ||| l.2) 0#32
    if ls.all (fun l => l.1 = .inf true) then (xs.map (fun _ => zero), fl)
    else
      let k := argMax (ls.map (·.1))
      (xs.mapIdx (fun i _ => if i = k then .fin false 1 0 else zero), fl)
  else
    let ls := xs.map (fun l => lamOf l (ofF32 tau.toNat))
    let fl := ls.foldl (fun a l => a ||| l.2) 0#32
    let lam := adjustInf (ls.map (·.1))
    match maxLam lam with
    | none => (xs.map (fun _ => zero), fl)
    | some m =>
      let es := lam.map (fun l => match l with
        | .fin _ _ _ =>
          let r := expR false fp32 rne (vadd false l m.neg).1
          (ofF32 r.1, r.2)
        | _ => (zero, 0#32))
      let s := sumTree (es.map (·.1))
      let p := normalise (es.map (·.1)) s.1
      (p.1, es.foldl (fun a e => a ||| e.2) fl ||| s.2 ||| p.2)

/-- The exact sum of a list of probabilities; a NaN or poison counts as zero mass. -/
def exactSum (xs : List Val) : Val := xs.foldl (fun a x => if x.bad then a else (vadd false a x).1) (.fin false 0 0)

/-! ## The trials (R287) -/

/-- The state of the trials: the residual, the flags, and the accepted index. -/
structure Trial where
  r : List Val
  flags : U32
  accepted : Option U32
  deriving DecidableEq, Repr

/-- Trial `j` with candidate `c` and random value `u`. -/
def trialStep (tau : U32) (q : List Val) (cs : List U32) (t : Trial) (j : Nat) (u : U32) : Trial :=
  let c := cs.getD j 0#32
  if t.accepted.isSome then t
  else if tauMode tau = .greedy then
    if c.toNat = argMax t.r then { t with accepted := some c } else t
  else
    let zero : Val := .fin false 0 0
    let before := cs.take j
    let d := f32 (vadd false (.fin false 1 0) (exactSum (before.map (fun x => q.getD x.toNat zero))).neg)
    let qs := q.mapIdx (fun x v =>
      if before.any (fun b => b.toNat = x) || d.1.isZero then (zero, 0#32) else quot v d.1)
    let qc := (qs.getD c.toNat (zero, 0#32)).1
    let rc := t.r.getD c.toNat zero
    let a : Val × U32 :=
      if vlt zero qc then (if vlt rc qc then quot rc qc else (.fin false 1 0, 0#32)) else (zero, 0#32)
    let fl := qs.foldl (fun f x => f ||| x.2) (t.flags ||| d.2 ||| a.2)
    if vlt (.fin false u.toNat (-32)) a.1 then { t with accepted := some c, flags := fl }
    else
      let rs := (List.range t.r.length).map (fun x =>
        f32 ((fun y : Val × U32 => (vmax y.1 zero, y.2)) (vadd false (t.r.getD x zero) (qs.getD x (zero, 0#32)).1.neg)))
      let s := sumTree (rs.map (·.1))
      let p := normalise (rs.map (·.1)) s.1
      { r := p.1, flags := rs.foldl (fun f x => f ||| x.2) fl ||| s.2 ||| p.2, accepted := none }

/-- All trials in order. -/
def trials (tau : U32) (q r : List Val) (cs us : List U32) (fl : U32) : Trial :=
  (List.range cs.length).foldl (fun t j => trialStep tau q cs t j (us.getD j 0#32)) { r := r, flags := fl, accepted := none }

/-- The draw of `ver.fin` from a row of probabilities (R288). -/
def finDraw (tau : U32) (p : List Val) (u : U32) : Option U32 :=
  let s := exactSum p
  if s.isZero then none
  else if tauMode tau = .greedy then some (BitVec.ofNat 32 (argMax p))
  else
    let us := (vmul (.fin false u.toNat (-32)) s).1
    let go := p.foldl (fun (a : Nat × Val × Option Nat) x =>
      let c := if x.bad then a.2.1 else (vadd false a.2.1 x).1
      (a.1 + 1, c, a.2.2.orElse (fun _ => if vlt (.fin false 0 0) x && vlt us c then some a.1 else none))) (0, .fin false 0 0, none)
    go.2.2.map (BitVec.ofNat 32 ·)

/-! ## Issue -/

/-- A `ver` operation: VER_BUSY while the unit is occupied (R283). -/
def verShort (t : Trig) (s : State) (f : U64 → State → State) : Host.Outcome State Fault Refusal :=
  short t s (fun v s => if s.me.units.ver.busy ≠ 0 then s.timing 14 else f v s)

/-- Starts an operation of latency `lat` that occupies the verifier for `occ` cycles, with what it reads as it stands and
the random values it takes (R270, R283). -/
def State.startVer (s : State) (opc lat occ draws : Nat) (t : U64) : State :=
  let c := s.me
  let csc := s.myCluster.csc
  let o := (c.port 0x14 0).toNat
  let n := (c.port 0x14 1).toNat
  let k := (c.port 0x14 2).toNat
  let s := s.windowsMet s.myCluster.info
    (if opc = 5 then [t.toNat] else [o] ++ (List.range (2 * rowBytes n / 64)).map (fun i => o + 0x40 + 64 * i))
  let p := if opc = 2 || opc = 3 then s.verRow (o + 0x40) n else ([], 0#8)
  let q := if opc = 1 || opc = 2 then s.verRow (o + 0x40 + rowBytes n) n else ([], 0#8)
  let h := if opc = 1 then s.verCand o else if opc = 5 then s.verHead t.toNat else ([], 0#8)
  let ctr := c.units.drawCtr
  let us := (List.range draws).map (fun i => (mix c.key (ctr + BitVec.ofNat 64 i) >>> 32).setWidth 32)
  let op : VerOp :=
    { opc := opc, left := lat - 1, o := o, n := n, k := k, t := t, us := us, prow := p.1, qrow := q.1, head := h.1,
      refused := p.2 ||| q.2 ||| h.2 }
  s.updMe (fun c => { c with units := { c.units with
    drawCtr := ctr + BitVec.ofNat 64 draws
    ver := { c.units.ver with busy := occ, since := csc }
    verOps := c.units.verOps ++ [op] } })

/-- `ver.cfg`: the temperature, at the end of the cycle (R285). -/
def execVerCfg (t : Trig) (s : State) : Host.Outcome State Fault Refusal :=
  verShort t s (fun v s => s.updMe (fun c => c.atEnd (.tau (v.setWidth 32))))

/-- `ver.cand` (R286). -/
def execVerCand (t : Trig) (s : State) : Host.Outcome State Fault Refusal :=
  verShort t s (fun v s =>
    let c := s.me
    let lat := 4 + (c.port 0x14 2).toNat * ceilDiv (c.port 0x14 1).toNat 64
    s.startVer 1 lat lat 0 v)

/-- `ver.chk` (R287). -/
def execVerChk (t : Trig) (s : State) : Host.Outcome State Fault Refusal :=
  verShort t s (fun v s =>
    let c := s.me
    let lat := 16 + 4 * (c.port 0x14 2).toNat * ceilDiv (c.port 0x14 1).toNat 64
    s.startVer 2 lat lat c.units.ver.cands.length v)

/-- `ver.fin` (R288). -/
def execVerFin (t : Trig) (s : State) : Host.Outcome State Fault Refusal :=
  verShort t s (fun v s =>
    let lat := 16 + ceilDiv (s.me.port 0x14 1).toNat 16
    s.startVer 3 lat lat 1 v)

/-- `ver.setf`: the fragment register, at the end of the cycle (R290). -/
def execVerSetf (t : Trig) (s : State) : Host.Outcome State Fault Refusal :=
  verShort t s (fun v s => s.updMe (fun c => c.atEnd (.frag (v.setWidth 16))))

/-- `ver.stop` (R289); it occupies the verifier for its own cycle only (R283). -/
def execVerStop (t : Trig) (s : State) : Host.Outcome State Fault Refusal :=
  verShort t s (fun v s => s.startVer 5 4 1 0 v)

/-! ## Landing: the cycle before the results are delivered -/

/-- Writes a row of FP32 probabilities at the end of the cycle, each byte refused by R159 on its own; lines
written whole take the descriptor of FP32 at unity scale. -/
def State.verWrite (s : State) (a : Nat) (xs : List Val) : State :=
  let t := s.myCluster.info
  let core := s.coreOf
  let bytes := xs.flatMap (fun x => leBytes 4 (toF32 x).1)
  let ws := (bytes.mapIdx (fun i b => (a + i, b))).filter (fun w => localRefusal t true w.1 1 = 0#8)
  let lines := ((splitLines a bytes.length).filter (fun q => q.2.2 = 64 && inScratch (64 * q.1) 64)).map (·.1)
  let out := ws.map (fun w => ({ prio := 3, core := core, addr := w.1, bytes := [w.2] } : LocW))
  let tags := lines.map (fun l => ({ prio := 3, core := core, addr := 64 * l, bytes := [], tags := [(l, 0x44FF#16)] } : LocW))
  s.updMine (fun cl => { cl with endLoc := cl.endLoc ++ out ++ tags })

/-- The refusal of some byte of a write. -/
def Team.writeRefusal (t : Team) (a n : Nat) : BitVec 8 :=
  (List.range n).foldl (fun st i => st ||| localRefusal t true (a + i) 1) 0#8

/-- The answer of an operation, delivered in the next cycle (R286-R289). -/
def Core.verAnswer (c : Core) (r : U64) (fl : U32) : Core :=
  c.deliver 1 ([.port (keyOf 0x14 0) r, .sticky fl] ++ if fl &&& fPOI = 0#32 then [] else [.poison])

/-- Changes the verifier. -/
def Core.updVer (c : Core) (f : Ver → Ver) : Core := { c with units := { c.units with ver := f c.units.ver } }

/-- `commit()`: the valid length of the run's slot, cut to the maximum as it stands at the start of the cycle;
the run ends (R290). -/
def Core.commit (c : Core) (j : U16) : Core :=
  let v := c.units.ver
  let mx := (sget (0#32, 0#32) c.units.kv v.slot.toNat).1
  let x : U32 := BitVec.ofNat 32 (min (v.base.toNat + j.toNat) mx.toNat)
  (c.atEnd (.kvLen v.slot.toNat x)).updVer (fun v => { v with run := false })

/-- What a decision does to the fragment register and to a loaded run (R290): 0 a candidate accepted, 1 none
accepted, 2 an index drawn, 3 nothing drawn or an invalid temperature. -/
def Core.decide (c : Core) (kind : Nat) (x : U32) : Core :=
  let v := c.units.ver
  let stop := (v.stops.take v.nstop.toNat).contains x
  let j := v.j + 1
  match kind with
  | 0 =>
    if v.run then
      let c := c.updVer (fun v => { v with j := j })
      if stop then (c.commit j).atEnd (.frag v.fend)
      else c.atEnd (.frag (if j.toNat < v.draft.toNat then v.fchk else v.ffin))
    else c.atEnd (.frag 0#16)
  | 1 => c.atEnd (.frag (if v.run then v.ffin else 1#16))
  | 2 =>
    if v.run then ((c.updVer (fun v => { v with j := j })).commit j).atEnd (.frag (if stop then v.fend else v.fcom))
    else c.atEnd (.frag 2#16)
  | _ => if v.run then (c.commit v.j).atEnd (.frag v.fend) else c.atEnd (.frag 0xFFFF#16)

/-- A run descriptor that `ver.stop` accepts (R289). -/
def runOk (t : U64) (refused : BitVec 8) (d : List Byte) : Bool :=
  let num (o n : Nat) : Nat := leNat ((d.drop o).take n)
  t.toNat % 64 = 0 && refused = 0#8 && num 0 1 ≤ 63 && num 1 1 ≤ 8 && 1 ≤ num 2 2 && num 0x30 16 = 0

/-- The verifier with a descriptor loaded. -/
def Ver.load (v : Ver) (d : List Byte) : Ver :=
  let num (o n : Nat) : Nat := leNat ((d.drop o).take n)
  { v with run := true, j := 0#16, slot := BitVec.ofNat 6 (num 0 1), nstop := BitVec.ofNat 4 (num 1 1),
           draft := BitVec.ofNat 16 (num 2 2), base := BitVec.ofNat 32 (num 4 4), fchk := BitVec.ofNat 16 (num 8 2),
           ffin := BitVec.ofNat 16 (num 0x0A 2), fcom := BitVec.ofNat 16 (num 0x0C 2), fend := BitVec.ofNat 16 (num 0x0E 2),
           stops := (List.range 8).map (fun i => BitVec.ofNat 32 (num (0x10 + 4 * i) 4)) }

/-- The refusal of `ver.cand` (R286). -/
def candRefused (v : Ver) (o : VerOp) (cs : List U32) : Bool :=
  o.k = 0 || 4 < o.k || o.n = 0 || o.o % 64 ≠ 0 || cs.any (fun c => o.n ≤ c.toNat) || !(decide cs.Nodup) ||
    tauMode v.tau = .invalid

/-- What an operation has read, after one more cycle of its occupancy: each element old or new (R283). -/
def State.verSeen (s : State) (o : VerOp) : VerOp :=
  { o with
    prow := s.pickRow 3 o.prow (if o.prow.isEmpty then [] else (s.verRow (o.o + 0x40) o.n).1)
    qrow := s.pickRow 4 o.qrow (if o.qrow.isEmpty then [] else (s.verRow (o.o + 0x40 + rowBytes o.n) o.n).1)
    head := if o.opc = 1 then s.pickRow 5 o.head (s.verCand o.o).1 else o.head }

/-- Lands a verifier operation: everything it does at the end of c+L−1, and its answer for c+L (R283-R290). -/
def State.landVer (s : State) (o : VerOp) : State :=
  let v := s.me.units.ver
  let bad := tauMode v.tau = .invalid
  let inv := flagIf bad fINV
  let st := o.head.foldl (fun f e => f ||| numFlags e.tag) (statusFlags o.refused)
  match o.opc with
  | 1 =>
    let cs := (o.head.take (min o.k 4)).map (fun e => BitVec.ofNat 32 e.bits)
    if candRefused v o cs then s.updMe (fun c => (c.updVer (fun v => { v with cands := [] })).verAnswer 1#64 (st ||| inv))
    else
      let q := verVals o.qrow
      let p := probRow v.tau q.1
      let a := o.o + 0x40 + rowBytes o.n
      let wr := statusFlags (s.myCluster.info.writeRefusal a (4 * o.n))
      (s.verWrite a p.1).updMe (fun c => (c.updVer (fun v => { v with cands := cs })).verAnswer 0#64 (st ||| q.2 ||| p.2 ||| wr))
  | 2 =>
    let clear (c : Core) : Core := c.updVer (fun v => { v with cands := [] })
    if bad then s.updMe (fun c => ((clear c).decide 3 0#32).verAnswer 0xFFFFFFFF#64 (st ||| fINV))
    else
      let x := verVals o.prow
      let p := probRow v.tau x.1
      let q := verVals o.qrow
      let t := trials v.tau (q.1.map (fun v => if v = .poison then .fin false 0 0 else v)) p.1 v.cands o.us
        (st ||| x.2 ||| p.2 ||| (if v.cands.isEmpty then 0#32 else q.2))
      let wr := statusFlags (s.myCluster.info.writeRefusal (o.o + 0x40) (4 * o.n))
      (s.verWrite (o.o + 0x40) t.r).updMe (fun c =>
        match t.accepted with
        | some a => ((clear c).decide 0 a).verAnswer (a.setWidth 64) (t.flags ||| wr)
        | none => ((clear c).decide 1 0#32).verAnswer 0xFFFFFFFF#64 (t.flags ||| wr))
  | 3 =>
    if bad then s.updMe (fun c => (c.decide 3 0#32).verAnswer 0xFFFFFFFF#64 (st ||| fINV))
    else
      let x := verVals o.prow
      let p : List Val × U32 := if o.t.getLsbD 0 then probRow v.tau x.1 else (x.1, 0#32)
      let s := if o.t.getLsbD 0 then s.verWrite (o.o + 0x40) p.1 else s
      let wr := if o.t.getLsbD 0 then statusFlags (s.myCluster.info.writeRefusal (o.o + 0x40) (4 * o.n)) else 0#32
      let fl := st ||| x.2 ||| p.2 ||| wr
      s.updMe (fun c =>
        match finDraw v.tau p.1 (o.us.getD 0 0#32) with
        | some i => (c.decide 2 i).verAnswer (i.setWidth 64) fl
        | none => (c.decide 3 0#32).verAnswer 0xFFFFFFFF#64 (fl ||| fEMP))
  | _ =>
    let d := o.head.map (fun e => BitVec.ofNat 8 e.bits)
    if runOk o.t o.refused d then
      s.updMe (fun c => (c.updVer (fun v => v.load d)).verAnswer 0#64 st)
    else s.updMe (fun c => (c.updVer (fun v => { v with run := false })).verAnswer 1#64 st)

/-- The verifier's part of a cycle: its operations read, and every one whose last cycle this is lands, in issue order,
and leaves. -/
def State.verStep (s : State) : State :=
  let s := s.updMe (fun c => { c with units := { c.units with verOps := c.units.verOps.map s.verSeen } })
  let due := s.me.units.verOps.filter (fun o => o.left = 0)
  if due.isEmpty then s
  else (due.foldl State.landVer s).updMe (fun c =>
    { c with units := { c.units with verOps := c.units.verOps.filter (fun o => o.left ≠ 0) } })

end Sys2Proof.Machine
end

