-- ==== Sys2Proof/Machine/Pan.lean ====
section
/-!
DEFINITION. The Panner `pan` (spec/09 R266-R282, spec/04 R128, R129).
-/
namespace Sys2Proof.Machine

open Sys2Proof

/-! ## Short operations (R282) -/

/-- `pan.merge`: merges `o` with t in the mode that MM holds, at c+4. -/
def execPanMerge (t : Trig) (s : State) : Host.Outcome State Fault Refusal :=
  shortMe t s (fun v c =>
    let n := c.units.drawCtr
    let r := mergePair (c.port 0x13 0) v c.units.mergeGreedy ((mix c.key n >>> 32).setWidth 32)
    ({ c with units := { c.units with drawCtr := n + 1 } }).deliver 4 [.port (keyOf 0x13 0) r.1, .sticky r.2])

/-- `pan.rand`: the mixer output for the next counter value, at c+4. -/
def execPanRand (t : Trig) (s : State) : Host.Outcome State Fault Refusal :=
  shortMe t s (fun _ c =>
    let n := c.units.drawCtr
    ({ c with units := { c.units with drawCtr := n + 1 } }).deliverPort 4 0x13 0 (mix c.key n))

/-- `pan.ctr`: the draw counter, at c+1. -/
def execPanCtr (t : Trig) (s : State) : Host.Outcome State Fault Refusal :=
  shortMe t s (fun _ c => c.deliverPort 1 0x13 0 c.units.drawCtr)

/-- `pan.clrf`: clears the slow-path flags whose bit in t is 1, at the end of the cycle. -/
def execPanClrf (t : Trig) (s : State) : Host.Outcome State Fault Refusal :=
  shortMe t s (fun v c => c.atEnd (.clrFlags v))

/-! ## Engine commands: shape and time -/

/-- Rows and columns of a command. -/
def panRows (w : PanWord) : Nat := w.row1.toNat + 1
def Cmd.panN (m : Cmd) (w : PanWord) : Nat := (m.s w.ns).toNat
def Cmd.panTau (m : Cmd) (w : PanWord) : U32 := m.s w.ts
def Cmd.panAux (m : Cmd) (w : PanWord) : U32 := m.s w.xs

/-- The first cycle of reading, and the cycles that a row takes (R128, R275). -/
def panBase (opc : Nat) : Nat := if opc = 0 || opc = 5 then 16 else if opc = 6 then 12 else 8
def Cmd.panPer (m : Cmd) (opc : Nat) (w : PanWord) : Nat :=
  if opc = 3 then (m.panAux w).toNat else ceilDiv (m.panN w) (if opc = 5 then 16 else 64)

/-- The counter values that a command takes (R270). -/
def panDraws (opc rows n : Nat) : Nat := if opc = 0 || opc = 5 then rows * (n - 1) else 0

/-- The layout of rows of `n` elements of width `w`, each padded to whole lines (R276). -/
def panLay (n w : Nat) : Lay := { rows := 16384, cols := 64 * ceilDiv (n * w) 64 / w, width := w }

/-- The line of device memory at the base of a handle operand, where it can be read. -/
def OpSrc.baseLine (x : OpSrc) : List Nat :=
  if x.spec.space = 5#3 && hPr x.hand && !(handleRefuses x.hand x.addr.toNat 1) then [hAddr x.hand x.addr.toNat / 64 * 64] else []

/-- The descriptor of the line at an operand's base, if it can be read. -/
def State.baseTag (s : State) (m : Cmd) (x : OpSrc) : Option U16 :=
  let t := s.myCluster.info
  let a := x.addr.toNat
  match x.spec.space.toNat with
  | 1 => some (s.me.tile.tag dtOn (4096 * (x.spec.index.toNat % 32)))
  | 4 => if localRefusal t false a 1 = 0#8 then some (s.localTag t s.me a) else none
  | _ => (x.baseLine.head?.bind (s.lineRead m)).map Reply.tag

/-- A format in which logits may stand (R276). -/
def logitFmt (f : Nat) : Bool := isB8 f || f = 0x20 || f = 0x21 || f = 0x22

/-- The element width of an operand, and whether every line of it decodes as poison (R276). -/
def State.panWidth (s : State) (m : Cmd) (opc : Nat) (x : OpSrc) : Nat × Bool :=
  if opc = 0 then (8, false)
  else
    match s.baseTag m x with
    | some d => if logitFmt (descFmt d) then (fmtBits (descFmt d) / 8, false) else (4, true)
    | none => (4, true)

/-- The lines of device memory that row `j` of LG takes, for elements of a width. -/
def Cmd.panRowLines (m : Cmd) (w : PanWord) (width j : Nat) : List Nat :=
  let l := panLay (m.panN w) width
  (m.src w.lg).lines l (l.cols * j) (m.panN w)

/-- The lines outside the scratchpad that a running command reads, as far as it knows them: the line that fixes the width,
then those of its rows (R276, R318). -/
def State.panLines (s : State) (m : Cmd) (opc : Nat) (w : PanWord) : List Nat :=
  let x := m.src w.lg
  let base := if opc = 0 then [] else x.baseLine
  base ++ (if base.all (fun pa => (s.lineRead m pa).isSome) then
    (List.range (panRows w)).flatMap (m.panRowLines w (s.panWidth m opc x).1) else [])

/-- A logit as decoded; `bad` says that the base line holds no logit format. A line of any format but those of logits,
poison among them, sets FMT and POI (R276). -/
def panLogit (w : Nat) (bad : Bool) (e : Elem) : Dec :=
  if e.kind = .refused then { v := .inf true }
  else
    let f := descFmt e.tag
    if !bad && logitFmt f && fmtBits f = 8 * w then decIn f (descScale e.tag) e.bits
    else badLine f

/-- A parameter that the command's rule does not allow: STATUS SHAPE (R278, R280). -/
def panShape (opc : Nat) (aux : U32) : Bool :=
  let v := ofF32 aux.toNat
  match opc with
  | 1 => match v with
    | .fin neg _ _ => neg || vlt (.fin false 1 0) v
    | _ => true
  | 2 => match v with
    | .fin neg m _ => neg || m = 0
    | _ => true
  | 4 => v = .nan
  | _ => false

/-! ## Draws (R277) -/

/-- Combines two leaves of the tree of draws. A leaf of a poison line is an invalid pair. -/
def drawStep (key : U64) (greedy : Bool) (st : U64 × U32) (a b : U64) : (U64 × U32) × U64 :=
  let r := mergePair a b greedy ((mix key st.1 >>> 32).setWidth 32)
  ((st.1 + 1, st.2 ||| r.2), r.1)

/-- The draw of one row, with its flags. -/
def drawRow (key : U64) (greedy : Bool) (ctr : U64) (leaves : List U64) : U64 × U32 :=
  if leaves.isEmpty then (emptyPair, fEMP)
  else
    let t := tree (drawStep key greedy) emptyPair 64 (ctr, 0#32) leaves
    (t.2, t.1.2 ||| flagIf (pairZero t.2) fEMP)

/-- A pair as `pan.draw` reads it, with the flag of a poison line. -/
def pairOf (e : Elem) : U64 × U32 :=
  if e.kind = .refused then (emptyPair, 0#32)
  else if descFmt e.tag = 0x7F then (poisonPair, fPOI)
  else (BitVec.ofNat 64 e.bits, 0#32)

/-- A λ as an FP32 code. -/
def lamCode (v : Val) : Nat := (toF32 v).1

/-- The λ of a row of logits: weighted with the +∞ rule, or in greedy mode the logits as FP32 (R267, R277). A greedy
draw (`draw`) keeps a logit that is NaN or poison as a λ that is NaN, an invalid pair; the ranking and the sum of R278
and R279 take it as R267 does (log entry 71). -/
def lamRow (draw : Bool) (tau : U32) (xs : List Val) : List Val × U32 :=
  if tauMode tau = .greedy then
    let ls := xs.map (fun x =>
      if draw && x.bad then (.nan, 0#32) else let l := logitOf x; (fun r => (r.1, r.2 ||| l.2)) (f32 l))
    (ls.map (·.1), ls.foldl (fun f l => f ||| l.2) 0#32)
  else
    let ls := xs.map (fun x => lamOf x (ofF32 tau.toNat))
    (adjustInf (ls.map (·.1)), ls.foldl (fun f l => f ||| l.2) 0#32)

/-- The leaves of `pan.full`. -/
def leavesOf (lam : List Val) : List U64 := lam.mapIdx (fun i v => mkPair (lamCode v) (BitVec.ofNat 32 i))

/-! ## Shortlists (R278) -/

/-- The entries of a shortlist: the 256 of largest λ, descending, ties to the lower index. -/
def shortlist (lam : List Val) : List (Nat × Val) :=
  (sortBy (fun a b => !(vlt a.2 b.2)) (lam.mapIdx (fun i v => (i, v)))).take 256

/-- The threshold θ of s[XS]. -/
def theta (aux : U32) : Val := if aux = 0#32 then .fin false 4095 (-12) else ofF32 aux.toNat

/-- The mass of the entries is below θ times that of the row (R278). -/
def isSlow (aux : U32) (lam : List Val) (top : List (Nat × Val)) : Bool :=
  match maxLam lam, theta aux with
  | some m, .fin _ a e =>
    let part := massFix m (top.map (·.2))
    let all := massFix m lam
    part.toNat * pow2 (-e) < a * pow2 e * all.toNat
  | _, _ => false

/-! ## Edits (R280) -/

/-- Rewrites a logit in its own format under its own scale. -/
def edited (d : Dec) (x : Val × U32) : Nat × U32 :=
  match fmtOf d.fmt with
  | some f =>
    let r := rndFmt f rne false (x.1.scale ((d.scale : Int) - 255))
    (r.1, x.2 ||| r.2)
  | none => (0, 0#32)

/-- `pan.pen` on one logit whose bit is 1. -/
def penalty (rho : U32) (d : Dec) : Option (Nat × U32) :=
  match d.v with
  | .fin neg m _ =>
    if m = 0 then none
    else if neg then some (edited d (vmul d.v (ofF32 rho.toNat)))
    else
      match fmtOf d.fmt, ofF32 rho.toNat, d.v.scale ((d.scale : Int) - 255) with
      | some (.flt f), .fin _ n k, .fin s m e => some (rndRat f rne s m n (e - k))
      | _, _, _ => none
  | _ => none

/-- The new code of a logit and flags, from its decoded value and the old code. -/
def editOne (opc : Nat) (aux : U32) (bits : List Bool) (i : Nat) (d : Dec) (old : Nat) : Nat × U32 :=
  match opc with
  | 2 => if bits.getD i false then (penalty aux d).getD (old, 0#32) else (old, 0#32)
  | 4 => edited d (vmul d.v (ofF32 aux.toNat))
  | _ => (old, 0#32)

/-- Applies one entry of a bias list to the codes of a row. -/
def biasEntry (ds : List Dec) (p : List Nat × U32) (e : Nat × U32) : List Nat × U32 :=
  match ds[e.1]? with
  | none => p
  | some d =>
    if d.v = .poison then p
    else
      let cur := decIn d.fmt d.scale (p.1.getD e.1 0)
      let r := edited d (vadd false cur.v (ofF32 e.2.toNat))
      (p.1.set e.1 r.1, p.2 ||| r.2)

/-! ## Running -/

/-- Local bytes of a list or bitmap from `a` in units of `n` bytes, as the stream `v` has them: none for a refused unit; with
the flags of refusals and of poison or reserved lines (R52, R281). -/
def State.panUnits (s : State) (v : Core) (a n count : Nat) : List (Option (List Byte)) × U32 :=
  let t := s.myCluster.info
  (List.range count).foldr (fun i p =>
    let x := a + n * i
    let st := localRefusal t false x n
    if st = 0#8 then
      (some (s.localBytes t v x n) :: p.1, (s.localTags t v x n).foldl (fun f d => f ||| tagFlags d) p.2)
    else (none :: p.1, p.2 ||| statusFlags st)) ([], 0#32)

/-- The operand that stands for the output at DA. -/
def Cmd.out (m : Cmd) (da : BitVec 5) : OpSrc :=
  { spec := { space := 4#3, index := 0#6, rs := 0#6, str := 1#6 }, addr := m.a da, cls := m.com.rcl }

/-- Reads row `j` of LG with, for `pan.pen` and `pan.bias`, its bitmap or list. -/
def State.panRow (s : State) (m : Cmd) (opc : Nat) (w : PanWord) (j : Nat) : Cmd :=
  let n := m.panN w
  let l := panLay n m.data.width
  let r := s.engElems m (m.src w.lg) l (l.cols * j) n
  let b := (m.panAux w).toNat
  let v := s.viewFor m
  let x : List (Option (List Byte)) × U32 :=
    match opc with
    | 2 => s.panUnits v ((m.a w.aa).toNat + 64 * j * ceilDiv n 512) 1 (ceilDiv n 8)
    | 3 => s.panUnits v ((m.a w.aa).toNat + 8 * b * j) 8 b
    | _ => ([], 0#32)
  let list := match opc with
    | 3 => x.1.flatMap (fun u => u.getD [])
    | _ => x.1.flatMap (fun u => u.getD [0#8])
  { m with data := { m.data with
    rows := m.data.rows ++ [r], lists := m.data.lists ++ [list]
    flags := m.data.flags ||| refusedFlags r ||| x.2 } }

/-- What a command writes at its end, and the flags that it finds then. -/
structure PanOut where
  res : List Res := []
  width : Nat := 8
  flags : U32 := 0#32
  slow : U64 := 0#64

/-- Pairs from a place on. -/
def pairsAt (first : Nat) (ps : List U64) : List Res := ps.mapIdx (fun i p => (first + i, p.toNat, 0x00FF#16))

/-- The one leaf of a row of a single pair: no merge changes it. A poison pair has a λ that is NaN; no rule gives its
index, which is free (log entry 36). -/
def loneLeaf (f : Nat) (e : Elem) : U64 :=
  if e.kind ≠ .refused && descFmt e.tag = 0x7F then mkPair nan32 ((Config.freeWord f).setWidth 32) else (pairOf e).1

/-- The results of row `j` of a command that writes to DA (R277-R279); `f` numbers its free values. -/
def panResult (f : Nat) (m : Cmd) (opc : Nat) (w : PanWord) (j : Nat) : PanOut :=
  let n := m.panN w
  let tau := m.panTau w
  let es := m.data.rows.getD j []
  let ds := es.map (panLogit m.data.width (m.data.n = 1))
  let lam := lamRow (opc = 5) tau (ds.map Dec.v)
  let fl := ds.foldl (fun f d => f ||| d.flags) 0#32
  let ctr := m.ctr + BitVec.ofNat 64 (j * (n - 1))
  let greedy := tauMode tau = .greedy
  let valid := tauMode tau ≠ .invalid
  match opc with
  | 0 =>
    let ps := es.map pairOf
    let fl := ps.foldl (fun f p => f ||| p.2) 0#32
    if valid then
      let r := drawRow m.key greedy ctr (if n = 1 then es.map (loneLeaf (f + j)) else ps.map (·.1))
      { res := pairsAt j [r.1], flags := fl ||| r.2 }
    else { res := pairsAt j [emptyPair], flags := fl ||| fINV ||| fEMP }
  | 5 =>
    if valid then
      let r := drawRow m.key greedy ctr (leavesOf lam.1)
      { res := pairsAt j [r.1], flags := fl ||| lam.2 ||| r.2 }
    else { res := pairsAt j [emptyPair], flags := fl ||| fINV ||| fEMP }
  | 1 =>
    let bit : U64 := BitVec.ofNat 64 (2 ^ (j % 64))
    if valid then
      let top := shortlist lam.1
      let ps := top.map (fun e => mkPair (lamCode e.2) (BitVec.ofNat 32 e.1))
      { res := pairsAt (256 * j) (ps ++ List.replicate (256 - ps.length) emptyPair), flags := fl ||| lam.2
        slow := if !greedy && isSlow (m.panAux w) lam.1 top then bit else 0#64 }
    else { res := pairsAt (256 * j) (List.replicate 256 emptyPair), flags := fl ||| fINV, slow := bit }
  | _ =>
    if valid then
      let r : Nat × U32 :=
        if greedy then ((toF32 (lam.1.foldl vmax (.inf true))).1, 0#32) else logMass rne lam.1
      { res := [(j, r.1, 0x44FF#16)], width := 4, flags := fl ||| lam.2 ||| r.2 }
    else { res := [(j, nan32, 0x44FF#16)], width := 4, flags := fl ||| fINV }

/-- The rewritten elements of row `j` of an edit (R280); those of poison lines stay. -/
def panEdit (m : Cmd) (opc : Nat) (w : PanWord) (j : Nat) : List Res × U32 :=
  let l := panLay (m.panN w) m.data.width
  let es := m.data.rows.getD j []
  let list := m.data.lists.getD j []
  let ds := es.map (panLogit m.data.width (m.data.n = 1))
  let fl := ds.foldl (fun f d => f ||| d.flags) 0#32
  let old := es.map Elem.bits
  let new : List Nat × U32 :=
    if opc = 3 then
      let entry (i : Nat) : Nat × U32 :=
        (leNat ((list.drop (8 * i)).take 4), BitVec.ofNat 32 (leNat ((list.drop (8 * i + 4)).take 4)))
      let usable := es.mapIdx (fun i e => if e.kind = .refused then { v := .poison } else ds.getD i { v := .poison })
      ((List.range (list.length / 8)).map entry).foldl (biasEntry usable) (old, 0#32)
    else
      let bits := list.flatMap (fun b => (List.range 8).map (fun i => b.getLsbD i))
      let rs := ds.mapIdx (fun i d => editOne opc (m.panAux w) bits i d (old.getD i 0))
      (rs.map (·.1), (rs.zip (es.zip ds)).foldl (fun f r =>
        if r.2.1.kind = .refused || r.2.2.v = .poison then f else f ||| r.1.2) 0#32)
  let out := (List.range es.length).filterMap (fun i =>
    let e := es.getD i {}
    if e.kind = .refused || (ds.getD i { v := .poison }).v = .poison then none else some (l.cols * j + i, new.1.getD i 0, e.tag))
  (out, fl ||| new.2)

/-- The width of the elements, at the first reading cycle (R276). -/
def State.panFixWidth (s : State) (m : Cmd) (opc : Nat) (w : PanWord) : Cmd :=
  let p := s.panWidth m opc (m.src w.lg)
  { m with data := { m.data with width := p.1, n := if p.2 then 1 else 0 } }

/-- The writes of a command, at the end of its last cycle (R275-R280). -/
def State.panWrite (s : State) (m : Cmd) (opc : Nat) (w : PanWord) : EngAct :=
  let x := m.src w.lg
  if 2 ≤ opc && opc ≤ 4 then
    s.withPut x fun _ =>
      let es := (List.range m.data.rows.length).map (panEdit m opc w)
      let p := s.engPut m x (panLay (m.panN w) m.data.width) (es.flatMap (·.1))
      .go p.1 ((m.put p).flag (es.foldl (fun f e => f ||| e.2) 0#32))
  else
    let os := (List.range (panRows w)).map (panResult (s.freeAt 12 0) m opc w)
    let p := s.engPut m (m.out w.da) { rows := 1, cols := 2 ^ 40, width := if opc = 6 then 4 else 8 } (os.flatMap PanOut.res)
    let m := (m.put p).flag (os.foldl (fun f o => f ||| o.flags) 0#32)
    let slow := os.foldl (fun f o => f ||| o.slow) 0#64
    .go (if opc = 1 then p.1.updMe (fun c => c.atEnd (.setFlags slow)) else p.1) m

/-- What a started command does in cycle `el` after its start. -/
def State.panRun (s : State) (m : Cmd) (opc : Nat) (w : PanWord) (el : Nat) : EngAct :=
  let x := m.src w.lg
  let per := m.panPer opc w
  let base := panBase opc
  if el = 0 then
    let dur := base + panRows w * per
    match engPerm x (panLay (m.panN w) 8) true (2 ≤ opc && opc ≤ 4) with
    | some _ => .fault 6 2 x.addr
    | none => .go s (if panShape opc (m.panAux w) then m.shape dur 0#32 else { m with dur := dur })
  else if m.data.status ≠ 0 then .go s m
  else
    s.withLines m (if el = base && opc ≠ 0 then x.baseLine else []) fun _ =>
      let m := if el = base then s.panFixWidth m opc w else m
      let j := (el - base) / per
      let due := base ≤ el && 0 < per && (el - base) % per = 0 && j < panRows w
      s.withLines m (if due then m.panRowLines w m.data.width j else []) fun _ =>
        let m := if due then s.panRow m opc w j else m
        if el + 1 < m.dur then .go s m else s.panWrite m opc w

/-- Completes the command at the head of the `pan` queue with what every completion does (R275, R281). The
record's OFFSET is the first counter value reserved, 0 for none. -/
def State.panFinish (s : State) (m : Cmd) (opc : Nat) (w : PanWord) : State :=
  let off := if panDraws opc (panRows w) (m.panN w) = 0 then 0 else m.ctr.toNat
  s.finish .pan 0 m m.data.status off 0#32 m.data.flags

/-! ## The words -/

/-- A `pan` word: it captures the registers its fields name, reserves its counter values, and sets MM (R268,
R270, R275). -/
def panIssue (i : Instr) (opc : Nat) (w : PanWord) (s : State) : Host.Outcome State Fault Refusal :=
  engIssue i ([kA w.aa.toNat, kA w.da.toNat, kS w.xs.toNat, kS w.ns.toNat, kS w.ts.toNat] ++ opndKeys w.lg)
    (fun _ => 0#4096)
    (fun c =>
      let n := (c.sreg w.ns.toNat).toNat
      let mode := tauMode (c.sreg w.ts.toNat)
      let mm := if opc = 0 || opc = 1 || 5 ≤ opc then
        (match mode with | .greedy => true | .weighted => false | .invalid => c.units.mergeGreedy) else c.units.mergeGreedy
      { c with units := { c.units with
        drawCtr := c.units.drawCtr + BitVec.ofNat 64 (panDraws opc (panRows w) n), mergeGreedy := mm } }) s

/-- `pan.draw` (R277). -/
def execPanDraw (w : PanWord) (s : State) : Host.Outcome State Fault Refusal := panIssue (.panDraw w) 0 w s

/-- `pan.short` (R278). -/
def execPanShort (w : PanWord) (s : State) : Host.Outcome State Fault Refusal := panIssue (.panShort w) 1 w s

/-- `pan.pen` (R280). -/
def execPanPen (w : PanWord) (s : State) : Host.Outcome State Fault Refusal := panIssue (.panPen w) 2 w s

/-- `pan.bias` (R280). -/
def execPanBias (w : PanWord) (s : State) : Host.Outcome State Fault Refusal := panIssue (.panBias w) 3 w s

/-- `pan.scale` (R280). -/
def execPanScale (w : PanWord) (s : State) : Host.Outcome State Fault Refusal := panIssue (.panScale w) 4 w s

/-- `pan.full` (R277). -/
def execPanFull (w : PanWord) (s : State) : Host.Outcome State Fault Refusal := panIssue (.panFull w) 5 w s

/-- `pan.lse` (R279). -/
def execPanLse (w : PanWord) (s : State) : Host.Outcome State Fault Refusal := panIssue (.panLse w) 6 w s

end Sys2Proof.Machine
end

