-- ==== Sys2Proof/Machine/EngRun.lean ====
section
/-!
DEFINITION. The engine queues at work (spec/01 R35, R36, spec/06 R188, R189, spec/08 R237-R239): starts,
running commands, completions, and the holds they ask for.
-/
namespace Sys2Proof.Machine

open Sys2Proof

/-- Does something as each core of a cluster in turn, from core 0 on. -/
def State.eachCore (s : State) (slot : Nat) (f : State → State) : State :=
  (List.range (s.cluster slot).cores.length).foldl (fun s i => f { s with cur := 8 * slot + i }) s

/-- The engines that running Winze commands hold, and those lent for the copy of a page (R188, R366). -/
def Cluster.enginesBusy (c : Cluster) : List Nat :=
  c.cores.flatMap (fun k => (k.units.wzq.filter (fun m => m.el.isSome && m.opc ≠ 0x0A && m.chain.isNone)).map Cmd.eng) ++ c.lent.map (·.2)

/-- The least free engine of a cluster, of four (R188). -/
def Cluster.freeEngine (c : Cluster) : Option Nat := (List.range 4).find? (fun e => !(c.enginesBusy.contains e))

/-! ## Completions -/

/-- A command that did not run because a token that it consumes had failed settles with the status that began the chain
(R35, R190). -/
def State.settleChain (s : State) (k : EngKind) (pos : Nat) (m : Cmd) (status : Nat) : State :=
  s.updMe (fun c => (c.leave k pos).settle m true status 0 0#32)

/-- The duration of an `mx` or `pan` command has passed. -/
def Cmd.over (m : Cmd) : Bool := m.dur ≠ 0 && m.el = some m.dur

/-- Completes the command at the head of the `mx` or `pan` queue whose duration has passed and whose writes have performed
(R238, R326). -/
def State.doneHead (s : State) (k : EngKind) : State :=
  match (s.me.engQ k).head? with
  | none => s
  | some m =>
    if m.over && s.written m then
      match m.chain, mxOf m.instr, panOf m.instr with
      | some st, _, _ => s.settleChain k 0 m st
      | none, some (o, w), _ => s.mxFinish m o w
      | none, none, some (o, w) => s.panFinish m o w
      | none, none, none => s
    else s

/-- A mark of the `wz` queue, or a command that does not run for a failed token, that started in this cycle (R35, R203). -/
def Cmd.markDone (m : Cmd) : Bool := (m.opc = 0x0A || m.chain.isSome) && m.el = some 1

/-- Completes the first mark or failed chain of the `wz` queue that is due. -/
def State.doneMark (s : State) : State :=
  match s.me.units.wzq.findIdx? Cmd.markDone with
  | none => s
  | some i =>
    let m := s.me.units.wzq.getD i { instr := .bundleIssue }
    match m.chain with
    | some st => s.settleChain .wz i m st
    | none => s.finish .wz i m 0 0 0#32 0#32

/-- Completes every mark and failed chain of the `wz` queue that is due, in queue order. -/
def State.doneMarks (s : State) : State := (List.range (s.me.units.wzq.countP Cmd.markDone)).foldl (fun s _ => s.doneMark) s

/-- What completes on a stream at the end of a cycle (R238). -/
def State.engDone (s : State) : State := ((s.doneHead .mx).doneHead .pan).doneMarks

/-! ## Starts -/

/-- Whether the command at a place of a queue may start in this cycle, as far as its queue, tokens, checksum
chain, stamp and "after" mask say (R188, R237). `held` says that the cluster is in a wait hold. -/
def State.mayStart (s : State) (k : EngKind) (pos : Nat) (m : Cmd) (held : Bool) : Bool :=
  let q := s.me.engQ k
  let ahead := q.take pos
  m.el.isNone && !(s.me.pendingIn m) && stampOk m s.myCluster.csc held &&
  (match k with
    | .wz => ahead.all (fun c => c.el.isSome) &&
      (match wzOf m.instr with
        | some (_, w) => !w.ci || ahead.all (fun c => match wzOf c.instr with | some (_, x) => x.ck = 0#2 | none => true)
        | none => true)
    | _ => pos = 0) &&
  ((s.me.failedIn m).isSome || (s.me.afterLocal s.myCluster.csc m && (s.afterBuffers m || (k ≠ .wz && m.stamp ≠ 0#32))))

/-- A Winze command that starts on an engine, from a checksum carry (R131, R194). -/
def Cmd.begin (m : Cmd) (eng : Nat) (w : WzWord) (carry : U32) : Cmd :=
  { m with el := some 0, eng := eng, stamp := 0#32, dur := wzLeast (m.s w.ls).toNat, data := { m.data with carry := carry } }

/-- Starts a command that may start: one that consumes a failed token settles as failed at the end of the cycle without
running (R35, R40); one whose stamp is due while its "after" accesses have not performed holds the cluster (log
entry 23). -/
def State.startCmd (s : State) (k : EngKind) (pos : Nat) (m : Cmd) (eng : Nat) : State :=
  match s.me.failedIn m with
  | some t =>
    s.updMe (fun c => c.updCmd k pos (fun m => { m with el := some 0, dur := 1, stamp := 0#32, chain := some (sget 0 c.tokWhy t) }))
  | none =>
    if !(s.afterBuffers m) then s.askEngine
    else
      match wzOf m.instr with
      | some (0x09, w) =>
        if remoteOk (m.a w.da) then s.updMe (fun c => c.updCmd k pos (fun m => m.begin eng w (c.wzStart w)))
        else (s.updMe (fun c => c.updCmd k pos (fun m => { m with stamp := 0#32 }))).raiseEng 6 3 (m.a w.da)
      | some (0x0A, _) => s.updMe (fun c => c.updCmd k pos (fun m => { m with el := some 0, dur := 1, stamp := 0#32 }))
      | some (_, w) =>
        s.updMe (fun c => c.updCmd k pos (fun m => m.begin eng w (c.wzStart w)))
      | none => s.updMe (fun c => c.updCmd k pos (fun m => { m with el := some 0, stamp := 0#32 }))

/-- Starts the head of the `mx` or `pan` queue if it may. -/
def State.startHead (s : State) (k : EngKind) (held : Bool) : State :=
  match (s.me.engQ k).head? with
  | some m => if s.mayStart k 0 m held then s.startCmd k 0 m 0 else s
  | none => s

/-- The oldest command of the `wz` queue that has not started. -/
def Core.wzNext (c : Core) : Option (Nat × Cmd) :=
  (c.units.wzq.zipIdx.find? (fun p => p.1.el.isNone)).map (fun p => (p.2, p.1))

/-- A command needs an engine: it is no mark and does not fail for a consumed token (R188, R203, R35). -/
def Core.needsEngine (c : Core) (m : Cmd) : Bool := m.opc ≠ 0x0A && (c.failedIn m).isNone

/-- The `wz` queue of core `i` can start a command that takes an engine, and has started none in this cycle (R188; log entry
18). -/
def State.wzTakes (s : State) (slot i : Nat) (held : Bool) : Bool :=
  let s := { s with cur := 8 * slot + i }
  !(s.myCluster.took.contains i) &&
    (match s.me.wzNext with
      | some (pos, m) => s.mayStart .wz pos m held && s.me.needsEngine m
      | none => false)

/-- The queue to which the round-robin hands the next free engine: the first from the pointer on that can start (R188). -/
def State.wzWho (s : State) (slot : Nat) (held : Bool) : Option Nat :=
  ((List.range 8).map (fun d => ((s.cluster slot).rr + d) % 8)).find? (fun i => s.wzTakes slot i held)

/-- Queue `i` has taken an engine: the pointer goes on behind it (R188). -/
def Cluster.take (c : Cluster) (i : Nat) : Cluster := { c with rr := (i + 1) % 8, took := i :: c.took }

/-- Hands a free engine to the queue whose turn it is, if there is one of each. -/
def State.wzHand (s : State) (slot : Nat) (held : Bool) : State :=
  match s.wzWho slot held, (s.cluster slot).freeEngine with
  | some i, some e =>
    let s := { s with cur := 8 * slot + i }
    match s.me.wzNext with
    | some (pos, m) => (s.startCmd .wz pos m e).updCluster slot (fun c => c.take i)
    | none => s
  | _, _ => s

/-- Starts the oldest unstarted command of the stream where that needs no engine: a mark, or one that a consumed token has
failed (R203, R35). -/
def State.wzFree (s : State) (held : Bool) : State :=
  match s.me.wzNext with
  | some (pos, m) =>
    if s.mayStart .wz pos m held && !(s.me.needsEngine m) && !(s.myCluster.took.contains s.coreOf) then
      (s.startCmd .wz pos m 0).updMine (fun c => { c with took := s.coreOf :: c.took })
    else s
  | none => s

/-- The starts of the `wz` queues in one cycle (R188). -/
def State.wzStarts (s : State) (slot : Nat) (held : Bool) : State :=
  (List.range 8).foldl (fun s _ => s.wzHand slot held) ((List.range 8).foldl (fun s i => ({ s with cur := 8 * slot + i } : State).wzFree held) s)

/-! ## Running -/

/-- Marks a command as waiting for the page of an address (R189, R259). -/
def State.waitPage (s : State) (k : EngKind) (pos : Nat) (va : U64) (write : Bool) : State :=
  (s.updMe (fun c => c.updCmd k pos (fun m => { m with held := some (va, write) }))).askEngine

/-- What the head of a queue does in cycle `el` after its start. -/
def State.headAct (s : State) (m : Cmd) (el : Nat) : EngAct :=
  match mxOf m.instr, panOf m.instr with
  | some (o, w), _ => s.mxRun m o w el
  | none, some (o, w) => s.panRun m o w el
  | none, none => .go s m

/-- The lines that the head of a queue reads, as far as it knows them. -/
def State.headLines (s : State) (m : Cmd) : List Nat :=
  match mxOf m.instr, panOf m.instr with
  | some (o, w), _ => s.mxLines m o w
  | none, some (o, w) => s.panLines m o w
  | none, none => []

/-- The windows through which the head of a queue reads its operands, and the walks for its tile, in its start cycle. -/
def State.headMet (s : State) (m : Cmd) : State :=
  let t := s.myCluster.info
  match mxOf m.instr, panOf m.instr with
  | some (o, w), _ =>
    let s := s.windowsMet t ((m.src w.x).windowed (mxLay o w) 0 (mxReads o w) ++
      (if o = 0 then (m.src w.bin).windowed imageLay 0 (w.m1.toNat + 1) else []))
    if readsTile o then s.walked t (tileAddr m w).toNat else s
  | none, some (o, w) =>
    let l := panLay (m.panN w) 8
    let b := (m.panAux w).toNat
    let aa := (m.a w.aa).toNat
    let side := if o = 2 then 64 * ceilDiv (m.panN w) 512 else if o = 3 then 8 * b else 0
    s.windowsMet t ((List.range (panRows w)).flatMap (fun j => (m.src w.lg).windowed l (l.cols * j) (m.panN w)) ++
      (if aa < 0xE00000 then [] else (List.range (ceilDiv (side * panRows w) 64 + 1)).map (fun i => aa + 64 * i)))
  | none, none => s

/-- Runs the head of the `mx` or `pan` queue for one cycle: it makes the read accesses that it can name, and goes on, waits
or faults (R239, R259, R318, R322). -/
def State.runHead (s : State) (k : EngKind) : State :=
  match (s.me.engQ k).head? with
  | none => s
  | some m =>
    match m.el, m.chain with
    | none, _ | some _, some _ => s
    | some el, none =>
      if m.over then s
      else
        let s := if el = 0 then s.headMet m else s
        let r := s.fetchLines { m with held := none, moving := false } (s.headLines m)
        let s := r.1.updMe (fun c => c.updCmd k 0 (fun _ => r.2))
        match s.headAct r.2 el with
        | .go s m => s.updMe (fun c => c.updCmd k 0 (fun _ => m))
        | .wait va w => s.waitPage k 0 va w
        | .hold => (s.updMe (fun c => c.updCmd k 0 (fun m => { m with moving := true }))).askEngine
        | .late => s.askEngine
        | .fault cls code v =>
          let s := if code = 3 then s.report s.myCluster.info.launch (s.translate s.myCluster.info v.toNat) else s
          ((s.dropReplies (r.2.data.reads.map (·.2))).updMe (fun c => c.updCmd k 0 Cmd.restart)).raiseEng cls code v

/-- The engines of a cluster in one cycle: starts, then one cycle of every running command (R23, R25). `held`
says that the cluster is in a wait hold. -/
def State.engCycle (s : State) (slot : Nat) (held : Bool) : State :=
  let s := s.wzStarts slot held
  s.eachCore slot (fun s => (((s.startHead .mx held).runHead .mx).startHead .pan held).runHead .pan)

/-- One more cycle has passed for a running command; an `mx` or `pan` command that is over waits for its writes. -/
def Cmd.age (m : Cmd) : Cmd := if m.over && m.kind ≠ .wz then m else { m with el := m.el.map (· + 1) }

/-- The end of a cycle of the engines of a core. -/
def Core.engAge (c : Core) : Core :=
  { c with units := { c.units with
    mxq := c.units.mxq.map Cmd.age, wzq := c.units.wzq.map Cmd.age, panq := c.units.panq.map Cmd.age } }

/-- At the end of a cycle of the CSC, a stamp that was due counts no more: a command that has not started with it starts when
it is ready (R188, R237, R326; log entry 23). -/
def Core.stampsPass (c : Core) (csc : U64) : Core :=
  let past (m : Cmd) : Cmd := if !m.missed && m.stamp = csc.setWidth 32 then { m with stamp := 0#32 } else m
  { c with units := { c.units with mxq := c.units.mxq.map past, wzq := c.units.wzq.map past, panq := c.units.panq.map past } }

/-- The engines' part of the end of a cycle: commands age, those whose duration has passed complete, and what they fault on
arises at the boundary that follows (R238, R298). -/
def State.engEnd (s : State) (slot : Nat) : State :=
  ((s.updCluster slot (fun c => { c with cores := c.cores.map Core.engAge })).eachCore slot State.engDone).updCluster slot
    (fun c => { c with lateIn := c.lateIn ++ c.raised, raised := [] })

/-! ## Winze completion -/

/-- A Winze command has made its writes, has run for its least duration, and waits neither for its writes to perform nor
for the answer to its payload (R131, R190, R202, R326). -/
def State.wzDue (s : State) (m : Cmd) : Bool :=
  m.opc ≠ 0x0A && m.chain.isNone && m.data.phase = 2 && (match m.el with | some e => decide (m.dur ≤ e) | none => false) &&
    !(m.data.sent && m.data.remote.isNone) && s.written m

/-- The completion of the Winze command at a place of the stream's queue (R190): none if it cannot complete. -/
def State.wzComplete (s : State) (pos : Nat) : Option State :=
  match s.me.units.wzq[pos]? with
  | none => none
  | some m =>
    match wzOf m.instr with
    | none => none
    | some (o, w) =>
      if !(s.wzDue m) then none
      else
        let r := s.wzEnd m o w
        some (r.1.finish .wz pos m r.2.1 r.2.2.1 r.2.2.2 m.data.flags)

end Sys2Proof.Machine
end

