-- ==== Sys2Proof/Machine/Queue.lean ====
section
/-!
DEFINITION. The queue operations `q` and the stream operations `z` (spec/06 R181-R186, spec/04 R122).
-/
namespace Sys2Proof.Machine

open Sys2Proof

/-- The queue that a trigger operand names (R183). -/
def queueNo (t : U64) : Nat := t.toNat % 16

/-- `q.cfg`: the formats and the mode from the ports, at the end of the cycle (R183). -/
def execQCfg (t : Trig) (s : State) : Host.Outcome State Fault Refusal :=
  shortMe t s (fun v c =>
    c.atEnd (.qCfg (queueNo v) ((c.port 0x16 0).setWidth 7) ((c.port 0x16 1).setWidth 7) ((c.port 0x16 2).setWidth 5)))

/-- `q.clr`: discards every byte at the end of the cycle (R183). -/
def execQClr (t : Trig) (s : State) : Host.Outcome State Fault Refusal :=
  shortMe t s (fun v c => c.atEnd (.qClr (queueNo v)))

/-- `q.cnt`: the bytes held at the end of the cycle, at c+1 (R183). -/
def execQCnt (t : Trig) (s : State) : Host.Outcome State Fault Refusal :=
  shortMe t s (fun v c => c.deliver 1 [.count (queueNo v)])

/-- The stage number of a team (R34). -/
def Team.stage (t : Team) : Nat := t.team % t.stages

/-- A link to a stage queue that the team has (R13, R183): 1 upstream, 2 downstream, else none. -/
def Team.linkKind (t : Team) (k : Nat) : Nat :=
  if (k = 1 && 0 < t.stage) || (k = 2 && t.stage + 1 < t.stages) then k else 0

/-- `q.link`: joins a queue to a stage queue at the end of the cycle (R183). -/
def execQLink (t : Trig) (s : State) : Host.Outcome State Fault Refusal :=
  short t s (fun v s =>
    let k := s.myCluster.info.linkKind (field v.toNat 4 2)
    s.updMe (fun c => c.atEnd (.qLink (queueNo v) k)))

/-! ## Streams -/

/-- The binding that a descriptor gives, if it is one that binds (R184, R185). `hreg` and `sreg` read the
registers it names. -/
def bindingOf (d : List Byte) (hreg : Nat → U64) (sreg : Nat → U32) : Option ZBind :=
  let num (o n : Nat) : Nat := leNat ((d.drop o).take n)
  let kind := num 8 1
  let nops := num 10 1
  let dims : List (U32 × U32) := (List.range 3).map (fun i => (BitVec.ofNat 32 (num (0x10 + 8 * i) 4), BitVec.ofNat 32 (num (0x14 + 8 * i) 4)))
  let raw : List (Nat × Nat × Nat) := (List.range nops).map (fun i => (num (0x28 + 4 * i) 1, num (0x29 + 4 * i) 1, num (0x2A + 4 * i) 2))
  if 1 < kind || 4 < nops || num 0x0B 5 ≠ 0 || num 0x38 8 ≠ 0 || dims.any (fun p => p.1 = 0#32) ||
      raw.any (fun o => o.1 = 0 || 4 < o.1) then none
  else
    some { base := BitVec.ofNat 64 (num 0 8), handle := kind = 1, hand := if kind = 1 then hreg (num 9 1 % 32) else 0#64,
           dims := dims
           ops := raw.map (fun o =>
             (o.1, if o.1 = 1 || o.1 = 2 then sreg (o.2.1 % 64) else BitVec.ofNat 32 o.2.1, BitVec.ofNat 16 o.2.2)) }

/-- Binds a stream to the descriptor at a local address, as the machine stands (R185). A refused byte of the
descriptor reads as zero, so that a descriptor outside the window binds nothing. -/
def State.bindStream (s : State) (z a : Nat) : State :=
  let t := s.myCluster.info
  let s := s.windowsMet t [a, a + 63]
  let c := s.me
  let d : List Byte := (List.range 64).flatMap (fun i =>
    if localRefusal t false (a + i) 1 = 0#8 then s.localBytes t c (a + i) 1 else [0#8])
  let st := (List.range 64).foldl (fun x i => x ||| localRefusal t false (a + i) 1) 0#8
  s.updMe (fun c => { c with
    sflag := c.sflag ||| statusFlags st
    units := { c.units with
      z := match bindingOf d c.hreg c.sreg with
        | some b => sins z b c.units.z
        | none => sdel z c.units.z } })

/-- `z.set` (R185). -/
def execZSet (t : Trig) (s : State) : Host.Outcome State Fault Refusal :=
  shortMe t s (fun v c => c.atEnd (.zSet (v.toNat % 8) ((c.port 0x17 0).setWidth 24)))

/-- `z.rst`: rewinds a stream at the end of the cycle (R186). -/
def execZRst (t : Trig) (s : State) : Host.Outcome State Fault Refusal :=
  shortMe t s (fun v c => c.atEnd (.zRst (v.toNat % 8)))

/-- `z.pos`: the pops since the last bind or rewind, at c+1 (R186). DESIGN CHOICE: no rule says whether a pop of its own cycle
counts; the count is that of the start of the cycle (log entry 84). -/
def execZPos (t : Trig) (s : State) : Host.Outcome State Fault Refusal :=
  shortMe t s (fun v c =>
    c.deliverPort 1 0x17 0 (((slook c.units.z (v.toNat % 8)).map ZBind.pops).getD 0#32 |>.setWidth 64))

end Sys2Proof.Machine
end

