-- ==== Sys2Proof/Machine/Sys.lean ====
section
/-!
DEFINITION. The `sys` operations (spec/10 R292, R293, spec/04 R124).
-/
namespace Sys2Proof.Machine

open Sys2Proof

/-- `sys.halt`: halts the stream after its bundle (R15). -/
def execSysHalt (t : Trig) (s : State) : Host.Outcome State Fault Refusal :=
  short t s (fun _ s => if s.myCluster.handler then s.timing 17 else s.updMe (fun c => c.atEnd .halt))

/-- `sys.tret`: the return barrier (R304). -/
def execSysTret (t : Trig) (s : State) : Host.Outcome State Fault Refusal :=
  short t s (fun _ s =>
    if s.myCluster.handler then s.updMe (fun c => { c with pipe := { c.pipe with tret := true } }) else s.timing 16)

/-- `sys.ifence`: discards fetched lines; bundles from c+3 on are fetched anew, and every `b` register counts
as written (R145). -/
def execSysIfence (t : Trig) (s : State) : Host.Outcome State Fault Refusal :=
  shortMe t s (fun _ c => c.atEnd .ifence)

/-- `sys.trap`: SOFT at the boundary that follows (R298). -/
def execSysTrap (t : Trig) (s : State) : Host.Outcome State Fault Refusal :=
  shortMe t s (fun v c => { c with pipe := { c.pipe with soft := some v } })

/-- A trace event of kind TRAP: its class with 0 for entry or 1 for return, and an address (R315). -/
def Core.trapEvent (c : Core) (cls : Nat) (back : Bool) (a : Addr20) : Core :=
  c.event 7 (BitVec.ofNat 8 (2 * cls + if back then 1 else 0)) (a.setWidth 32)

/-- `sys.brk`: BREAK at the boundary that follows when a debugger is attached, a trace event when none is;
nothing in handler mode. -/
def execSysBrk (t : Trig) (s : State) : Host.Outcome State Fault Refusal :=
  short t s (fun _ s =>
    if s.myCluster.handler then s
    else if s.boss.debugger then s.updMe (fun c => { c with pipe := { c.pipe with brk := some (c.ctl.pc.setWidth 64) } })
    else s.updMe (fun c => c.trapEvent 12 false c.ctl.pc))

/-- `sys.tmark`: a MARK event (R315). -/
def execSysTmark (t : Trig) (s : State) : Host.Outcome State Fault Refusal :=
  shortMe t s (fun v c => c.event 8 0#8 (v.setWidth 32))

/-- `sys.tarm`: clears and unfreezes the trace buffer and arms its trigger, at the end of the cycle. -/
def execSysTarm (t : Trig) (s : State) : Host.Outcome State Fault Refusal :=
  shortMe t s (fun _ c => c.atEnd .tarm)

/-- `sys.tfrz`: freezes the trace buffer at the end of the cycle. -/
def execSysTfrz (t : Trig) (s : State) : Host.Outcome State Fault Refusal :=
  shortMe t s (fun _ c => c.atEnd .freeze)

/-- `sys.tmrs`: arms the timer at the end of the cycle (R314). -/
def execSysTmrs (t : Trig) (s : State) : Host.Outcome State Fault Refusal :=
  shortMe t s (fun _ c => c.atEnd (.timer true))

/-- `sys.tmrc`: disarms the timer at the end of the cycle (R314). -/
def execSysTmrc (t : Trig) (s : State) : Host.Outcome State Fault Refusal :=
  shortMe t s (fun _ c => c.atEnd (.timer false))

/-- `sys.yield`: a polite point (R309); nothing in handler mode. -/
def execSysYield (t : Trig) (s : State) : Host.Outcome State Fault Refusal :=
  short t s (fun _ s => if s.myCluster.handler then s else s.updMine (fun cl => { cl with polite := true }))

/-- `sys.seed`: reseeds the 18 converters at the end of the cycle (R60). -/
def execSysSeed (t : Trig) (s : State) : Host.Outcome State Fault Refusal :=
  shortMe t s (fun v c => c.atEnd (.seed v))

/-- `sys.di`: clears TIE of `sys.fen` at the end of the cycle. -/
def execSysDi (t : Trig) (s : State) : Host.Outcome State Fault Refusal :=
  shortMe t s (fun _ c => c.atEnd (.tie false))

/-- `sys.ei`: sets TIE of `sys.fen` at the end of the cycle. -/
def execSysEi (t : Trig) (s : State) : Host.Outcome State Fault Refusal :=
  shortMe t s (fun _ c => c.atEnd (.tie true))

end Sys2Proof.Machine
end

