-- ==== Sys2Proof/Machine/Xc.lean ====
section
/-!
DEFINITION. Cluster exchange `xc` (spec/06 R178-R180, spec/04 R121).
-/
namespace Sys2Proof.Machine

open Sys2Proof

/-- Sends a value to some core streams of the cluster; it arrives six cycles on (R178). -/
def State.send (s : State) (ds : List Nat) : State :=
  let v := s.me.port 0x0E 0
  s.updMine (fun cl => { cl with
    xc := cl.xc ++ ds.map (fun d => { dst := d, src := s.coreOf, v := v, left := 6 }) })

/-- `xc.snd` (R178). -/
def execXcSnd (t : Trig) (s : State) : Host.Outcome State Fault Refusal :=
  short t s (fun _ s => s.send [(s.me.port 0x0E 1).toNat % 8])

/-- `xc.bcs` (R178). -/
def execXcBcs (t : Trig) (s : State) : Host.Outcome State Fault Refusal :=
  short t s (fun _ s => s.send ((List.range 8).filter (fun i => (s.me.port 0x0E 1).getLsbD i)))

/-- The value that arrives at a core in this cycle. -/
def Cluster.arrival (cl : Cluster) (core : Nat) : Option XcMsg := cl.here.find? (fun m => m.dst = core)

/-- `xc.rcv`: takes the value that arrives in this cycle, zeros when none does (R179). -/
def execXcRcv (t : Trig) (s : State) : Host.Outcome State Fault Refusal :=
  short t s (fun _ s =>
    let m := s.myCluster.arrival s.coreOf
    s.updMe (fun c =>
      let c := { c with pipe := { c.pipe with rcv := true } }
      match m with
      | some m => c.deliver 1 [.port (keyOf 0x0E 0) m.v, .port (keyOf 0x0E 1) (BitVec.ofNat 64 (1 + 2 * m.src))]
      | none => c.deliver 1 [.port (keyOf 0x0E 0) 0#64, .port (keyOf 0x0E 1) 0#64]))

/-- `xc.sync`: records the mask for the check that follows when every stream's bundle has been issued
(R180). -/
def execXcSync (t : Trig) (s : State) : Host.Outcome State Fault Refusal :=
  short t s (fun _ s =>
    let m : BitVec 8 := (s.me.port 0x0E 1).setWidth 8
    s.updMe (fun c => { c with pipe := { c.pipe with sync := some m } }))

/-- A satisfied `xc.sync` of a core (R180): it is named in its own mask, and every stream named issues
`xc.sync` with the same mask in the same cycle. -/
def Cluster.syncOk (cl : Cluster) (core : Nat) (m : BitVec 8) : Bool :=
  m.getLsbD core && (List.range 8).all (fun i => !(m.getLsbD i) || (cl.core i).pipe.sync = some m)

/-- The streams that a failed `xc.sync` stops: each that issued one in vain, and every stream that such a
one names (R180). -/
def Cluster.syncFaults (cl : Cluster) : List Nat :=
  (List.range 8).filter (fun i =>
    (List.range 8).any (fun j => match (cl.core j).pipe.sync with
      | some m => !(cl.syncOk j m) && (i = j || m.getLsbD i)
      | none => false))

end Sys2Proof.Machine
end

