-- ==== Sys2Proof/Machine/Ops.lean ====
section
/-!
DEFINITION. Operations that every cycle of a cluster shares: delivering results (spec/01 R30), the writes at
the end of a cycle (R28, spec/06 R160), the trace buffer (spec/10 R315, R316), taking a trap (R298-R303),
saving (R309-R311) and returning (R304, R305).
-/
namespace Sys2Proof.Machine

open Sys2Proof

/-! ## Results (R30) -/

/-- What a flight delivers: its own values, or those that the replies of its accesses give (R158, R159, R164,
R168, R170, R173). DESIGN CHOICE: the spec gives no status of `ls.meta` or `ls.setmeta` on a poison block, and it is 0 (log
entry 73). -/
def State.flightPuts (s : State) (f : Flight) : List Put :=
  let rs := f.ids.filterMap s.arrivedReply
  match f.need with
  | none => f.puts
  | some (.load w off) =>
    let st := tagStatus (rs.map Reply.tag)
    let bytes := ((rs.flatMap Reply.bytes).drop off).take w
    f.puts ++ lsPuts (some (if st = 0#8 then BitVec.ofNat 64 (leNat bytes) else 0#64)) st
  | some .store | some .storeSw => f.puts ++ lsPuts none 0#8
  | some .loadSw => f.puts ++ lsPuts (some ((rs.head?.map Reply.swMeta).getD 0#64)) 0#8
  | some .atomic =>
    match rs.head? with
    | some r => f.puts ++ [.port (keyOf 0x0F 0) r.old, .port (keyOf 0x0F 1) (r.status.setWidth 64), .sticky r.flags]
    | none => f.puts

/-- Delivers one value of a result that completes now (R30, R38, R152, R52). -/
def State.putNow (s : State) (p : Put) : State :=
  match p with
  | .port k v => s.updMe (fun c => c.setResult k v)
  | .sticky f => s.updMe (fun c => c.stickyNow f)
  | .poll k => s.updMe (fun c => c.setResult (keyOf 0x0D 0) ((c.token k).setWidth 64))
  | .count k => s.updMe (fun c => c.setResult (keyOf 0x16 0) (BitVec.ofNat 64 (sget {} c.units.q k).held))
  | .poison => s.poisonRead true
  | p => s.updMe (fun c => c.note [p])

/-- A value for `ls.f`. -/
def Put.isStatus (p : Put) : Bool := match p with | .port k _ => k = kLsF | _ => false

/-- Delivers the flights of the stream that complete now, the earlier triggered first, so that the later
triggered wins a port (R30, item 5, R305). `forms` are the ages of the vector forms whose status has been delivered in this
cycle: a flight triggered before one of them does not write `ls.f`. -/
def State.flightsNow (s : State) (forms : List Nat) : State :=
  let fs := s.me.pipe.flights
  let due := fs.filter (fun f => f.left = 0)
  let s := due.foldl (fun s f =>
    ((s.flightPuts f).filter (fun p => !(p.isStatus && forms.any (fun a => a < f.age)))).foldl State.putNow s) s
  (s.dropReplies (due.flatMap Flight.ids)).updMe (fun c =>
    { c with pipe := { c.pipe with flights := fs.filter (fun f => f.left ≠ 0) } })

/-- The ages of the vector forms of `ls` whose last chunk completes in this cycle. -/
def Core.formsNow (c : Core) : List Nat := (c.pipe.lsv.filter (fun x => x.age + 1 = x.lat + x.chunks)).map LsVec.age

/-- Delivers every result of the stream that is due in this cycle; those of the vector operations and vector forms only
where they have not `landed` at this CSC value before. -/
def State.resultsNow (s : State) (landed : Bool) : State :=
  (if landed then s else s.vxDelivers.lsDelivers).flightsNow (if landed then [] else s.me.formsNow)

/-- The accesses that the operations and the engine commands of a core wait for or will. -/
def Core.owned (c : Core) : List Nat :=
  let of (fs : List Flight) (vs : List VOp) (ls : List LsVec) : List Nat :=
    fs.flatMap Flight.ids ++ vs.flatMap (fun v => v.ids ++ v.stores.map (·.2)) ++ ls.flatMap (fun x => x.ids.map (fun i => i.2.2))
  of c.pipe.flights c.pipe.vops c.pipe.lsv ++
    (match c.pipe.hidden with | some h => of h.flights h.vops h.lsv | none => []) ++
    (c.units.mxq ++ c.units.wzq ++ c.units.panq).flatMap (fun m => m.data.reads.map (·.2))

/-- Some operation of the package, in a cluster or in a saved context, waits for an access. -/
def State.waitsFor (s : State) (id : Nat) : Bool :=
  s.clusters.any (fun p => p.2.cores.any (fun c => c.owned.contains id)) ||
    s.boss.saved.any (fun x => x.ctx.cores.any (fun c => c.owned.contains id))

/-- Drops the replies that have come and that nothing waits for any more. -/
def State.dropGone (s : State) : State := { s with replies := s.replies.filter (fun r => !r.arrived || s.waitsFor r.id) }

/-- A flight of the stream needs a reply in this cycle that has not come (R26). -/
def State.flightLate (s : State) : Bool :=
  s.me.pipe.flights.any (fun f => f.left = 0 && !(s.allArrived f.ids))

/-- Some result of the stream is late (R26), or finds no room in a queue linked to a stage queue (R182). -/
def State.lateHere (s : State) : Bool :=
  s.flightLate || s.me.pipe.vops.any s.vxLate || s.me.pipe.lsv.any s.lsLate || (!s.myCluster.landed && s.me.pushLate)

/-! ## The trace buffer (R315, R316) -/

/-- Fields of `sys.trc`. -/
def trcPost (t : U64) : Nat := field t.toNat 52 12
def trcKind (t : U64) : Nat := field t.toNat 48 4
def trcTarg (t : U64) : Nat := field t.toNat 16 32

/-- The event is the trigger of `sys.trc`. -/
def trcMatches (t : U64) (e : TraceEntry) : Bool :=
  match trcKind t with
  | 2 => e.kind = 8 && e.data.toNat = trcTarg t
  | 3 => e.kind = 7 && e.info.toNat % 2 = 0 && e.info.toNat / 2 = trcTarg t % 16
  | 4 => (e.kind = 3 || e.kind = 4) && e.data.toNat = trcTarg t
  | _ => false

/-- The trigger is taken: POST events follow before the buffer freezes. -/
def Trace.fire (t : Trace) (trc : U64) : Trace :=
  if trcPost trc = 0 then { t with armed := false, frozen := true } else { t with armed := false, left := some (trcPost trc) }

/-- Records one event. -/
def Trace.put (t : Trace) (trc : U64) (e : TraceEntry) : Trace :=
  if t.frozen then t
  else
    let u := { t with entries := (e :: t.entries).take 4096 }
    match t.left with
    | some n => if n ≤ 1 then { u with left := none, frozen := true } else { u with left := some (n - 1) }
    | none => if t.armed && trcMatches trc e then u.fire trc else u

/-- Records the events of a cycle in the order of KIND, with a stamp; a matched bundle address fires first. -/
def Core.record (c : Core) (stamp : U64) : Core :=
  let t := { c.trace with pend := [], hit := false }
  let t := if c.trace.hit && t.armed && !t.frozen then t.fire c.trc else t
  let es := sortBy (fun a b => a.kind ≤ b.kind) c.trace.pend
  { c with trace := es.foldl (fun t e => t.put c.trc { e with stamp := stamp }) t }

/-- The stamp of events now: the CSC, in handler mode with bit 63 set. -/
def Cluster.stamp (c : Cluster) : U64 := if c.handler then c.csc ||| 0x8000000000000000#64 else c.csc

/-! ## Writes at the end of a cycle (R28, step 5) -/

/-- Bits of the control registers that writes keep (R294, R316). -/
def sysKeep (sel : Nat) (v : U64) : U64 :=
  if sel = 4 then v &&& 0xFFFF0007#64 else if sel = 10 then v &&& 0xFFFFFFFFFFFF00FF#64 else v

/-- A write to a control register of `sys` (R123); `sys.sflag` is cleared bit by bit (R38). -/
def Core.setSys (c : Core) (sel : Nat) (v : U64) : Core :=
  let v := sysKeep sel v
  match sel with
  | 3 => { c with sflag := c.sflag &&& ~~~(v.setWidth 32) }
  | 4 => { c with fen := v.setWidth 32 }
  | 5 => { c with key := v }
  | 7 => { c with tmr := v }
  | 10 => { c with trc := v }
  | _ => c

/-- Changes a queue. -/
def Core.updQ (c : Core) (k : Nat) (f : Queue → Queue) : Core :=
  { c with units := { c.units with q := sset {} c.units.q k (f (sget {} c.units.q k)) } }

/-- Changes a KV slot. -/
def Core.setKv (c : Core) (k : Nat) (v : U32 × U32) : Core :=
  { c with units := { c.units with kv := sset (0#32, 0#32) c.units.kv k v } }

/-- The converters of a core as a key seeds them (R60). -/
def seeds (key : U64) (core : Nat) : Store U32 :=
  (List.range 18).foldl (fun m i => sset 0#32 m i (seedConv key core i)) []

/-- A stream holds some lines of instruction memory (R334). -/
def Core.holdLines (c : Core) (ls : List Nat) : Core :=
  { c with fetch := { c.fetch with lines := ls.foldl (fun m l => if m.contains l then m else m ++ [l]) c.fetch.lines } }

/-- A write into a `b` register starts its prefetch: it is ready four cycles after (R144); the count of the
cycle of the write comes after it. -/
def Core.prefetch (c : Core) (ns : List Nat) : Core :=
  let c := c.holdLines (ns.map (fun n => (c.breg n).toNat / 64))
  { c with ctl := { c.ctl with bwait := ns.foldl (fun m n => sset 0 m n 4) c.ctl.bwait } }

/-- Applies one write of the issuing stream (R28, step 5), but for bindings, fences and commands. DESIGN CHOICE: no rule
joins `ctl.loop` and `sys.halt` in one bundle; the loop engine of the halted stream is idle (log entry 84). -/
def Core.applyW (c : Core) (core : Nat) (w : EndW) : Core :=
  match w with
  | .reg k v => let c := c.setReg k v; if kB 0 ≤ k && k < kB 8 then c.prefetch [k - kB 0] else c
  | .sys sel v => c.setSys sel v
  | .lcLoop k v => c.setReg k v
  | .kvMax k v =>
    let o := (c.kvSlot k).2
    c.setKv k (v, if v.toNat < o.toNat then v else o)
  | .kvLen k v => c.setKv k ((c.kvSlot k).1, v)
  | .qCfg q fi fo md => c.updQ q (fun x => { x with fi := fi, fo := fo, md := md })
  | .qClr q => c.updQ q (fun x => { x with lines := [] })
  | .qLink q k => c.updQ q (fun x => { x with link := k })
  | .zSet _ _ => c
  | .zRst z => { c with units := { c.units with z := smod (fun b => { b with i0 := 0, i1 := 0, i2 := 0, pops := 0#32 }) z c.units.z } }
  | .frag v => { c with units := { c.units with ver := { c.units.ver with frag := v } } }
  | .tau v => { c with units := { c.units with ver := { c.units.ver with tau := v } } }
  | .clrFlags v => { c with units := { c.units with slow := c.units.slow &&& ~~~v } }
  | .setFlags _ => c
  | .seed k => { c with units := { c.units with conv := seeds k core } }
  | .timer on => { c with armed := on }
  | .tie on => { c with fen := if on then c.fen ||| 0x10000#32 else c.fen &&& ~~~0x10000#32 }
  | .halt => { c with ctl := { c.ctl with halted := true, loop := {} } }
  | .ifence => ({ c with fetch := { c.fetch with fenceIn := c.fetch.fenceIn ++ [3] } }).prefetch (List.range 8)
  | .freeze => { c with trace := { c.trace with frozen := true } }
  | .tarm => { c with trace := { armed := true } }
  | .vshape v => { c with vshape := v }
  | .lbrk n => ({ c with ctl := { c.ctl with loop := { c.ctl.loop with cnt := 0#32 } } }).setReg (kLc n) 0#64
  | .skip n => { c with ctl := { c.ctl with skip := n } }
  | .loop e => if c.ctl.halted then c else { c with ctl := { c.ctl with loop := e } }
  | .take x => { c with ctl := { c.ctl with xfer := some x } }
  | .push a => { c with ctl := { c.ctl with stack := a :: c.ctl.stack } }
  | .pop => { c with ctl := { c.ctl with stack := c.ctl.stack.tail } }
  | .enq _ _ => c
  | .preg k p => { c with units := { c.units with preq := match p with | some p => sins k p c.units.preq | none => sdel k c.units.preq } }
  | .fence _ => c

/-- Applies a write of the stream that depends on what stands outside the core: a binding reads local memory as
the other writes leave it, a command enters its queue, a fence stands after the accesses of its bundle. -/
def State.applyLate (s : State) (w : EndW) : State :=
  match w with
  | .zSet z a => s.bindStream z a.toNat
  | .enq k m => s.enter k m
  | .fence f => s.updMe (fun c => { c with pipe := { c.pipe with fences := c.pipe.fences ++ [{ f with last := s.nextAcc }] } })
  | _ => s

/-- The slow-path flags set at the end of this cycle. -/
def keptFlags (ws : List EndW) : U64 :=
  ws.foldl (fun a w => match w with | .setFlags v => a ||| v | _ => a) 0#64

/-- Writes of masks and tile lines that land at the end of the cycle (R209, R250). -/
def Core.applyPut (c : Core) (p : Put) : Core :=
  match p with
  | .mask m v => ({ c with masks := sset 0#4096 c.masks m v }).event 2 (BitVec.ofNat 8 m) (v.setWidth 32)
  | .tile a bs => { c with tile := c.tile.wrs a bs }
  | .tileTag l t => { c with tile := c.tile.wrTag dtOn (64 * l) t }
  | _ => c

/-- The write changes how the trace buffer records: it follows the events of its cycle (R293, R316). -/
def EndW.isTrace (w : EndW) : Bool := match w with | .sys 10 _ | .freeze | .tarm => true | _ => false

/-- Applies the writes that a core's words and operations made for the end of the cycle, but for those of the trace. A
slow-path flag whose command completes in this cycle stays set (R282, R291). -/
def Core.applyAll (c : Core) (core : Nat) : Core :=
  let ws := c.pipe.endW.filter (fun w => !w.isTrace)
  let c := ws.foldl (fun c w => c.applyW core w) c
  let c := c.pipe.puts.foldl Core.applyPut c
  { c with
    sflag := c.sflag ||| c.pipe.sflagNew
    units := { c.units with slow := c.units.slow ||| keptFlags ws ||| c.units.slowKept, slowNew := c.units.slowNew ||| keptFlags ws }
    pipe := { c.pipe with puts := [], sflagNew := 0#32, rcv := false, sync := none } }

/-- A scratchpad write. -/
def Core.applyLoc (c : Core) (w : LocW) : Core :=
  { c with scratch := w.tags.foldl (fun m t => m.wrTag dtOn (64 * t.1) t.2) (c.scratch.wrs w.addr w.bytes) }

/-- A scratchpad write, noted with the bytes that it replaces where a core made it; notes are kept for 64 cycles (log
entry 82). -/
def Core.applyNoted (c : Core) (csc : U64) (w : LocW) : Core :=
  let c := if w.prio < 4 && !(w.bytes.isEmpty) then
      { c with recent := { csc := csc, cls := w.cls, addr := w.addr, old := c.scratch.bytes w.addr w.bytes.length } :: c.recent }
    else c
  c.applyLoc w

/-- Forgets the stores that are 64 cycles old. -/
def Core.forget (c : Core) (csc : U64) : Core := { c with recent := c.recent.filter (fun r => (csc - r.csc).toNat < 64) }

/-- Applies the scratchpad writes of a cycle in the order of R160; two of one unit apply in the order in which they were made
(DESIGN CHOICE: R160 gives no order inside `ls`; log entry 84). -/
def Cluster.applyLocs (c : Cluster) : Cluster :=
  let ws := sortBy (fun a b => a.prio ≤ b.prio) c.endLoc
  let c := { c with endLoc := [], cores := c.cores.map (fun k => k.forget c.csc) }
  ws.foldl (fun c w => c.updCore w.core (fun k => k.applyNoted c.csc w)) c

/-- Records the events of the cycle, then applies the writes to the trace itself. -/
def Core.traceEnd (c : Core) (stamp : U64) (core : Nat) : Core :=
  let c := (c.pipe.endW.filter EndW.isTrace).foldl (fun c w => c.applyW core w) (c.record stamp)
  { c with pipe := { c.pipe with endW := [] } }

/-- All writes at the end of a cycle of a cluster, then its trace. -/
def State.endWrites (s : State) (slot : Nat) : State :=
  let s := s.updCluster slot (fun c => { c with cores := c.cores.mapIdx (fun i k => k.applyAll i) })
  let s := s.updCluster slot Cluster.applyLocs
  let s := s.eachCore slot (fun s => s.me.pipe.endW.foldl State.applyLate s)
  s.updCluster slot (fun c => { c with cores := c.cores.mapIdx (fun i k => k.traceEnd c.stamp i), here := [] })

/-- One cycle has passed for what is in flight on a core (R30, R31, R144, R181, R283, R293). -/
def Core.count (c : Core) : Core :=
  let fl := c.fetch.fenceIn.map (· - 1)
  { c with
    ctl := { c.ctl with bwait := (c.ctl.bwait.map (fun p => (p.1, p.2 - 1))).filter (fun p => p.2 ≠ 0) }
    pipe := { c.pipe with
      flights := c.pipe.flights.map (fun f => { f with left := f.left - 1, age := f.age + 1 })
      vops := c.pipe.vops.map (fun v => { v with age := v.age + 1 })
      lsv := c.pipe.lsv.map (fun v => { v with age := v.age + 1 }) }
    units := { c.units with
      q := c.units.q.map (fun p => (p.1, { p.2 with lines := p.2.lines.map (fun l => { l with wait := l.wait - 1 }) }))
      ver := { c.units.ver with busy := c.units.ver.busy - 1 }
      verOps := c.units.verOps.map (fun o => { o with left := o.left - 1 })
      slowKept := c.units.slowNew, slowNew := 0#64 }
    fetch :=
      if fl.contains 0 then { lines := [], stale := [], fenceIn := fl.filter (· ≠ 0) } else { c.fetch with fenceIn := fl } }

/-- In a held cycle of the CSC a command completes in the cycle that is held: the flags that it set stay (R282). -/
def Core.keepSlow (c : Core) : Core := { c with units := { c.units with slowKept := c.units.slowKept ||| c.units.slowNew, slowNew := 0#64 } }

/-- One cycle has passed for a cluster: its own counters, and the values in transit. -/
def Cluster.count (c : Cluster) : Cluster :=
  { c with
    cores := c.cores.map Core.count
    xc := c.xc.map (fun m => { m with left := m.left - 1 }) }

/-! ## Causes (R295, R296, R299) -/

/-- The streams of a cluster that have started and not halted. -/
def Cluster.live (c : Cluster) : List Nat :=
  (List.range c.cores.length).filter (fun i => (c.core i).ctl.started && !(c.core i).ctl.halted)

/-- The order of causes: lowest CLASS, then STRM, then CODE (R299). -/
def Cause.before (a b : Cause) : Bool :=
  a.cls < b.cls || (a.cls = b.cls && (a.strm < b.strm || (a.strm = b.strm && a.code ≤ b.code)))

/-- The first cause of a list. -/
def firstCause : List Cause → Option Cause
  | [] => none
  | c :: cs => match firstCause cs with
    | some d => some (if c.before d then c else d)
    | none => some c

/-- A cause in the layout of R295. -/
def Cause.word (c : Cause) : U32 :=
  BitVec.ofNat 32 (c.cls * 2 ^ 28 + c.strm % 8 * 2 ^ 25 + (if c.eng then 2 ^ 24 else 0) + c.code % 65536)

/-- A trap of this cause can be delivered to a handler (R296). -/
def Cluster.delivers (c : Cluster) : Bool :=
  !(c.live.isEmpty) && c.live.all (fun i => (c.core i).fen.getLsbD 17)

/-- The classes that go to Shiftboss or the debugger whatever HEN says (R296). -/
def bossClass (cls : Nat) : Bool := cls = 7 || cls = 9 || cls = 12 || cls = 13

/-! ## Taking a trap (R298-R303) -/

/-- What the loop engine does at a pass start: the count and the pattern that follow (R154). -/
def Core.passStart (c : Core) (drain : Bool) : U32 × Bool × BitVec 4 :=
  let l := c.ctl.loop
  let cnt := if l.fresh then c.lcreg l.n else l.cnt
  let enter := cnt ≠ 0#32 && !drain
  let pat : BitVec 4 := ((l.pattern <<< 1) ||| (if enter then 1#4 else 0#4)) &&& BitVec.ofNat 4 (2 ^ l.stages - 1)
  (cnt, enter, pat)

/-- A polite request that pass starts see: in handler mode it waits for the return (R154, R303). -/
def State.draining (s : State) : Bool := s.myCluster.drain.isSome && !s.myCluster.handler

/-- Where the stream's bundle of this cycle stands, as R76, R145 and R154 place it. -/
def State.dueAddr (s : State) : Addr20 :=
  let c := s.me
  let a := match c.ctl.xfer with
    | some x => if x.slots = 0 then x.target else c.ctl.pc
    | none =>
      if c.ctl.loop.active && c.ctl.loop.pos = 0 && !c.ctl.redirect then
        (if (c.passStart s.draining).2.2 = 0#4 then c.ctl.loop.stop else c.ctl.loop.start)
      else c.ctl.pc
  match bundleAt s.lineOf a with
  | some b => b.addr
  | none => a

/-- Chunks of an operation that are still to come (R301). -/
def chunksLeft (lat chunks age : Nat) : Nat := if age < lat then chunks else chunks - (age - lat + 1)

/-- The records that a stream holds (R300, R301). -/
def Cluster.records (c : Cluster) (i : Nat) : Nat :=
  let k := c.core i
  k.pipe.flights.length + (k.pipe.vops.map (fun v => chunksLeft v.lat v.chunks v.age)).foldl (· + ·) 0 +
    (k.pipe.lsv.map (fun v => chunksLeft v.lat v.chunks v.age)).foldl (· + ·) 0 +
    k.units.verOps.length + (c.xc.filter (fun m => m.dst = i && m.left ≠ 0)).length

/-- Where frames lie (R301). -/
def frameAt : Nat := 0x17F800

/-- The frame of the stream for a trap at boundary e (R301). -/
def State.frame (s : State) (e : U64) (causes : List Cause) : List Byte :=
  let c := s.me
  let own := firstCause (causes.filter (fun x => x.strm = s.coreOf))
  let epc := s.dueAddr.toNat
  let state := (if c.ctl.xfer.any (fun x => x.slots ≠ 0 || x.bubble ≠ 0) then 1 else 0) + (if c.ctl.loop.active then 2 else 0) + c.ctl.skip % 16 * 16 +
    s.myCluster.records s.coreOf * 256
  leBytes 4 epc ++ leBytes 4 epc ++ leBytes 4 ((own.map Cause.word).getD 0#32).toNat ++ leBytes 4 state ++
    leBytes 8 ((own.map Cause.tval).getD 0#64).toNat ++ leBytes 8 e.toNat ++ leBytes 8 s.dcc.toNat ++ List.replicate 24 0#8

/-- Records a TRAP event at once, after the events that stand (R315). -/
def Core.trapNow (c : Core) (cls : Nat) (back : Bool) (a : Addr20) (stamp : U64) : Core :=
  ((c.record stamp).trapEvent cls back a).record stamp

/-- Hides what handler mode hides of the stream and clears it for the handler (R300, R303). -/
def State.hide (s : State) : State :=
  let epc := s.dueAddr
  s.updMe (fun c =>
    let h : Hidden :=
      { opnd := c.opnd, res := c.res, vres := c.vres, latch := c.latch, loop := c.ctl.loop
        preds := [c.pred 12, c.pred 13, c.pred 14, c.pred 15], bwait := c.ctl.bwait, skip := c.ctl.skip, xfer := c.ctl.xfer
        flights := c.pipe.flights, vops := c.pipe.vops, lsv := c.pipe.lsv, ver := c.units.verOps, verBusy := c.units.ver.busy
        twait := c.pipe.twait, redirect := c.ctl.redirect, epc := epc }
    { c with
      ctl := { c.ctl with loop := {}, bwait := [], skip := 0, xfer := none, redirect := false }
      units := { c.units with verOps := [], ver := { c.units.ver with busy := 0 } }
      pipe := { c.pipe with flights := [], vops := [], lsv := [], hidden := some h, tret := false, twait := none } })

/-- Starts the handler of a live stream: its frame, then its vector (R301, R303). -/
def State.startHandler (s : State) (e : U64) (causes : List Cause) (cls : Nat) : State :=
  let f := s.frame e causes
  let epc := s.dueAddr
  let s := s.hide
  s.updMe (fun c =>
    let c := c.trapNow cls false epc e
    { c with
      scratch := (c.scratch.wrs frameAt f).wrTag dtOn frameAt 0x00FF#16
      ctl := { c.ctl with pc := ((c.fen >>> 18).setWidth 20) <<< 6 } })

/-- Does something as each of some cores of a cluster. -/
def State.asCores (s : State) (slot : Nat) (is : List Nat) (f : State → State) : State :=
  is.foldl (fun s i => f { s with cur := 8 * slot + i }) s

/-- Captures at a boundary what is still to be read by vector operations and vector forms, and lands what the
cycle has delivered (R300). -/
def State.capture (s : State) (slot : Nat) : State :=
  (s.eachCore slot (fun s => (s.vxReads true).lsReads true)).endWrites slot

/-- The accesses of a core that trap entry waits for: those of every operation in flight, and stores whose data is ready
(R300); an access kept as a reissue record is sent on resumption only (R307). -/
def State.awaitedOf (s : State) (c : Core) : List Nat :=
  (c.pipe.flights.flatMap Flight.ids ++ c.pipe.vops.flatMap (fun v =>
      v.ids ++ (v.stores.map (·.2)).filter (fun i => s.acc.any (fun a => a.id = i && a.ready))) ++
    c.pipe.lsv.flatMap (fun x => x.ids.map (fun i => i.2.2))).filter (fun i => !(c.pipe.reissue.any (fun a => a.id = i)))

/-- The accesses that trap entry waits for on a cluster. -/
def State.awaited (s : State) (slot : Nat) : List Nat := (s.cluster slot).cores.flatMap s.awaitedOf

/-- Begins a trap or a save at the current boundary: the streams stop and what is in flight is captured; what
follows waits for the replies (R300). A value of `xc` that arrives in this cycle arrives with the bundles of e. -/
def State.beginStop (s : State) (slot : Nat) : State :=
  let s := s.updCluster slot (fun c => { c with xc := c.here ++ c.xc, here := [] })
  let s := s.capture slot
  s.updCluster slot (fun c => { c with trapE := some c.csc, stall := false, wait := false, asked := [] })

/-- At a save a running `mx` command in setup is kept whole, its stamp compared afresh with the CSC on resumption (R260,
R310): AT that has passed by then is a schedule-miss (R237). -/
def Core.keepSetup (c : Core) (csc : U64) : Core :=
  let at' (m : Cmd) : U32 := m.com.stamp
  let keep (m : Cmd) : Cmd :=
    { m.restart with stamp := at' m, missed := at' m ≠ 0#32 && (at' m - csc.setWidth 32).getLsbD 31 }
  { c with units := { c.units with mxq := c.units.mxq.map (fun m =>
      match m.el with
      | some e => if e < 12 && m.chain.isNone then keep m else m
      | none => m) } }

/-- Sets the state of a slot in the slot table (R380). -/
def State.setSlot (s : State) (slot st : Nat) : State :=
  { s with boss := { s.boss with slots := sset 0 s.boss.slots slot st } }

/-- A cause as a fault in handler mode: DOUBLE with the class of the fault (R296, R303). -/
def Cause.double (x : Cause) : Cause := { x with cls := 13, code := x.cls }

/-- The causes of a cluster, as DOUBLE in handler mode. -/
def Cluster.causes (c : Cluster) : List Cause := if c.handler then c.raised.map Cause.double else c.raised

/-- The eight frames of a trap that goes to Shiftboss; a stream that does not run has zeros (R376). -/
def State.framesOf (s : State) (slot : Nat) : List (List Byte) :=
  let c := s.cluster slot
  (List.range 8).map (fun i =>
    if c.live.contains i then ({ s with cur := 8 * slot + i } : State).frame c.csc c.causes else List.replicate 64 0#8)

/-- Notes the begin or end of a hold for every core (R315): kind 0 stall, 1 wait. -/
def Cluster.holdEvent (c : Cluster) (wait ended : Bool) (len : Nat) : Cluster :=
  { c with cores := c.cores.map (fun k =>
      k.event 6 (BitVec.ofNat 8 ((if wait then 2 else 0) + if ended then 1 else 0)) (BitVec.ofNat 32 len)) }

/-- The hold that stands, if any, ends: its length goes into the trace. -/
def Cluster.endHold (c : Cluster) : Cluster :=
  match c.hold with
  | some (w, n) => { c.holdEvent w true n with hold := none }
  | none => c

/-- A hold ends outside the cycles that issue: its end is recorded at once. -/
def Cluster.endHoldNow (c : Cluster) : Cluster :=
  let d := c.endHold
  { d with cores := d.cores.map (fun k => k.record c.stamp) }

/-- The handler starts on every live stream; what is in flight is hidden on all (R300-R303). -/
def State.enterHandler (s : State) (slot : Nat) (cls : Nat) : State :=
  let s := s.updCluster slot Cluster.endHoldNow
  let c := s.cluster slot
  let dead := (List.range c.cores.length).filter (fun i => !(c.live.contains i))
  let s := s.asCores slot c.live (fun s => s.startHandler c.csc c.raised cls)
  let s := s.asCores slot dead State.hide
  s.updCluster slot (fun c => { c with
    raised := [], trapE := none, handler := true, landed := false, hc := 0#64, holdLen := 0, pause := 12, xcHid := c.xc, xc := [], here := [] })

/-- A trap that goes to Shiftboss: the team stops and its save begins (R308). -/
def State.toShiftboss (s : State) (slot : Nat) (x : Cause) : State :=
  let frames := s.framesOf slot
  let s := s.updCluster slot Cluster.endHoldNow
  let s := s.asCores slot (s.cluster slot).live (fun s => s.updMe (fun k => k.trapNow x.cls false s.dueAddr s.myCluster.stamp))
  (s.updCluster slot (fun c => { c with
    toBoss := some x, stopped := true, saving := true, trapE := none, frames := frames, cores := c.cores.map (fun k => k.keepSetup c.csc) })).setSlot slot 2

/-- Completes a trap whose replies have come: into the handler, or to Shiftboss (R296, R299-R303, R308). -/
def State.takeTrap (s : State) (slot : Nat) : State :=
  let c := s.cluster slot
  match firstCause c.causes with
  | none => s.updCluster slot (fun c => { c with trapE := none })
  | some x =>
    let s := s.updCluster slot (fun c => { c with cause := x.word, tval := x.tval })
    if c.handler || bossClass x.cls || !c.delivers then s.toShiftboss slot x else s.enterHandler slot x.cls

/-! ## Reissue records (R307, R328) -/

/-- Keeps the accesses of a cluster's streams that have not performed as reissue records (R307). -/
def State.park (s : State) (slot : Nat) : State :=
  let mine := s.acc.filter (fun a => a.slot = slot && a.party = .core)
  let s := s.eachCore slot (fun s => s.updMe (fun c => { c with pipe := { c.pipe with
    reissue := c.pipe.reissue ++ (mine.filter (fun a => a.core = s.coreOf)).map (fun a => { a with stage := .queue }) } }))
  { s with acc := s.acc.filter (fun a => !(a.slot = slot && a.party = .core)) }

/-- Sends the reissue records of a cluster again. -/
def State.unpark (s : State) (slot : Nat) : State :=
  let again := (s.cluster slot).cores.mapIdx (fun i c => c.pipe.reissue.map (fun a => { a with slot := slot, core := i }))
  let s := s.updCluster slot (fun c => { c with cores := c.cores.map (fun k => { k with pipe := { k.pipe with reissue := [] } }) })
  { s with acc := s.acc ++ again.flatten }

/-! ## Return (R304, R305) -/

/-- Every live stream has issued `sys.tret`. -/
def Cluster.allTret (c : Cluster) : Bool :=
  c.handler && !(c.live.isEmpty) && c.live.all (fun i => (c.core i).pipe.tret)

/-- The accesses of handler operations that will never have data: they are dropped with their operations. -/
def State.dropUnready (s : State) (slot : Nat) : State :=
  { s with acc := s.acc.filter (fun a => !(a.slot = slot && !a.ready &&
      (s.cluster slot).cores.any (fun k => k.pipe.vops.any (fun v => v.stores.any (fun st => st.2 = a.id))))) }

/-- Restores one stream from what was hidden; a live stream resumes at the RPC of its frame (R304). -/
def Core.unhide (c : Core) (live : Bool) (cls : Nat) (stamp : U64) : Core :=
  match c.pipe.hidden with
  | none => c
  | some h =>
    let rpc : Addr20 := BitVec.ofNat 20 (leNat (c.scratch.bytes (frameAt + 4) 4))
    let moved := live && rpc ≠ h.epc
    let c := (h.preds.zipIdx).foldl (fun c p => c.setReg (kP (12 + p.2)) (if p.1 then 1#64 else 0#64)) c
    let c := if live then c.trapNow cls true h.epc stamp else c
    { c with
      opnd := h.opnd, res := h.res, vres := h.vres, latch := h.latch
      ctl := { c.ctl with
        loop := h.loop, bwait := h.bwait
        skip := if moved then 0 else h.skip
        xfer := if moved then none else h.xfer
        pc := if live then rpc else c.ctl.pc
        redirect := moved || h.redirect }
      units := { c.units with verOps := h.ver, ver := { c.units.ver with busy := h.verBusy } }
      pipe := { c.pipe with flights := h.flights, vops := h.vops, lsv := h.lsv, hidden := none, tret := false, soft := none, twait := h.twait } }

/-- The return from a trap at the end of the handler cycle of the last `sys.tret` (R304); accesses that Canary found without
a reply are sent again (R307). -/
def State.trapReturn (s : State) (slot : Nat) : State :=
  let s := ((s.eachCore slot (fun s => s.lsReads true)).updCluster slot Cluster.applyLocs).dropUnready slot
  let gone := (s.cluster slot).cores.flatMap (fun c =>
    c.pipe.flights.flatMap Flight.ids ++ c.pipe.vops.flatMap (fun v => v.ids ++ v.stores.map (·.2)) ++
      c.pipe.lsv.flatMap (fun x => x.ids.map (fun i => i.2.2)))
  ((s.dropReplies gone).updCluster slot (fun c =>
    let live := c.live
    { c with
      cores := c.cores.mapIdx (fun i k => k.unhide (live.contains i) (c.cause.toNat / 2 ^ 28) c.stamp)
      handler := false, landed := true, holdLen := 0, pause := 4, xc := c.xcHid, xcHid := [], here := []
      polite := c.polite || c.drain.isSome })).unpark slot

/-! ## Holds, Canary and saves -/

/-- One held DCC cycle (R23, R27). -/
def Cluster.held (c : Cluster) (wait : Bool) : Cluster :=
  let c := match c.hold with
    | none => { c.holdEvent wait false 0 with hold := some (wait, 1) }
    | some (w, n) => { c with hold := some (w, n + 1) }
  { c with holdLen := c.holdLen + 1, stall := !wait, wait := wait }

/-- A hold ends: its length goes into the trace and Canary starts again, but in handler mode, which Canary counts as one
hold (R24, R27, R303). -/
def Cluster.holdOver (c : Cluster) : Cluster :=
  { c.endHold with holdLen := if c.handler then c.holdLen else 0, stall := false, wait := false }

/-- A command of a core waits for a page that it cannot use yet (R189, R259). -/
def State.pageWait (s : State) : Bool :=
  [EngKind.mx, .wz, .pan].any (fun k => (s.me.engQ k).any (fun m => match m.held with
    | some (va, w) => s.engVa va.toNat w = .wait
    | none => false))

/-- The stream waits for a token that is still pending (R151). -/
def Core.tokenWait (c : Core) : Bool := match c.pipe.twait with | some k => c.token k = 1#2 | none => false

/-- The stream's bundle or a result of it needs an event that has not come (R296): a late result, a token, room in a stage
queue, a reply that a trap waits for, or what its bundle asked for. -/
def State.needsEvent (s : State) : Bool :=
  let c := s.myCluster
  s.lateHere || s.me.tokenWait || c.asked.contains (s.coreOf, false) ||
    (c.trapE.isSome && !(s.allArrived (s.awaitedOf s.me)))

/-- An `mx` or `pan` command of the stream is over and waits for its writes to perform (R326). -/
def State.writeWait (s : State) : Bool :=
  [EngKind.mx, .pan].any (fun k => ((s.me.engQ k).head?.map (fun m => m.over && !(s.written m))).getD false)

/-- An engine command of the stream holds the cluster (R296). -/
def State.engineHolds (s : State) : Bool := s.pageWait || s.writeWait || s.myCluster.asked.contains (s.coreOf, true)

/-- The cause of a Canary expiry (R296): the lowest live stream that needs the missing event, with ENG for one whose engine
command holds the cluster. -/
def State.canaryCause (s : State) (slot : Nat) (len : Nat) : Cause :=
  let at' (i : Nat) : State := { s with cur := 8 * slot + i }
  let live := (s.cluster slot).live
  let own := live.find? (fun i => (at' i).needsEvent)
  let eng := live.find? (fun i => (at' i).engineHolds)
  let pick : Nat × Bool := match own, eng with
    | some a, some b => if a ≤ b then (a, false) else (b, true)
    | some a, none => (a, false)
    | none, some b => (b, true)
    | none, none => (live.headD 0, false)
  { cls := 9, strm := pick.1, eng := pick.2, code := 0, tval := BitVec.ofNat 64 len }

/-- The limit of a hold: Canary's for a hold and for handler mode (R27). -/
def State.canaryDue (s : State) (slot : Nat) : Bool :=
  let c := s.cluster slot
  c.running && !c.stopped && s.boss.canary ≤ c.holdLen

/-- Commands that wait for a page run again from their start (R259). -/
def Core.restartHeld (c : Core) : Core :=
  let f (m : Cmd) : Cmd := if m.held.isSome then m.restart else m
  { c with units := { c.units with mxq := c.units.mxq.map f, wzq := c.units.wzq.map f, panq := c.units.panq.map f } }

/-- Canary ends a hold or handler mode: a CANARY or DOUBLE trap at the held cycle (R27, R296, R307). A second
CANARY at the same e with no bundle issued since is taken as a fault by Shiftboss (R308). -/
def State.canary (s : State) (slot : Nat) : State :=
  let c := s.cluster slot
  let x := s.canaryCause slot c.holdLen
  let x := if c.handler then { x with strm := c.live.headD 0, eng := false } else x
  let s := s.updCluster slot Cluster.endHoldNow
  let s := if c.trapE.isSome then s else s.beginStop slot
  let s := s.updCluster slot (fun c => { c with
    raised := c.raised ++ [x], holdLen := 0, cores := c.cores.map Core.restartHeld })
  (s.park slot).takeTrap slot

/-- Begins a save without a frame at the current boundary (R309). -/
def State.beginSave (s : State) (slot : Nat) : State :=
  ((s.beginStop slot).updCluster slot (fun c => { c with
    saving := true, polite := false, drain := none, cores := c.cores.map (fun k => k.keepSetup c.csc) })).setSlot slot 2

/-- Stops the team of a slot for good: as at a trap that goes to Shiftboss, without a frame; running commands
complete (R377, R310, R260). -/
def State.haltTeam (s : State) (slot : Nat) : State :=
  let c := s.cluster slot
  let s := s.updCluster slot Cluster.endHoldNow
  let s := if c.trapE.isSome || c.stopped || c.saving then s else s.beginStop slot
  (s.updCluster slot (fun c => { c with
    raised := [], trapE := none, stopped := true, saving := true, drain := none, stall := false, wait := false
    cores := c.cores.map (fun k => k.restartHeld.keepSetup c.csc) })).setSlot slot 2

/-- A hold stands on the cluster, outside a trap or save that has begun (R24). -/
def Cluster.inHold (c : Cluster) : Bool := (c.stall || c.wait) && c.trapE.isNone && !c.stopped && !c.saving

/-- The launch of the team in a slot is being ended, its bound teams with it: it is dead, but not for the loss of the
die link, after which bound teams run on (R377, R382, R383, R384). -/
def State.doomed (s : State) (slot : Nat) : Bool :=
  match s.launchOf (s.cluster slot).info.launch with
  | some l => l.dead.isSome && l.dead ≠ some 1
  | none => false

end Sys2Proof.Machine
end

