-- ==== Sys2Proof/Machine/Pages.lean ====
section
/-!
DEFINITION. Page requests that the shadow core sends for engines (spec/06 R189, spec/08 R259, spec/17 R387).
-/
namespace Sys2Proof.Machine

open Sys2Proof

/-- The engine number in a request (R387). -/
def reqTag : EngKind → Nat
  | .wz => 0
  | .mx => 1
  | .pan => 2

/-- Two requests come from one requester: they differ in GEN at most (R387). -/
def sameRequester (a b : U64) : Bool := (a ^^^ b) &&& 0xFFFFF0000FFFFFFF#64 = 0#64

/-- The identity of the request that an engine would send now. -/
def State.engineId (s : State) (k : EngKind) (eng : Nat) : U64 :=
  let info := s.myCluster.info
  let l := s.launchOf info.launch
  let gen := match k with
    | .wz => sget 0#16 s.myCluster.wzGen eng
    | _ => sget 0#16 s.me.units.engGen (reqTag k)
  requestId ((l.map (fun l => l.queue)).getD 0) ((l.map (fun l => l.index)).getD 0) gen.toNat info.team s.coreOf 1 (reqTag k)
    (if k = .wz then eng else 0)

/-- Counts a new request of an engine. -/
def State.nextGen (s : State) (k : EngKind) (eng : Nat) : State :=
  match k with
  | .wz => s.updMine (fun c => { c with wzGen := sset 0#16 c.wzGen eng (sget 0#16 c.wzGen eng + 1) })
  | _ => s.updMe (fun c => { c with units := { c.units with
      engGen := sset 0#16 c.units.engGen (reqTag k) (sget 0#16 c.units.engGen (reqTag k) + 1) } })

/-- Sends a request for the page that a command waits for, if the page is not resident and the engine has no
live request. -/
def State.askPage (s : State) (k : EngKind) (m : Cmd) : State :=
  match m.held with
  | none => s
  | some (va, w) =>
    let id := s.engineId k m.eng
    let info := s.myCluster.info
    match s.translate info va.toNat with
    | .leaf e _ =>
      if e.getLsbD 2 || s.pages.any (fun p => sameRequester p.id id) then s
      else (s.sendRequest info.launch id va w).nextGen k m.eng
    | _ => s

/-- Requests for every command of a cluster that waits for a page. -/
def State.askPages (s : State) (slot : Nat) : State :=
  s.eachCore slot (fun s =>
    let u := s.me.units
    let s := u.mxq.foldl (fun s m => s.askPage .mx m) s
    let s := u.wzq.foldl (fun s m => s.askPage .wz m) s
    u.panq.foldl (fun s m => s.askPage .pan m) s)

end Sys2Proof.Machine
end

