-- ==== Sys2Proof/Machine/Wait.lean ====
section
/-!
DEFINITION. What waits for a cluster: the waiting set of Shiftboss, its order, and the clusters that a cooperative launch
claims while it waits (spec/16 R374, R378, R380, spec/01 R19).
-/
namespace Sys2Proof.Machine

open Sys2Proof

/-- Changes the launch of a number. -/
def State.updLaunch (s : State) (id : Nat) (f : Launch → Launch) : State :=
  { s with boss := { s.boss with launches := s.boss.launches.map (fun l => if l.id = id then f l else l) } }

/-- The slots that hold a bound team of a launch. -/
def State.slotsOf (s : State) (id : Nat) : List Nat := (s.clusters.filter (fun p => p.2.info.launch = id)).map (·.1)

/-- Teams of a launch have been bound and none is to follow. -/
def Launch.allBound (l : Launch) : Bool := l.dead.isSome || l.info.teams ≤ l.next

/-- The teams of a launch may be considered: every team of the earlier launches of its queue has been bound (R374).
Teams that are dropped wait no more. -/
def State.eligible (s : State) (l : Launch) : Bool :=
  l.dead.isNone && s.boss.launches.all (fun e => !(e.queue = l.queue && e.id < l.id) || e.allBound)

/-! ## The waiting set (R374, R378) -/

/-- An entry of the waiting set: its teams, whether it is bound together, and what orders it. -/
structure Waiting where
  launch : Nat
  teams : List Nat
  coop : Bool
  prio : Nat
  since : Nat
  queue : Nat
  deriving DecidableEq, Repr

/-- The entries of one launch: its next team, and its teams whose context is away; a cooperative launch is one
entry of all its teams that are not bound, once none of
them is on its way off a cluster (R19). A gang waits for its agreement (R382). -/
def State.waitingOf (s : State) (l : Launch) : List Waiting :=
  let saved := s.boss.saved.filter (fun x => x.launch = l.id)
  let ok := s.eligible l && l.next < l.info.teams && (l.gsize ≤ 1 || l.startAt.isSome)
  let entry (teams : List Nat) (since : Nat) : Waiting :=
    { launch := l.id, teams := teams, coop := l.coop, prio := l.prio, since := since, queue := l.queue }
  if l.coop then
    let fresh := if ok then (List.range (l.info.teams - l.next)).map (l.next + ·) else []
    let teams := fresh ++ saved.map Saved.team
    let leaving := (s.slotsOf l.id).any (fun k => (s.cluster k).saving || (s.cluster k).drain.isSome)
    let since := saved.foldl (fun m x => min m x.since) (if ok then l.since else s.dcc.toNat)
    if teams.isEmpty || leaving || (l.next < l.info.teams && !ok) then [] else [entry teams since]
  else (if ok then [entry [l.next] l.since] else []) ++ saved.map (fun x => entry [x.team] x.since)

/-- The waiting set. -/
def State.waitingSet (s : State) : List Waiting := s.boss.launches.flatMap s.waitingOf

/-- The effective priority of a waiting entry (R378). -/
def State.eff (s : State) (w : Waiting) : Nat := min 15 (w.prio + (s.dcc.toNat - w.since) / s.boss.ageStep)

/-- The order in which waiting entries are served: eff, then the longest wait, the lower queue, the earlier launch,
the lower team (R378, R384). -/
def State.serves (s : State) (a b : Waiting) : Bool :=
  let ka := [15 - s.eff a, a.since, a.queue, a.launch, a.teams.headD 0]
  let kb := [15 - s.eff b, b.since, b.queue, b.launch, b.teams.headD 0]
  match (List.zipWith (fun x y => (x, y)) ka kb).find? (fun p => p.1 ≠ p.2) with
  | some p => p.1 < p.2
  | none => true

/-- The waiting set in the order of service. -/
def State.waitOrder (s : State) : List Waiting := sortBy s.serves s.waitingSet

/-! ## Clusters for the waiting set -/

/-- A slot is free. -/
def State.slotFree (s : State) (slot : Nat) : Bool := slot < 64 && sget 0 s.boss.slots slot = 0

/-- The free slots. -/
def State.freeSlots (s : State) : List Nat := (List.range 64).filter s.slotFree

/-- A slot is being emptied: its team drains, or is being saved; one that is stopped for the debugger is not. -/
def State.emptying (s : State) (slot : Nat) : Bool :=
  (s.cluster slot).saving || ((s.cluster slot).drain.isSome && !(s.cluster slot).stopped)

/-- The slots that a launch has claimed and that are free or draining for it (R378). -/
def State.claimsOf (s : State) (l : Launch) : List Nat := l.claims.filter (fun k => s.slotFree k || s.emptying k)

/-- A launch that still binds teams has claimed the slot. -/
def State.claimed (s : State) (slot : Nat) : Bool := s.boss.launches.any (fun l => l.dead.isNone && l.claims.contains slot)

/-- A cooperative entry has as many clusters as it needs. -/
def State.served (s : State) (w : Waiting) : Bool :=
  w.coop && (match s.launchOf w.launch with | some l => w.teams.length ≤ (s.claimsOf l).length | none => false)

/-- The entry that the next free cluster is for: the first in the order of service that does not have its clusters
already. -/
def State.leader (s : State) : Option Waiting := s.waitOrder.find? (fun w => !(s.served w))

/-- A launch claims some slots. -/
def State.claim (s : State) (id : Nat) (ks : List Nat) : State := s.updLaunch id (fun l => { l with claims := l.claims ++ ks })

/-- The slots that a cooperative entry still lacks are claimed from some that no launch has claimed. -/
def State.claimFrom (s : State) (w : Waiting) (ks : List Nat) : State :=
  match s.launchOf w.launch with
  | some l => if w.coop then s.claim l.id ((ks.filter (fun k => !(s.claimed k))).take (w.teams.length - (s.claimsOf l).length)) else s
  | none => s

/-- A cooperative entry that leads the waiting set claims the free clusters (R378). -/
def State.claimFree (s : State) : State :=
  match s.leader with
  | some w => s.claimFrom w s.freeSlots
  | none => s

end Sys2Proof.Machine
end

