-- ==== Sys2Proof/Machine/Ga.lean ====
section
/-!
DEFINITION. The Gallery atomics `ga` (spec/06 R173-R177, spec/04 R120).
-/
namespace Sys2Proof.Machine

open Sys2Proof

/-- A bank operation, near or far (R163, R173): a protection fault outside the allocation; a misaligned
offset performs nothing; otherwise one access to its bank. -/
def bankAccess (op : Nat) (far : Bool) (t : Trig) (s : State) : Host.Outcome State Fault Refusal :=
  short t s (fun v s =>
    let s := s.updMe (fun c => c.event 4 (BitVec.ofNat 8 (op + if far then 0x20 else 0)) (v.setWidth 32))
    let a := v.toNat
    let n := bankSize op
    let lat := if far then 60 else 36
    if !(s.myCluster.info.inGallery a n) then s.raise 6 1 v
    else if a % n ≠ 0 then
      s.updMe (fun c => c.deliver lat [.port (keyOf 0x0F 0) 0#64, .port (keyOf 0x0F 1) 1#64])
    else
      let c := s.me
      let first := s.nextAcc
      let go := s.addAccess ((c.port 0x0F 2).setWidth 4) (.gal (a / 64))
        (.bank op (a % 64) (c.port 0x0F 0) (c.port 0x0F 1) c.key) true
      go.updMe (fun c => { c with pipe := { c.pipe with
        flights := c.pipe.flights ++ [{ left := lat, puts := [], ids := [first], need := some .atomic }] } }))

/-- `ga.add` (R175). -/
def execGaAdd (t : Trig) (s : State) : Host.Outcome State Fault Refusal := bankAccess 0 false t s

/-- `ga.and` (R175). -/
def execGaAnd (t : Trig) (s : State) : Host.Outcome State Fault Refusal := bankAccess 1 false t s

/-- `ga.or` (R175). -/
def execGaOr (t : Trig) (s : State) : Host.Outcome State Fault Refusal := bankAccess 2 false t s

/-- `ga.xor` (R175). -/
def execGaXor (t : Trig) (s : State) : Host.Outcome State Fault Refusal := bankAccess 3 false t s

/-- `ga.maxs` (R175). -/
def execGaMaxs (t : Trig) (s : State) : Host.Outcome State Fault Refusal := bankAccess 4 false t s

/-- `ga.mins` (R175). -/
def execGaMins (t : Trig) (s : State) : Host.Outcome State Fault Refusal := bankAccess 5 false t s

/-- `ga.swap` (R175). -/
def execGaSwap (t : Trig) (s : State) : Host.Outcome State Fault Refusal := bankAccess 6 false t s

/-- `ga.cas` (R175). -/
def execGaCas (t : Trig) (s : State) : Host.Outcome State Fault Refusal := bankAccess 7 false t s

/-- `ga.fadd` (R175). -/
def execGaFadd (t : Trig) (s : State) : Host.Outcome State Fault Refusal := bankAccess 8 false t s

/-- `ga.fmax` (R175). -/
def execGaFmax (t : Trig) (s : State) : Host.Outcome State Fault Refusal := bankAccess 9 false t s

/-- `ga.mdraw` (R176). -/
def execGaMdraw (t : Trig) (s : State) : Host.Outcome State Fault Refusal := bankAccess 10 false t s

/-- `ga.bar` (R177). -/
def execGaBar (t : Trig) (s : State) : Host.Outcome State Fault Refusal := bankAccess 11 false t s

/-- `ga.add.far` (R175). -/
def execGaAddFar (t : Trig) (s : State) : Host.Outcome State Fault Refusal := bankAccess 0 true t s

/-- `ga.and.far` (R175). -/
def execGaAndFar (t : Trig) (s : State) : Host.Outcome State Fault Refusal := bankAccess 1 true t s

/-- `ga.or.far` (R175). -/
def execGaOrFar (t : Trig) (s : State) : Host.Outcome State Fault Refusal := bankAccess 2 true t s

/-- `ga.xor.far` (R175). -/
def execGaXorFar (t : Trig) (s : State) : Host.Outcome State Fault Refusal := bankAccess 3 true t s

/-- `ga.maxs.far` (R175). -/
def execGaMaxsFar (t : Trig) (s : State) : Host.Outcome State Fault Refusal := bankAccess 4 true t s

/-- `ga.mins.far` (R175). -/
def execGaMinsFar (t : Trig) (s : State) : Host.Outcome State Fault Refusal := bankAccess 5 true t s

/-- `ga.swap.far` (R175). -/
def execGaSwapFar (t : Trig) (s : State) : Host.Outcome State Fault Refusal := bankAccess 6 true t s

/-- `ga.cas.far` (R175). -/
def execGaCasFar (t : Trig) (s : State) : Host.Outcome State Fault Refusal := bankAccess 7 true t s

/-- `ga.fadd.far` (R175). -/
def execGaFaddFar (t : Trig) (s : State) : Host.Outcome State Fault Refusal := bankAccess 8 true t s

/-- `ga.fmax.far` (R175). -/
def execGaFmaxFar (t : Trig) (s : State) : Host.Outcome State Fault Refusal := bankAccess 9 true t s

/-- `ga.mdraw.far` (R176). -/
def execGaMdrawFar (t : Trig) (s : State) : Host.Outcome State Fault Refusal := bankAccess 10 true t s

/-- `ga.bar.far` (R177). -/
def execGaBarFar (t : Trig) (s : State) : Host.Outcome State Fault Refusal := bankAccess 11 true t s

end Sys2Proof.Machine
end

