-- ==== Sys2Proof/Machine/Ia.lean ====
section
/-!
DEFINITION. The integer operations of `ia0` and `ia1` (spec/05 R135-R140, spec/04 R116).
-/
namespace Sys2Proof.Machine

open Sys2Proof

/-- Leading zeros of the low `n` bits of `x`. -/
def leadZeros : Nat → U32 → Nat
  | 0, _ => 0
  | n + 1, x => if x.getLsbD n then 0 else leadZeros n x + 1

/-- Trailing zeros of `x`, of which `n` bits from the top are left to look at. -/
def trailZeros : Nat → U32 → Nat
  | 0, _ => 0
  | n + 1, x => if x.getLsbD (31 - n) then 0 else trailZeros n x + 1

/-- One bits among the low `n` bits of `x`. -/
def countOnes : Nat → U32 → Nat
  | 0, _ => 0
  | n + 1, x => (if x.getLsbD n then 1 else 0) + countOnes n x

/-- The position field of a bit-field operand (R139). -/
def fieldPos (t : U32) : Nat := t.toNat % 32

/-- The width of a bit field, cut so that it ends at bit 31 (R139). -/
def fieldWidth (t : U32) : Nat := min ((t.toNat >>> 8) % 64) (32 - fieldPos t)

/-- The bits of a field (R139). -/
def fieldMask (t : U32) : U32 := BitVec.ofNat 32 ((2 ^ fieldWidth t - 1) <<< fieldPos t)

/-- A field as a signed number; an empty field is 0 (R139). -/
def extField (o : U32) (pos w : Nat) : Int :=
  let v := (o.toNat >>> pos) % 2 ^ w
  if w = 0 then 0 else if 2 ^ (w - 1) ≤ v then (v : Int) - (2 ^ w : Nat) else v

/-- The signed quotient, truncated toward zero, with the cases of R140. -/
def divS (o t : U32) : U32 :=
  if t = 0#32 then BitVec.allOnes 32 else BitVec.ofInt 32 (Int.tdiv o.toInt t.toInt)

/-- The signed remainder with the sign of the dividend (R140). -/
def remS (o t : U32) : U32 := if t = 0#32 then o else BitVec.ofInt 32 (Int.tmod o.toInt t.toInt)

/-- An `ia` operation: `f` of the ports `o` and `b` and the trigger operand, 32 bits each, into `r` after
`lat` cycles (R113, R135). -/
def iaOp (lat : Nat) (f : U32 → U32 → U32 → U32) (u : Bool) (t : Trig) (s : State) :
    Host.Outcome State Fault Refusal :=
  let n := if u then 0x09 else 0x08
  shortMe t s (fun v c =>
    c.deliverPort lat n 0
      ((f ((c.port n 0).setWidth 32) ((c.port n 1).setWidth 32) (v.setWidth 32)).setWidth 64))

/-- `ia.add` (R137). -/
def execIaAdd (u : Bool) (t : Trig) (s : State) : Host.Outcome State Fault Refusal :=
  iaOp 1 (fun o _ t => o + t) u t s

/-- `ia.sub` (R137). -/
def execIaSub (u : Bool) (t : Trig) (s : State) : Host.Outcome State Fault Refusal :=
  iaOp 1 (fun o _ t => o - t) u t s

/-- `ia.adds` (R137). -/
def execIaAdds (u : Bool) (t : Trig) (s : State) : Host.Outcome State Fault Refusal :=
  iaOp 1 (fun o _ t => satS 32 (o.toInt + t.toInt)) u t s

/-- `ia.subs` (R137). -/
def execIaSubs (u : Bool) (t : Trig) (s : State) : Host.Outcome State Fault Refusal :=
  iaOp 1 (fun o _ t => satS 32 (o.toInt - t.toInt)) u t s

/-- `ia.addus` (R137). -/
def execIaAddus (u : Bool) (t : Trig) (s : State) : Host.Outcome State Fault Refusal :=
  iaOp 1 (fun o _ t => satU 32 ((o.toNat : Int) + t.toNat)) u t s

/-- `ia.subus` (R137). -/
def execIaSubus (u : Bool) (t : Trig) (s : State) : Host.Outcome State Fault Refusal :=
  iaOp 1 (fun o _ t => satU 32 ((o.toNat : Int) - t.toNat)) u t s

/-- `ia.min` (R137). -/
def execIaMin (u : Bool) (t : Trig) (s : State) : Host.Outcome State Fault Refusal :=
  iaOp 1 (fun o _ t => if o.toInt ≤ t.toInt then o else t) u t s

/-- `ia.max` (R137). -/
def execIaMax (u : Bool) (t : Trig) (s : State) : Host.Outcome State Fault Refusal :=
  iaOp 1 (fun o _ t => if o.toInt ≤ t.toInt then t else o) u t s

/-- `ia.minu` (R137). -/
def execIaMinu (u : Bool) (t : Trig) (s : State) : Host.Outcome State Fault Refusal :=
  iaOp 1 (fun o _ t => if o.toNat ≤ t.toNat then o else t) u t s

/-- `ia.maxu` (R137). -/
def execIaMaxu (u : Bool) (t : Trig) (s : State) : Host.Outcome State Fault Refusal :=
  iaOp 1 (fun o _ t => if o.toNat ≤ t.toNat then t else o) u t s

/-- `ia.and` (R137). -/
def execIaAnd (u : Bool) (t : Trig) (s : State) : Host.Outcome State Fault Refusal :=
  iaOp 1 (fun o _ t => o &&& t) u t s

/-- `ia.or` (R137). -/
def execIaOr (u : Bool) (t : Trig) (s : State) : Host.Outcome State Fault Refusal :=
  iaOp 1 (fun o _ t => o ||| t) u t s

/-- `ia.xor` (R137). -/
def execIaXor (u : Bool) (t : Trig) (s : State) : Host.Outcome State Fault Refusal :=
  iaOp 1 (fun o _ t => o ^^^ t) u t s

/-- `ia.shl` (R138). -/
def execIaShl (u : Bool) (t : Trig) (s : State) : Host.Outcome State Fault Refusal :=
  iaOp 1 (fun o _ t => if 32 ≤ t.toNat then 0#32 else o <<< t.toNat) u t s

/-- `ia.shr` (R138). -/
def execIaShr (u : Bool) (t : Trig) (s : State) : Host.Outcome State Fault Refusal :=
  iaOp 1 (fun o _ t => if 32 ≤ t.toNat then 0#32 else o >>> t.toNat) u t s

/-- `ia.sar` (R138). -/
def execIaSar (u : Bool) (t : Trig) (s : State) : Host.Outcome State Fault Refusal :=
  iaOp 1 (fun o _ t => if 32 ≤ t.toNat then (if o.msb then BitVec.allOnes 32 else 0#32) else o.sshiftRight t.toNat) u t s

/-- `ia.rotl` (R138). -/
def execIaRotl (u : Bool) (t : Trig) (s : State) : Host.Outcome State Fault Refusal :=
  iaOp 1 (fun o _ t => o.rotateLeft (t.toNat % 32)) u t s

/-- `ia.clz` (R137). -/
def execIaClz (u : Bool) (t : Trig) (s : State) : Host.Outcome State Fault Refusal :=
  iaOp 1 (fun _ _ t => BitVec.ofNat 32 (leadZeros 32 t)) u t s

/-- `ia.ctz` (R137). -/
def execIaCtz (u : Bool) (t : Trig) (s : State) : Host.Outcome State Fault Refusal :=
  iaOp 1 (fun _ _ t => BitVec.ofNat 32 (trailZeros 32 t)) u t s

/-- `ia.popc` (R137). -/
def execIaPopc (u : Bool) (t : Trig) (s : State) : Host.Outcome State Fault Refusal :=
  iaOp 1 (fun _ _ t => BitVec.ofNat 32 (countOnes 32 t)) u t s

/-- `ia.ext` (R139). -/
def execIaExt (u : Bool) (t : Trig) (s : State) : Host.Outcome State Fault Refusal :=
  iaOp 1 (fun o _ t => BitVec.ofInt 32 (extField o (fieldPos t) (fieldWidth t))) u t s

/-- `ia.extu` (R139). -/
def execIaExtu (u : Bool) (t : Trig) (s : State) : Host.Outcome State Fault Refusal :=
  iaOp 1 (fun o _ t => BitVec.ofNat 32 ((o.toNat >>> fieldPos t) % 2 ^ fieldWidth t)) u t s

/-- `ia.ins` (R139). -/
def execIaIns (u : Bool) (t : Trig) (s : State) : Host.Outcome State Fault Refusal :=
  iaOp 1 (fun o b t => (o &&& ~~~(fieldMask t)) ||| ((b <<< fieldPos t) &&& fieldMask t)) u t s

/-- `ia.ceq` (R137). -/
def execIaCeq (u : Bool) (t : Trig) (s : State) : Host.Outcome State Fault Refusal :=
  iaOp 1 (fun o _ t => if o = t then 1#32 else 0#32) u t s

/-- `ia.cne` (R137). -/
def execIaCne (u : Bool) (t : Trig) (s : State) : Host.Outcome State Fault Refusal :=
  iaOp 1 (fun o _ t => if o = t then 0#32 else 1#32) u t s

/-- `ia.clt` (R137). -/
def execIaClt (u : Bool) (t : Trig) (s : State) : Host.Outcome State Fault Refusal :=
  iaOp 1 (fun o _ t => if o.toInt < t.toInt then 1#32 else 0#32) u t s

/-- `ia.cle` (R137). -/
def execIaCle (u : Bool) (t : Trig) (s : State) : Host.Outcome State Fault Refusal :=
  iaOp 1 (fun o _ t => if o.toInt ≤ t.toInt then 1#32 else 0#32) u t s

/-- `ia.cltu` (R137). -/
def execIaCltu (u : Bool) (t : Trig) (s : State) : Host.Outcome State Fault Refusal :=
  iaOp 1 (fun o _ t => if o.toNat < t.toNat then 1#32 else 0#32) u t s

/-- `ia.cleu` (R137). -/
def execIaCleu (u : Bool) (t : Trig) (s : State) : Host.Outcome State Fault Refusal :=
  iaOp 1 (fun o _ t => if o.toNat ≤ t.toNat then 1#32 else 0#32) u t s

/-- `ia.mul` (R137). -/
def execIaMul (u : Bool) (t : Trig) (s : State) : Host.Outcome State Fault Refusal :=
  iaOp 3 (fun o _ t => o * t) u t s

/-- `ia.mulh` (R137). -/
def execIaMulh (u : Bool) (t : Trig) (s : State) : Host.Outcome State Fault Refusal :=
  iaOp 3 (fun o _ t => BitVec.ofInt 32 ((o.toInt * t.toInt) >>> 32)) u t s

/-- `ia.mulhu` (R137). -/
def execIaMulhu (u : Bool) (t : Trig) (s : State) : Host.Outcome State Fault Refusal :=
  iaOp 3 (fun o _ t => BitVec.ofNat 32 ((o.toNat * t.toNat) >>> 32)) u t s

/-- `ia.div` (R140). -/
def execIaDiv (u : Bool) (t : Trig) (s : State) : Host.Outcome State Fault Refusal :=
  iaOp 18 (fun o _ t => divS o t) u t s

/-- `ia.divu` (R140). -/
def execIaDivu (u : Bool) (t : Trig) (s : State) : Host.Outcome State Fault Refusal :=
  iaOp 18 (fun o _ t => if t = 0#32 then BitVec.allOnes 32 else BitVec.ofNat 32 (o.toNat / t.toNat)) u t s

/-- `ia.rem` (R140). -/
def execIaRem (u : Bool) (t : Trig) (s : State) : Host.Outcome State Fault Refusal :=
  iaOp 18 (fun o _ t => remS o t) u t s

/-- `ia.remu` (R140). -/
def execIaRemu (u : Bool) (t : Trig) (s : State) : Host.Outcome State Fault Refusal :=
  iaOp 18 (fun o _ t => if t = 0#32 then o else BitVec.ofNat 32 (o.toNat % t.toNat)) u t s

end Sys2Proof.Machine
end

