-- ==== Sys2Proof/Machine/Move.lean ====
section
/-!
DEFINITION. Moves that trigger nothing (spec/01 R29, spec/03 R81, spec/04 R113, R123, spec/06 R166).
-/
namespace Sys2Proof.Machine

open Sys2Proof

/-- The source is an `h` register or `ls.hr`: only then does a handle keep its V bit (R166). -/
def fromHandle : Src → Bool
  | .reg u s => u = 2#5 || (u = 0x0C#5 && s = 2#6)
  | _ => false

/-- A value moved into an `h` register or `ls.h` (R166). -/
def handleMove (src : Src) (v : U64) : U64 :=
  if fromHandle src then v else v &&& 0x7FFFFFFFFFFFFFFF#64

/-- What a move does with its value: a register or control register takes it at the end of the cycle, an
operand port at once (R28, steps 3 and 5). -/
def moveTo (du ds : Nat) (src : Src) (v : U64) (c : Core) : Core :=
  let v := if du = 2 || (du = 0x0C && ds = 1) then handleMove src v else v
  if du ≤ 3 then (if hardwired (keyOf du ds) then c else c.atEnd (.reg (keyOf du ds) v))
  else if du = 0x18 then c.atEnd (.sys ds v)
  else c.setPort du ds v

/-- MOVE (R81). -/
def execMove (du : BitVec 5) (ds : BitVec 6) (t : Trig) (s : State) : Host.Outcome State Fault Refusal :=
  shortMe t s (moveTo du.toNat ds.toNat t.src)

/-- SFLAG_WRITE: writing 1 to a bit of `sys.sflag` clears it at the end of the cycle (R38, R123). -/
def execSflagWrite (t : Trig) (s : State) : Host.Outcome State Fault Refusal :=
  shortMe t s (fun v c => c.atEnd (.sys 3 v))

end Sys2Proof.Machine
end

