-- ==== Sys2Proof/Machine/Tick.lean ====
section
/-!
DEFINITION. One DCC cycle of a cluster (spec/01 R21-R31): delivering what is due, issuing the bundles of all
streams, the engines' cycle, and what the boundary makes of it: a commit, a hold, a trap or a save.
-/
namespace Sys2Proof.Machine

open Sys2Proof

/-- Goes on from a next state. -/
def onNext (o : Host.Outcome State Fault Refusal) (f : State → Host.Outcome State Fault Refusal) :
    Host.Outcome State Fault Refusal :=
  match o with
  | .next s => f s
  | .fault r => .fault r
  | .refused r => .refused r

/-- Runs an action over a list in turn, from a next state to a next state. -/
def overNext {α : Type} (f : α → State → Host.Outcome State Fault Refusal) :
    List α → State → Host.Outcome State Fault Refusal
  | [], s => .next s
  | x :: xs, s => onNext (f x s) (overNext f xs)

/-! ## Issue -/

/-- The order in which the words of a bundle act: moves into ports and registers, `ls` before `ga`, the other
triggers, `vx0` before `vx1`, the engine word, and `ver` last, since a `pan` operation takes its random values first
(R28, R160, R270, R322). -/
def wordRank (i : Instr) : Nat :=
  match shortOf i with
  | some (trig, u, _, _) => if !trig then 0 else if u = 0x0C#5 then 1 else if u = 0x0F#5 then 2 else if u = 0x14#5 then 7 else 3
  | none =>
    match vxOf i with
    | some (_, w) => if w.u then 5 else 4
    | none => 6

/-- The operand latch of the unit that a guarded-on trigger starts (R32). -/
def State.latchOf (s : State) (i : Instr) : State :=
  match shortOf i with
  | some (true, u, _, t) =>
    if s.me.guard t.g t.n then s.updMe (fun c => { c with latch := sset 0#64 c.latch u.toNat (s.source t.src) }) else s
  | _ => s

/-- Lets the words of a bundle act. -/
def runWords (ws : List Instr) (s : State) : Host.Outcome State Fault Refusal :=
  overNext (fun i s => runWord i (s.latchOf i)) (sortBy (fun a b => wordRank a ≤ wordRank b) ws) s

/-- The lines that fetch has looked at for a bundle, with the line that follows. -/
def fetched (pc : Addr20) (b : Bundle) : List Nat :=
  let first := pc.toNat / 64
  let n := (b.addr.toNat / 64 + 16384 - first) % 16384
  (List.range (n + 1)).map (fun i => (first + i) % 16384) ++ [b.next.toNat / 64]

/-- Whether the stream runs in this cycle: started, not halted, not waiting at the return barrier. -/
def Core.runs (c : Core) : Bool := c.ctl.started && !c.ctl.halted && !c.pipe.tret

/-- A transfer whose delay bundles and bubble are over puts the stream at its target (R145). -/
def Core.arrive (c : Core) : Core :=
  match c.ctl.xfer with
  | some x => if x.slots = 0 && x.bubble = 0 then { c with ctl := { c.ctl with pc := x.target, xfer := none } } else c
  | none => c

/-- The stream stands in the bubble of a transfer (R145). -/
def Core.inBubble (c : Core) : Bool :=
  match c.ctl.xfer with
  | some x => x.slots = 0 && 0 < x.bubble
  | none => false

/-- One cycle of a bubble. -/
def Core.bubbleStep (c : Core) : Core :=
  { c with ctl := { c.ctl with xfer := c.ctl.xfer.map (fun x => { x with bubble := x.bubble - 1 }) } }

/-- A pass of the loop engine starts in this cycle (R154). -/
def Core.atPass (c : Core) : Bool := c.ctl.loop.active && c.ctl.loop.pos = 0

/-- What a pass start does (R154): the predicates, the count, and where the stream goes on. A resume address
that a handler moved stays (R304). -/
def Core.pass (c : Core) (drain : Bool) : Core :=
  if !c.atPass then c
  else
    let l := c.ctl.loop
    let r := c.passStart drain
    let c := (List.range 4).foldl (fun c i => c.setReg (kP (12 + i)) (if r.2.2.getLsbD i then 1#64 else 0#64)) c
    if r.2.2 = 0#4 then
      { c with ctl := { c.ctl with loop := {}, pc := if c.ctl.redirect then c.ctl.pc else l.stop } }
    else
      let cnt := if r.2.1 then r.1 - 1 else r.1
      let c := if r.2.1 then c.atEnd (.lcLoop (kLc l.n) (cnt.setWidth 64)) else c
      { c with ctl := { c.ctl with
          loop := { l with cnt := cnt, pattern := r.2.2, fresh := false, drained := false }
          pc := if c.ctl.redirect then c.ctl.pc else l.start } }

/-- After its bundle the stream goes on in sequence (R76); a delay bundle and a body bundle are counted. -/
def Core.after (c : Core) (next : Addr20) (delay : Bool) : Core :=
  let l := c.ctl.loop
  { c with ctl := { c.ctl with
    pc := next
    xfer := if delay then c.ctl.xfer.map (fun x => { x with slots := x.slots - 1 }) else c.ctl.xfer
    loop := if l.active then { l with pos := if l.pos + 1 = l.b then 0 else l.pos + 1 } else l
    redirect := false } }

/-- The codes of R93 that stop a bundle, code 12 among them (R155). -/
def Core.bundleCode (c : Core) (b : Bundle) : Nat :=
  lowestCode (b.codes ++ codeIf (c.ctl.loop.active && 3 ≤ c.ctl.loop.stages && hasEngine b.words) .inLoop)

/-- A bundle address that triggers the trace (R316). -/
def Core.traceAddr (c : Core) (a : Addr20) : Core :=
  if trcKind c.trc = 1 && a.toNat = trcTarg c.trc % 2 ^ 20 then { c with trace := { c.trace with hit := true } } else c

/-- Issues the bundle of the stream in this cycle, if it issues one (R28, R73-R76, R92, R145, R150, R154). -/
def State.issue (s : State) : Host.Outcome State Fault Refusal :=
  if !s.me.runs then .next s
  else if s.me.inBubble then .next (s.updMe Core.bubbleStep)
  else
    let s := s.updMe (fun c => c.arrive.pass s.draining)
    let pc := s.me.ctl.pc
    match bundleAt s.lineOf pc with
    | none => .next (s.raise 1 10 (pc.setWidth 64))
    | some b =>
      let s := s.updMe (fun c => (({ c with ctl := { c.ctl with pc := b.addr } } : Core).holdLines (fetched pc b)).traceAddr b.addr)
      let code := s.me.bundleCode b
      if code ≠ 0 then .next (s.raise 1 code (b.addr.setWidth 64))
      else
        let delay := s.me.inDelay
        let skip := s.me.ctl.skip
        if skip ≠ 0 then
          .next (s.updMe (fun c => ({ c with ctl := { c.ctl with skip := skip - 1 } } : Core).after b.next delay))
        else
          onNext (runWords b.words s) (fun s => .next (s.updMe (fun c => c.after b.next delay)))

/-- Issues the bundles of all streams of a cluster. -/
def State.issueAll (s : State) (slot : Nat) : Host.Outcome State Fault Refusal :=
  overNext (fun i s => ({ s with cur := 8 * slot + i } : State).issue) (List.range (s.cluster slot).cores.length) s

/-! ## Schedule errors -/

/-- The destination of a write at the end of a cycle, numbered, if two of them would clash (R95). The engine's
write of a loop count and that of `ctl.lbrk` are one (R155). -/
def EndW.dest : EndW → Option Nat
  | .reg k _ => if hardwired k then none else some k
  | .lcLoop k _ => some k
  | .kvMax n _ => some (1000 + n % 64)
  | .kvLen n _ => some (1000 + n % 64)
  | .vshape _ => some 2000
  | _ => none

/-- The registers written by completions in this cycle (R95); a line of a tile register counts as one. -/
def Put.dest : Put → Option Nat
  | .mask m _ => some (4000 + m)
  | .tileTag l _ => some (5000 + l)
  | _ => none

/-- Some number stands twice in a list. -/
def repeats : List Nat → Bool
  | [] => false
  | x :: xs => xs.contains x || repeats xs

/-- `ctl.lbrk` meets a move into the loop count that it clears. -/
def Core.breakClash (c : Core) : Bool :=
  c.pipe.endW.any (fun b => match b with
    | .lbrk n => c.pipe.endW.any (fun w => match w with | .reg k _ => k = kLc n | _ => false)
    | _ => false)

/-- Two writes to one register in this cycle (R95). -/
def Core.clash (c : Core) : Bool :=
  repeats (c.pipe.endW.filterMap (EndW.dest) ++ c.pipe.puts.filterMap Put.dest) || c.breakClash

/-- The faults that show when every bundle of the cycle has been looked at: schedule errors (R95), values of
`xc` that no receive takes (R179), and failed meetings (R180). -/
def Cluster.judge (c : Cluster) : Cluster :=
  let at' (code : Nat) (i : Nat) (c : Cluster) : Cluster := c.raise { cls := 2, strm := i, eng := false, code := code, tval := 0#64 }
  let is := List.range c.cores.length
  let c1 := is.foldl (fun d i => if (c.core i).clash then at' 1 i d else d) c
  let c2 := is.foldl (fun d i => if c.here.any (fun m => m.dst = i) && !((c.core i).pipe.rcv) then at' 8 i d else d) c1
  c.syncFaults.foldl (fun d i => at' 10 i d) c2

/-! ## The parts of a cycle -/

/-- The values of `xc` that arrive in this cycle; those for streams that do not run are discarded, and two at
one stream are XC_COLLIDE (R178, R179). -/
def Cluster.arrivals (c : Cluster) : Cluster :=
  let now := c.xc.filter (fun m => m.left = 0 && c.live.contains m.dst)
  let c := { c with here := now, xc := c.xc.filter (fun m => m.left ≠ 0) }
  (List.range 8).foldl (fun d i =>
    if 2 ≤ (now.filter (fun m => m.dst = i)).length then
      d.raise { cls := 2, strm := i, eng := false, code := 9, tval := 0#64 }
    else d) c

/-- SOFT and BREAK of the bundle before (R298). -/
def State.softNow (s : State) : State :=
  let p := s.me.pipe
  let s := s.updMe (fun c => { c with pipe := { c.pipe with soft := none, brk := none } })
  let s := match p.soft with | some t => s.raise 10 (t.toNat % 65536) t | none => s
  match p.brk with | some a => s.raise 12 0 a | none => s

/-- The deliver phase of a cycle: results due (R30), arrivals, and the events that came since (R298). -/
def State.deliverDue (s : State) (slot : Nat) : State :=
  let again := (s.cluster slot).landed
  let handler := (s.cluster slot).handler
  let s := s.updCluster slot (fun c => { c.holdOver with raised := c.lateIn, lateIn := [], polite := false, landed := true, asked := [] })
  let s := s.eachCore slot (fun s => s.resultsNow again)
  let s := s.updCluster slot Cluster.arrivals
  let s := s.eachCore slot State.softNow
  if handler then s else s.eachCore slot (fun s => s.missAll false)

/-- Some stream waits for a token that is still pending (R151). -/
def Cluster.tokenWait (c : Cluster) : Bool := c.cores.any Core.tokenWait

/-- The waits of a cluster are over. -/
def Cluster.waited (c : Cluster) : Cluster :=
  { c with cores := c.cores.map (fun k => { k with pipe := { k.pipe with twait := none } }) }

/-- Issues, reads and engines of one cycle, on a state whose due results have been delivered. -/
def State.attempt (s : State) (slot : Nat) : Host.Outcome State Fault Refusal :=
  onNext (s.issueAll slot) (fun s =>
    let s := s.eachCore slot (fun s => ((s.vxReads false).lsReads false).verStep)
    let s := if (s.cluster slot).handler then s else s.engCycle slot false
    .next (s.updCluster slot Cluster.judge))

/-- What `ctl.tpoll` delivers is the state of its token at the end of its issue cycle, a settle in that cycle included
(R152), and what `q.cnt` delivers the bytes held then (R183). -/
def Core.polls (c : Core) : Core :=
  let read (p : Put) : Put := match p with
    | .poll k => .port (keyOf 0x0D 0) ((c.token k).setWidth 64)
    | .count k => .port (keyOf 0x16 0) (BitVec.ofNat 64 (sget {} c.units.q k).held)
    | p => p
  { c with pipe := { c.pipe with flights := c.pipe.flights.map (fun f => { f with puts := f.puts.map read }) } }

/-- The end of a cycle that took effect (R28, R21). -/
def State.commit (s : State) (slot : Nat) : State :=
  let handler := (s.cluster slot).handler
  let s := s.endWrites slot
  if (s.cluster slot).allTret then s.trapReturn slot
  else
    let csc := (s.cluster slot).csc
    let s := s.updCluster slot (fun c =>
      let c := { c.count with landed := false, canaryAt := none }
      if handler then { c with hc := c.hc + 1, holdLen := c.holdLen + 1 } else { c with csc := c.csc + 1 })
    let s := if handler then s else (s.engEnd slot).updCluster slot (fun c => { c with cores := c.cores.map (fun k => k.stampsPass csc) })
    s.updCluster slot (fun c => { c with cores := c.cores.map Core.polls })

/-- A stall hold for one cycle: requests for pages leave (R189); a line of instruction memory under reload is back after it
(R351). -/
def State.holdStall (s : State) (slot : Nat) : State :=
  (s.askPages slot).updCluster slot (fun c =>
    let c := c.held false
    { c with reload := false, cores := c.cores.map (fun k => k.record c.stamp) })

/-- What an attempted cycle that the cluster does not take leaves on the heads of the engine queues: what they wait for, and
the read accesses that they have made; a command that made some has started. -/
def Core.marks (c d : Core) : Core :=
  let f (x y : List Cmd) : List Cmd :=
    match x, y with
    | a :: t, b :: _ =>
      if a.csc = b.csc then
        { a with
          held := b.held, moving := b.moving, data := { a.data with reads := b.data.reads }
          el := if b.data.reads.isEmpty then a.el else a.el.orElse fun _ => some 0
          stamp := if b.data.reads.isEmpty then a.stamp else 0#32 } :: t
      else x
    | x, _ => x
  { c with units := { c.units with mxq := f c.units.mxq d.units.mxq, panq := f c.units.panq d.units.panq } }

/-- Commands that faulted in an attempted cycle run again from their start (R259). -/
def Core.restarts (c d : Core) : Core :=
  let f (x y : List Cmd) : List Cmd :=
    match x, y with
    | a :: t, b :: _ => if a.csc = b.csc && a.el.isSome && b.el.isNone then a.restart :: t else x
    | x, _ => x
  { c with units := { c.units with mxq := f c.units.mxq d.units.mxq, panq := f c.units.panq d.units.panq } }

/-- Carries something of each core of an attempted cycle into the state that stands. -/
def State.carry (s t : State) (slot : Nat) (f : Core → Core → Core) : State :=
  s.updCluster slot (fun c => { c with cores := c.cores.mapIdx (fun i k => f k ((t.cluster slot).core i)) })

/-- Carries the marks of an attempted cycle, with the read accesses that its engines have made (R322, step 5). -/
def State.carryMarks (s t : State) (slot : Nat) : State :=
  let new := t.acc.filter (fun a => s.nextAcc ≤ a.id && a.party = .engine && a.op = .load)
  { s.carry t slot Core.marks with nextAcc := t.nextAcc, acc := s.acc ++ new }

/-- The cluster runs its engines in a wait hold, and what they fault on arises during the hold (R23, R24). DESIGN CHOICE: no
bundle of a CSC cycle stands beside what the engines write in a held or saving cycle, and R95 judges no clash there (log
entry 74). -/
def State.engHold (s : State) (slot : Nat) : State :=
  let s0 := s.updCluster slot (fun c => { c with stall := false, wait := false, raised := [] })
  let t := (s0.eachCore slot (fun s => s.missAll true)).engCycle slot true
  if (t.cluster slot).stall then
    ((s.carryMarks t slot).updCluster slot (fun c => { c with asked := (t.cluster slot).asked })).holdStall slot
  else ((t.endWrites slot).engEnd slot).updCluster slot (fun c => { c.held true with cores := c.cores.map Core.keepSlow })

/-- A wait hold for one cycle; in handler mode the engines stay frozen (R303). -/
def State.holdWait (s : State) (slot : Nat) : State :=
  if (s.cluster slot).handler then s.updCluster slot (fun c => c.held true) else s.engHold slot

/-! ## Boundaries -/

/-- Causes of TIMING carry the address of the bundle that is due (R296). -/
def State.placed (s : State) (slot : Nat) (cs : List Cause) : List Cause :=
  cs.map (fun x => if x.cls = 2 then
    { x with tval := (({ s with cur := 8 * slot + x.strm } : State).dueAddr).setWidth 64 } else x)

/-- Completes a trap if every reply that it waits for has come; otherwise the cluster is held (R300). -/
def State.tryTrap (s : State) (slot : Nat) : State :=
  if s.allArrived (s.awaited slot) then s.takeTrap slot else s.holdStall slot

/-- A trap at the current boundary for these causes (R298, R299). -/
def State.trap (s : State) (slot : Nat) (cs : List Cause) : State :=
  let cs := s.placed slot cs
  ((s.beginStop slot).updCluster slot (fun c => { c with raised := cs })).tryTrap slot

/-- The streams whose timers fire at this boundary if no fault is raised there (R314). -/
def State.timersDue (s : State) (slot : Nat) : List Nat :=
  let c := s.cluster slot
  if c.handler || !c.delivers then []
  else c.live.filter (fun i =>
    let k := c.core i
    k.armed && k.fen.getLsbD 16 && k.tmr.toNat ≤ s.dcc.toNat)

/-- The timers of some streams fire: each is disarmed and raises TIMER (R314). -/
def State.fireTimers (s : State) (slot : Nat) (is : List Nat) : State :=
  (s.updCluster slot (fun c => is.foldl (fun c i => c.updCore i (fun k => { k with armed := false })) c)).trap slot
    (is.map (fun i => { cls := 11, strm := i, eng := false, code := 0, tval := s.dcc }))

/-- The streams whose loop engine reaches pattern 0 at this pass start with a drain request: a polite point
(R154, R156). -/
def State.loopStops (s : State) (slot : Nat) : List Nat :=
  let c := s.cluster slot
  if c.drain.isNone || c.handler then []
  else c.live.filter (fun i =>
    let k := (c.core i).arrive
    k.runs && !k.inBubble && k.atPass && (k.passStart true).2.2 = 0#4)

/-- The loop engine at its polite point (R154, R156): drained with its count kept, or finished. -/
def Core.loopStop (c : Core) : Core :=
  let c := c.arrive
  let l := c.ctl.loop
  let cnt := (c.passStart true).1
  let c := (List.range 4).foldl (fun c i => c.setReg (kP (12 + i)) 0#64) c
  if cnt = 0#32 then { c with ctl := { c.ctl with loop := {}, pc := l.stop } }
  else { c with ctl := { c.ctl with loop := { l with drained := true, cnt := cnt, pattern := 0#4, pos := 0, fresh := false } } }

/-- A save is due at this boundary: a polite point has come, or the window W has passed (R309). -/
def Cluster.saveDue (c : Cluster) : Bool :=
  !c.handler && (match c.drain with | some d => c.polite || d.forced | none => false)

/-- An engine's failed page and its protection violation end a hold (R189, R307); other events wait until it is over
(R298). -/
def endsHold (cs : List Cause) : Bool := cs.any (fun x => x.eng && (x.cls = 5 || x.cls = 6))

/-- What a boundary makes of an attempted cycle: `s` is the state as it stood, `d` the state with the due
results delivered, `t` the state after the attempt. A hold that stands goes on while it is asked for, and in it no pass of
a loop begins (R23); then the end
of a team whose launch ends, faults, timers, saves and the commit, in this order (R24, R298, R299, R309, R377). -/
def State.settle (s d t : State) (slot : Nat) : State :=
  let c := s.cluster slot
  let r := t.cluster slot
  let blocked := r.stall || r.wait
  let stops := if blocked then [] else d.loopStops slot
  let early := (d.cluster slot).raised
  let all := if blocked || !(stops.isEmpty) then early else r.raised
  let timers := d.timersDue slot
  if blocked && !(endsHold early) && (c.stall || c.wait || (early.isEmpty && !c.saveDue)) then
    let s := s.updCluster slot (fun c => { c with asked := r.asked })
    if r.stall then (s.carryMarks t slot).holdStall slot else s.holdWait slot
  else if s.doomed slot then d.haltTeam slot
  else if !(early.isEmpty) then (d.carry t slot Core.restarts).trap slot all
  else if !(timers.isEmpty) && !blocked then
    if all.isEmpty then d.fireTimers slot timers else (d.carry t slot Core.restarts).trap slot all
  else if c.saveDue then d.beginSave slot
  else if !(stops.isEmpty) then
    (d.updCluster slot (fun c => stops.foldl (fun c i => c.updCore i Core.loopStop) c)).beginSave slot
  else if !(all.isEmpty) then (d.carry t slot Core.restarts).trap slot all
  else t.commit slot

/-- A result is late or finds a stage queue full, an engine's page is missing, an engine's writes are late, or a line of
instruction memory is being reloaded (R26, R182, R189, R326, R351). -/
def State.mustHold (s : State) (slot : Nat) : Bool :=
  (s.cluster slot).reload ||
  (List.range (s.cluster slot).cores.length).any (fun i =>
    let s := { s with cur := 8 * slot + i }
    s.lateHere || (!s.myCluster.handler && !(endsHold s.myCluster.lateIn) && (s.pageWait || s.writeWait)))

/-- Completes the `mx` and `pan` commands of a cluster that were over and whose writes have performed since (R238, R326). -/
def State.engOver (s : State) (slot : Nat) : State :=
  if (s.cluster slot).handler then s
  else (s.eachCore slot (fun s => (s.doneHead .mx).doneHead .pan)).updCluster slot (fun c =>
    { c with lateIn := c.lateIn ++ c.raised, raised := [] })

/-- A team has retired: every stream has halted, no token is pending, the engine queues are empty, and its writes
have performed (R15). -/
def State.retires (s : State) (slot : Nat) : Bool :=
  let c := s.cluster slot
  c.running && !c.handler && !c.saving && !c.stopped && c.trapE.isNone && c.raised.isEmpty && c.lateIn.isEmpty &&
  c.cores.all (fun k => k.ctl.halted && k.tok.all (fun t => t.2 ≠ 1#2) && k.units.mxq.isEmpty && k.units.wzq.isEmpty && k.units.panq.isEmpty) &&
  !(s.acc.any (fun a => a.slot = slot))

/-- The cycle of a cluster whose streams stand at a boundary. A team that retires on this cycle, by what the
cycle delivers, does nothing more in it (R15). -/
def State.boundary (s : State) (slot : Nat) : Host.Outcome State Fault Refusal :=
  if s.mustHold slot then .next (s.holdStall slot)
  else
    let s := s.engOver slot
    let d := s.deliverDue slot
    if d.retires slot then .next d
    else if (d.cluster slot).tokenWait then .next (s.settle d (d.updCluster slot (fun c => { c with wait := true })) slot)
    else onNext ((d.updCluster slot Cluster.waited).attempt slot) (fun t => .next (s.settle d t slot))

/-! ## Saves -/

/-- A command of the cluster still runs (R310). -/
def Cluster.running? (c : Cluster) : Bool :=
  c.cores.any (fun k => (k.units.mxq ++ k.units.wzq ++ k.units.panq).any (fun m => m.el.isSome))

/-- A vector operation whose stores need bytes of a queue that have not come: nothing can perform them before the operation
goes on (log entry 42). -/
def VOp.unfed (v : VOp) : Bool := [v.a, v.b].any (fun x => x.qpop.any (fun p => p.left ≠ 0))

/-- A save performs every access of the core streams (R328): the chunks that an operation has still to deliver are computed
for its stores, whose data its sources, captured at the boundary, give. The operation itself delivers after resumption. -/
def State.vxAhead (s : State) (pos : Nat) (v : VOp) : State :=
  if !v.full || v.unfed || !(v.stores.any (fun st => s.acc.any (fun a => a.id = st.2 && !a.ready))) then s
  else
    ((List.range v.chunks).drop (v.chunks - chunksLeft v.lat v.chunks v.age)).foldl (fun (p : State × VOp) j =>
      let v := p.2
      let m := p.1.vxMake v (p.1.freeAt (1 + if v.word.u then 1 else 0) (pos * 2 ^ 24)) j
      let next := if vxChunked v.opc then (v.chunkElems j).1 + (v.chunkElems j).2 else v.countD
      let w := p.1.vxLines v m
      (p.1.storeLines v (min next v.countD) w.lines, { v with lines := noteLines v.lines w.lines })) (s, v) |>.1

/-- The stores of the stream's vector operations, ahead of their cycles. -/
def State.storesAhead (s : State) : State := (s.me.pipe.vops.zipIdx).foldl (fun s x => s.vxAhead x.2 x.1) s

/-- Every access of a slot's core streams and engines has performed, but for stores that wait for bytes of a queue (R328). -/
def State.allPerformed (s : State) (slot : Nat) : Bool :=
  !(s.acc.any (fun a => a.slot = slot && a.party ≠ .link &&
    !((s.cluster slot).core a.core).pipe.vops.any (fun v => v.unfed && v.stores.any (fun st => st.2 = a.id))))

/-- A save has nothing left to wait for: replies have come, accesses have performed, and running commands are complete
(R300, R310, R328). -/
def State.saveReady (s : State) (slot : Nat) : Bool :=
  (s.cluster slot).saving && s.allArrived (s.awaited slot) && s.allPerformed slot && !(s.cluster slot).running?

/-- One cycle of a save: running commands go on, nothing starts (R310). -/
def State.saveTick (s : State) (slot : Nat) : State :=
  let s := if s.allArrived (s.awaited slot) then s.eachCore slot State.storesAhead else s
  let t := (s.updCluster slot (fun c => { c with stall := false, raised := [] })).eachCore slot (fun s => (s.runHead .mx).runHead .pan)
  if (t.cluster slot).stall then (s.carryMarks t slot).askPages slot
  else (((t.endWrites slot).engEnd slot).askPages slot).updCluster slot (fun c =>
    { c with raised := (s.cluster slot).raised, cores := c.cores.map Core.keepSlow })

/-! ## Stage queues (R13, R181-R183) -/

/-- The size in bytes of each stage queue (R381). -/
def Team.stageCap (t : Team) : Nat := t.sqCap * 1024

/-- The Gallery offset of a byte of the stage queue that joins team j to team j + 1: its range is used as a ring (R381; log
entry 75). -/
def Team.stageAt (t : Team) (j o : Nat) : Nat := t.sqBase + j * t.stageCap + o % t.stageCap

/-- The bytes that a stage queue holds. -/
def StageQ.held (q : StageQ) : Nat := q.lines.foldl (fun n l => n + l.1) 0

/-- Puts a line at the tail of a stage queue; the line of the Gallery that it begins is raw. The write cancels the patrol
of its lines (R359). -/
def State.stagePut (s : State) (t : Team) (j : Nat) (q : StageQ) (l : QLine) : State × StageQ :=
  let ws := l.bytes.mapIdx (fun i b => (t.stageAt j (q.head + q.held + i), b))
  let put (m : TMem) (w : Nat × Byte) : TMem :=
    let m := m.wr w.1 w.2
    if w.1 % 64 = 0 then m.wrTag dtZero w.1 dtOn else m
  let s := ((ws.map (fun w => w.1 / 64)).eraseDups).foldl (fun s l => s.touch (.gal l)) s
  ({ s with gal := ws.foldl put s.gal }, { q with lines := q.lines ++ [(l.bytes.length, l.tag)] })

/-- Puts lines into a stage queue as far as there is room: what is left of them comes last. -/
def State.stagePuts (t : Team) (j : Nat) : List QLine → State → StageQ → State × StageQ × List QLine
  | [], s, q => (s, q, [])
  | l :: ls, s, q =>
    if q.held + l.bytes.length ≤ t.stageCap then
      let r := s.stagePut t j q l
      State.stagePuts t j ls r.1 r.2
    else (s, q, l :: ls)

/-- A line at an offset of a stage queue: poison where a line of the Gallery that holds bytes of it is. -/
def State.stageLine (s : State) (t : Team) (j head n : Nat) (tag : U16) : QLine :=
  let at' := (List.range n).map (fun i => t.stageAt j (head + i))
  if at'.any (fun a => tagPoison (s.gal.tag dtZero a)) then { bytes := List.replicate n 0#8, tag := 0xFFFF#16, wait := 0 }
  else { bytes := at'.map s.gal.rd, tag := tag, wait := 0 }

/-- Takes lines from the head of a stage queue as far as there is room for them. -/
def State.stageGets (s : State) (t : Team) (j : Nat) : List (Nat × U16) → Nat → Nat → List QLine × StageQ
  | [], head, _ => ([], { head := head })
  | (n, tag) :: ls, head, room =>
    if n ≤ room then
      let r := s.stageGets t j ls ((head + n) % t.stageCap) (room - n)
      (s.stageLine t j head n tag :: r.1, r.2)
    else ([], { head := head, lines := (n, tag) :: ls })

/-- Reading a stage queue meets a standing error in its lines of the Gallery (R357, R359). -/
def State.stageMet (s : State) (t : Team) (j : Nat) (q : StageQ) : State :=
  match s.fire.loc with
  | some (.gal l) => if (List.range q.held).any (fun i => t.stageAt j (q.head + i) / 64 = l) then s.met (.gal l) else s
  | _ => s

/-- The stage queue that joins team j of a launch to team j + 1. -/
def State.stageOf (s : State) (launch j : Nat) : StageQ := ((s.launchOf launch).map (fun l => sget {} l.stageQ j)).getD {}

/-- Moves bytes between a linked queue of the stream and its stage queue, as far as there is room (R181, R182); this goes on
in DCC time, holds included. -/
def State.stageMove (s : State) (k : Nat) : State :=
  let t := s.myCluster.info
  let q := sget {} s.me.units.q k
  if q.link = 2 then
    let r := State.stagePuts t t.team q.lines s (s.stageOf t.launch t.team)
    (r.1.updMe (fun c => c.updQ k (fun q => { q with lines := r.2.2 }))).updLaunch t.launch (fun l =>
      { l with stageQ := sset {} l.stageQ t.team r.2.1 })
  else if q.link = 1 && 0 < t.team then
    let far := s.stageOf t.launch (t.team - 1)
    let s := s.stageMet t (t.team - 1) far
    let r := s.stageGets t (t.team - 1) far.lines far.head (queueCap - q.held)
    (s.updMe (fun c => c.updQ k (fun q => { q with lines := q.lines ++ r.1 }))).updLaunch t.launch
      (fun l => { l with stageQ := sset {} l.stageQ (t.team - 1) r.2 })
  else s

/-- Moves bytes of every linked queue of a cluster. -/
def State.stageStep (s : State) (slot : Nat) : State :=
  if (s.cluster slot).info.stages ≤ 1 then s
  else s.eachCore slot (fun s => (List.range 16).foldl State.stageMove s)

/-! ## A cycle of a cluster and of the module -/

/-- One DCC cycle of the cluster in a slot. -/
def State.clusterTick (s : State) (slot : Nat) : Host.Outcome State Fault Refusal :=
  let c := s.cluster slot
  if !c.running then .next s
  else if c.saving then .next (s.saveTick slot)
  else if c.stopped then .next s
  else if s.canaryDue slot then .next (s.canary slot)
  else if c.pause ≠ 0 then
    .next (s.updCluster slot (fun c => { c with pause := c.pause - 1, holdLen := if c.handler then c.holdLen + 1 else 0 }))
  else if c.trapE.isSome then .next (s.tryTrap slot)
  else s.boundary slot

/-- The DCC advances (R22), and a waiting cooperative launch claims clusters (R378); every `wz` queue may start a command
again (R188); free values of the next cycle are fresh (log entry 4). -/
def State.dccStep (s : State) : State :=
  { s.dropGone.claimFree with
    dcc := s.dcc + 1, freeCtr := s.freeCtr + 2 ^ 48
    clusters := s.clusters.map (fun p => (p.1, { p.2 with took := [] })) }

/-- One DCC cycle of every bound cluster: each started stream that nothing holds issues its bundle. -/
def State.tick (s : State) : Host.Outcome State Fault Refusal :=
  onNext (overNext (fun k s => (s.stageStep k).clusterTick k) (s.clusters.map (·.1)) s) (fun s => .next s.dccStep)

end Sys2Proof.Machine
end

