-- ==== Sys2Proof/Machine/Access.lean ====
section
/-!
DEFINITION. Steps of the memory system and of a cluster that can be taken by themselves (spec/11 R322, spec/01
R24-R30, spec/10 R298-R314), and errors in on-die storage (spec/15 R351).
-/
namespace Sys2Proof.Machine

open Sys2Proof

/-- The access of a number in the buffers. -/
def State.access (s : State) (id : Nat) : Option Access := s.acc.find? (fun a => a.id = id)

/-- ACCESS_LEAVE: the access at the head of a class queue enters its cluster channel (R322, R323, R324). -/
def execAccessLeave (s : State) : Host.Outcome State Fault Refusal :=
  match s.inp with
  | .access id =>
    match s.access id with
    | some a => if s.mayLeave a then .next (s.forward a) else notYet "ACCESS_LEAVE"
    | none => notYet "ACCESS_LEAVE"
  | _ => notYet "ACCESS_LEAVE"

/-- ACCESS_ADVANCE: the access at the head of a channel enters the next channel of its route (R322). -/
def execAccessAdvance (s : State) : Host.Outcome State Fault Refusal :=
  match s.inp with
  | .access id =>
    match s.access id with
    | some a => if s.atHead a && a.stage ≠ .system then .next (s.forward a) else notYet "ACCESS_ADVANCE"
    | none => notYet "ACCESS_ADVANCE"
  | _ => notYet "ACCESS_ADVANCE"

/-! ## Errors in on-die storage (R351) -/

/-- An error that cannot be corrected in a line of a core's storage: the line becomes poison; an instruction
line is reloaded from the code copy, where that reaches, while the cluster stalls; a trace entry is lost. -/
def State.sramError (s : State) (slot core : Nat) (k : SramKind) (n : Nat) : State :=
  let upd (f : Core → Core) : State := s.updCluster slot (fun c => c.updCore core f)
  match k with
  | .scratchpad => upd (fun c => { c with scratch := (c.scratch.wrs (64 * n) (List.replicate 64 0#8)).wrTag dtOn (64 * n) 0xFFFF#16 })
  | .tile => upd (fun c => { c with tile := (c.tile.wrs (64 * n) (List.replicate 64 0#8)).wrTag dtOn (64 * n) 0xFFFF#16 })
  | .accumulator =>
    let zero (m : Store (U32 × U32)) : Store (U32 × U32) := sclear m (8 * n) (8 * n + 8)
    upd (fun c => { c with xa := zero c.xa, xaTag := sset dtOn c.xaTag n 0xFFFF#16 })
  | .queue =>
    let bad (l : QLine) : QLine := { l with bytes := List.replicate l.bytes.length 0#8, tag := 0xFFFF#16 }
    upd (fun c => c.updQ (n % 16) (fun q => { q with lines := lmod bad (n / 16) q.lines }))
  | .instruction =>
    let s := match (s.cluster slot).info.codeAt (64 * n) with | some pa => s.met (.mem (pa / 64)) | none => s
    s.updCluster slot (fun c =>
      let c := { c with reload := true }
      match c.info.codeAt (64 * n) with
      | some pa =>
        { c with
          imem := sput 0#8 c.imem ((s.dram.mem.bytes pa 64).mapIdx (fun i b => (64 * n + i, b)))
          imemTag := sset dtZero c.imemTag n (s.dram.mem.tag dtZero pa) }
      | none => c)
  | .trace =>
    let lost : TraceEntry := { stamp := 0#64, kind := 0xFF, info := 0#8, data := 0#32 }
    upd (fun c => { c with trace := { c.trace with entries := lmod (fun _ => lost) n c.trace.entries } })

/-- The size of a kind of storage in lines. -/
def sramLines (c : Core) : SramKind → Nat
  | .scratchpad => 0x6000
  | .tile => 2048
  | .accumulator => 8192
  | .queue => 16 * (c.units.q.foldl (fun m p => max m p.2.lines.length) 0)
  | .instruction => 16384
  | .trace => c.trace.entries.length

/-- The error that comes with a step, where it names a line that exists: a single-bit error is corrected and counted; of
others, lines made poison and lost entries are counted (R361). -/
def State.withSram (s : State) (i : Input) : State :=
  match i with
  | .sram slot core k n f =>
    let sl := slot.toNat
    let count (g : ErrBlock → ErrBlock) (s : State) : State := s.updErr (3 + dieOf sl) g
    if n < sramLines ((s.cluster sl).core core.toNat) k then
      match f, k with
      | .clean, _ => s
      | .one, _ => count (fun e => { e with corr := satInc e.corr }) s
      | .more, .instruction => s.sramError sl core.toNat k n
      | .more, _ => count (fun e => { e with unc := satInc e.unc }) (s.sramError sl core.toNat k n)
    else s
  | _ => s

/-- ACCESS_PERFORM: the access at the head of a system channel performs in one step (R322, R317, R357, R396). With
an error in on-die storage as its input the step is the finding of that error (R351). -/
def execAccessPerform (s : State) : Host.Outcome State Fault Refusal :=
  match s.inp with
  | .perform id f =>
    match s.access id with
    | some a =>
      if s.atHead a && a.stage = .system then
        match a.loc.unmapped with
        | some pa => .fault (.unmapped pa)
        | none => .next (s.perform a f)
      else notYet "ACCESS_PERFORM"
    | none => notYet "ACCESS_PERFORM"
  | .sram slot core k n e => .next (s.withSram (.sram slot core k n e))
  | _ => notYet "ACCESS_PERFORM"

/-! ## Replies -/

/-- MEMORY_REPLY_ARRIVAL: a reply arrives and is held until its cycle, or ends the stall it caused (R26). A reply
that nothing waits for any more is dropped. -/
def execMemoryReplyArrival (s : State) : Host.Outcome State Fault Refusal :=
  match s.inp with
  | .access id =>
    if !(s.replies.any (fun r => r.id = id && !r.arrived)) then notYet "MEMORY_REPLY_ARRIVAL"
    else if s.waitsFor id then
      .next { s with replies := s.replies.map (fun r => if r.id = id then { r with arrived := true } else r) }
    else .next { s with replies := s.replies.filter (fun r => r.id ≠ id) }
  | _ => notYet "MEMORY_REPLY_ARRIVAL"

/-! ## Parts of a cluster's cycle, taken by themselves -/

/-- The number of a slot. -/
def slotNo (b : BitVec 6) : Nat := b.toNat

/-- A cluster whose streams stand at a boundary that nothing late holds. -/
def State.atBoundary (s : State) (slot : Nat) : Bool :=
  let c := s.cluster slot
  c.running && !c.saving && !c.stopped && c.trapE.isNone && c.pause = 0 && !(s.mustHold slot)

/-- Does a step of one cluster where a condition holds. -/
def slotStep (row : String) (s : State) (ok : Nat → Bool) (f : Nat → State) : Host.Outcome State Fault Refusal :=
  match s.inp with
  | .slot b => if ok (slotNo b) then .next (f (slotNo b)) else notYet row
  | _ => notYet row

/-- Some result of a core is due in this cycle; those of vector operations and vector forms come once at a CSC value. -/
def Core.resultDue (c : Core) (landed : Bool) : Bool :=
  c.pipe.flights.any (fun f => f.left = 0) ||
    (!landed && (c.pipe.vops.any (fun v => v.lat ≤ v.age && v.age < v.lat + v.chunks) ||
      c.pipe.lsv.any (fun x => x.lat ≤ x.age && x.age < x.lat + x.chunks)))

/-- RESULT_COMPLETION: the results of a cluster that are due in this cycle complete into their ports and destinations (R30,
R31). The same completions happen within the cycle (BUNDLE_ISSUE) when they have not happened before it. -/
def execResultCompletion (s : State) : Host.Outcome State Fault Refusal :=
  slotStep "RESULT_COMPLETION" s
    (fun k => s.atBoundary k && (s.cluster k).cores.any (fun c => c.resultDue (s.cluster k).landed))
    (fun k => (s.eachCore k (fun t => t.resultsNow (s.cluster k).landed)).updCluster k (fun c =>
      { c with landed := true, lateIn := c.lateIn ++ c.raised, raised := [] }))

/-- XC_ARRIVAL: values of `xc` that are due arrive at their receivers; those for streams that do not run are
discarded (R178, R179). They are taken, or fault, in the cycle. -/
def execXcArrival (s : State) : Host.Outcome State Fault Refusal :=
  slotStep "XC_ARRIVAL" s (fun k => s.atBoundary k && (s.cluster k).xc.any (fun m => m.left = 0))
    (fun k => s.updCluster k (fun c => { c with xc := c.xc.filter (fun m => m.left ≠ 0 || c.live.contains m.dst) }))

/-- A trap was taken or began on a cluster between two states. -/
def trapped (s t : State) (k : Nat) : Bool :=
  let a := s.cluster k
  let b := t.cluster k
  (b.handler && !a.handler) || (b.toBoss.isSome && a.toBoss.isNone) || (b.trapE.isSome && !(b.raised.isEmpty))

/-- Takes the cycle of a boundary for one cluster where it does what a row says. -/
def boundaryStep (row : String) (s : State) (ok : Nat → State → Bool) : Host.Outcome State Fault Refusal :=
  match s.inp with
  | .slot b =>
    if s.atBoundary (slotNo b) then
      onNext (s.boundary (slotNo b)) (fun t => if ok (slotNo b) t then .next t else notYet row)
    else notYet row
  | _ => notYet row

/-- TRAP_ENTRY: the trap of the current boundary, or the end of one whose replies have come (R300). -/
def execTrapEntry (s : State) : Host.Outcome State Fault Refusal :=
  match s.inp with
  | .slot b =>
    let k := slotNo b
    let c := s.cluster k
    if c.trapE.isSome then
      (if c.running && !c.saving && !c.stopped && s.allArrived (s.awaited k) then .next (s.takeTrap k) else notYet "TRAP_ENTRY")
    else boundaryStep "TRAP_ENTRY" s (fun k t => trapped s t k)
  | _ => notYet "TRAP_ENTRY"

/-- TIMER_FIRE: timers that are due fire at the boundary (R314). -/
def execTimerFire (s : State) : Host.Outcome State Fault Refusal :=
  boundaryStep "TIMER_FIRE" s (fun k t => trapped s t k && (t.cluster k).cores.zipIdx.any (fun p =>
    ((s.cluster k).core p.2).armed && !p.1.armed))

/-- HOLD_END: every cause of a hold has cleared; the cluster goes on in the next cycle at the same CSC value
(R24). -/
def execHoldEnd (s : State) : Host.Outcome State Fault Refusal :=
  match s.inp with
  | .slot b =>
    let k := slotNo b
    if s.atBoundary k && ((s.cluster k).stall || (s.cluster k).wait) then
      onNext (s.boundary k) (fun t =>
        if (t.cluster k).stall || (t.cluster k).wait then notYet "HOLD_END" else .next (s.updCluster k Cluster.holdOver))
    else notYet "HOLD_END"
  | _ => notYet "HOLD_END"

/-- CANARY_EXPIRY: a hold, or handler mode, has reached the Canary limit (R27, R296). -/
def execCanaryExpiry (s : State) : Host.Outcome State Fault Refusal :=
  slotStep "CANARY_EXPIRY" s (fun k => s.canaryDue k && !(s.cluster k).saving) (fun k => s.canary k)

/-! ## Engines -/

/-- The engines of a cluster stand still: no team runs, it is stopped or stalled, or its handler runs; a save lets running
commands go on (R23, R303, R310). -/
def Cluster.engFrozen (c : Cluster) : Bool :=
  !c.running || ((c.handler || c.stopped || c.trapE.isSome) && !c.saving) || c.stall

/-- A step that a function gives, if it gives one. -/
def ofOption (row : String) (o : Option State) : Host.Outcome State Fault Refusal :=
  match o with
  | some t => .next t
  | none => notYet row

/-- ENGINE_COMMAND_START: a queued command starts (R188, R237, R275), or a running Winze command goes on: it places its read
accesses, or, once their replies have come, its writes, or makes one access by itself (R322, step 5). -/
def execEngineCommandStart (s : State) : Host.Outcome State Fault Refusal :=
  match s.inp with
  | .engine slot core k pos =>
    let c := s.cluster slot.toNat
    let s1 := { s with cur := 8 * slot.toNat + core.toNat }
    let late (s : State) : State := s.updCluster slot.toNat (fun c => { c with lateIn := c.lateIn ++ c.raised, raised := [] })
    match (s1.me.engQ k)[pos]? with
    | none => notYet "ENGINE_COMMAND_START"
    | some m =>
      if k = .wz && m.el.isSome then
        (if c.engFrozen then notYet "ENGINE_COMMAND_START" else ofOption "ENGINE_COMMAND_START" (s1.wzAdvance pos))
      else if c.engFrozen || c.saving then notYet "ENGINE_COMMAND_START"
      else
        let first := match k with
          | .wz => (match s1.me.wzNext with | some p => p.1 = pos | none => false)
          | _ => pos = 0
        if !first || !(s1.mayStart k pos m c.wait) || (k ≠ .wz && !(s1.afterBuffers m)) then notYet "ENGINE_COMMAND_START"
        else if k ≠ .wz then .next (late (s1.startCmd k pos m 0))
        else if c.took.contains core.toNat then notYet "ENGINE_COMMAND_START"
        else if !(s1.me.needsEngine m) then .next (late (s1.wzFree c.wait))
        else if s1.wzWho slot.toNat c.wait = some core.toNat && c.freeEngine.isSome then
          .next (late (s1.wzHand slot.toNat c.wait))
        else notYet "ENGINE_COMMAND_START"
  | .part slot core pos write n =>
    if (s.cluster slot.toNat).engFrozen then notYet "ENGINE_COMMAND_START"
    else ofOption "ENGINE_COMMAND_START" (({ s with cur := 8 * slot.toNat + core.toNat } : State).wzPart pos write n)
  | _ => notYet "ENGINE_COMMAND_START"

/-- ENGINE_COMMAND_COMPLETE: a running command completes: its effects land, its record is written, its token
settles (R190, R238). -/
def execEngineCommandComplete (s : State) : Host.Outcome State Fault Refusal :=
  match s.inp with
  | .engine slot core k pos =>
    let c := s.cluster slot.toNat
    let s1 := { s with cur := 8 * slot.toNat + core.toNat }
    let late (s : State) : State := s.updCluster slot.toNat (fun c => { c with lateIn := c.lateIn ++ c.raised, raised := [] })
    if c.engFrozen then notYet "ENGINE_COMMAND_COMPLETE"
    else if k = .wz then
      match s1.wzComplete pos with
      | some t => .next t
      | none => notYet "ENGINE_COMMAND_COMPLETE"
    else
      match (s1.me.engQ k).head? with
      | some m => if pos = 0 && !c.saving && m.over && s1.written m then .next (late (s1.doneHead k)) else notYet "ENGINE_COMMAND_COMPLETE"
      | none => notYet "ENGINE_COMMAND_COMPLETE"
  | _ => notYet "ENGINE_COMMAND_COMPLETE"


end Sys2Proof.Machine
end

