-- ==== Sys2Proof/Machine/Image.lean ====
section
/-!
DEFINITION. Molvor images and their loading (spec/03 R101-R111, spec/16 R381, spec/11 R334).
-/
namespace Sys2Proof.Machine

open Sys2Proof

/-! ## Reading an image -/

/-- Reads a number of an image file at an offset from its start: none where the file is not readable. -/
def State.fileNum (s : State) (t : Team) (image off n : Nat) : Option Nat :=
  if s.vaOk t false (image + off) n then some (leNat ((s.vaRead t (image + off) n).2.map (·.1))) else none

/-- Reads bytes of an image file; bytes that are not readable give none. -/
def State.fileBytes (s : State) (t : Team) (image off n : Nat) : Option (List Byte) :=
  if s.vaOk t false (image + off) n then some ((s.vaRead t (image + off) n).2.map (·.1)) else none

/-- A section entry (R110). -/
structure Section where
  kind : Nat
  target : Nat
  off : Nat
  size : Nat
  load : Nat
  tags : Nat
  zero : Bool
  deriving DecidableEq, Repr

/-- The facts of an image (R109, R110). -/
structure Image where
  header : List Byte
  sections : List Section
  deriving DecidableEq, Repr

/-- A field of the header. -/
def Image.num (m : Image) (off n : Nat) : Nat := leNat ((m.header.drop off).take n)

def Image.cores (m : Image) : Nat := m.num 8 1
def Image.stages (m : Image) : Nat := m.num 9 1
def Image.key (m : Image) : U64 := BitVec.ofNat 64 (m.num 0x10 8)
def Image.entry (m : Image) (i : Nat) : Nat := m.num (0x18 + 4 * i) 4

/-- The section index and the bound that the header gives a window, 1 to 15. -/
def Image.win (m : Image) (n : Nat) : Nat × Nat := (m.num (0x38 + 8 * (n - 1)) 2, m.num (0x38 + 8 * (n - 1) + 4) 4)

/-- A section from its 48 bytes. -/
def sectionOf (d : List Byte) : Section :=
  let num (o n : Nat) : Nat := leNat ((d.drop o).take n)
  { kind := num 0 2, target := num 2 2, off := num 8 8, size := num 0x10 8, load := num 0x18 8, tags := num 0x20 8,
    zero := num 4 4 = 0 && num 0x28 8 = 0 }

/-- Reads the header and the section entries. -/
def State.readImage (s : State) (t : Team) (image : Nat) : Option Image :=
  match s.fileBytes t image 0 256 with
  | none => none
  | some h =>
    let n := leNat ((h.drop 0x0A).take 2)
    (s.fileBytes t image 256 (48 * n)).map (fun d =>
      { header := h, sections := (List.range n).map (fun i => sectionOf ((d.drop (48 * i)).take 48)) })

/-- The code section. -/
def Image.code (m : Image) : Section :=
  (m.sections.find? (fun x => x.kind = 1)).getD { kind := 1, target := 0, off := 0, size := 0, load := 0, tags := 0, zero := true }

/-- The contents of a section. -/
def State.sectBytes (s : State) (t : Team) (image : Nat) (x : Section) : Option (List Byte) := s.fileBytes t image x.off x.size

/-- The tag record of a section: one word per block (R110). -/
def State.sectTags (s : State) (t : Team) (image : Nat) (x : Section) : Option (List U64) :=
  (s.fileBytes t image x.tags (8 * (x.size / 64))).map (fun bs =>
    (List.range (x.size / 64)).map (fun i => BitVec.ofNat 64 (leNat ((bs.drop (8 * i)).take 8))))

/-- A relocation entry: address, kind, window, addend. -/
structure Reloc where
  addr : Nat
  kind : Nat
  win : Nat
  addend : U64
  deriving DecidableEq, Repr

/-- The relocations of a section of kind 5. -/
def relocsOf (bs : List Byte) : List Reloc :=
  (List.range (bs.length / 16)).map (fun i =>
    let num (o n : Nat) : Nat := leNat ((bs.drop (16 * i + o)).take n)
    { addr := num 0 4, kind := num 4 2, win := num 6 2, addend := BitVec.ofNat 64 (num 8 8) })

/-- The word of code at an address, from the bytes of the code section loaded at `load`. -/
def codeWord (load : Nat) (code : List Byte) (a : Nat) : U32 := BitVec.ofNat 32 (leNat ((code.drop (a - load)).take 4))

/-- The word at an address is a move with an immediate and two literals, which attach to it: they stand before it in its fetch
line, with E and bit 3 clear (R74, R82, R83). -/
def twoLiterals (load : Nat) (code : List Byte) (a : Nat) : Bool :=
  let w (k : Nat) : U32 := codeWord load code (a - k)
  a % 4 = 0 && 8 ≤ a % 64 && load + 8 ≤ a && a + 4 ≤ load + code.length && classOf (w 0) = 0 && bit (w 0) 8 &&
    (w 4).toNat % 16 = 3 && (w 8).toNat % 16 = 3

/-- A relocation that makes an image refused (R111). -/
def relocBad (m : Image) (code : List Byte) (r : Reloc) : Bool :=
  !(twoLiterals m.code.load code r.addr) || !(r.kind = 1 || r.kind = 2) || (r.kind = 1 && r.win ≠ 0) ||
    (r.kind = 2 && (r.win = 0 || 15 < r.win || (m.win r.win).1 = 0xFFFF))

/-- A section beyond its limits or with a field that has no meaning (R104, R110, R111); `gal` is the size of the
Gallery allocation. DESIGN CHOICE: the rules ask a window section for no alignment and no bound of LOAD, and the model asks for
those of the other kinds: whole blocks inside the 64 KiB of a window (log entry 50). -/
def sectBad (gal : Nat) (x : Section) : Bool :=
  !x.zero || x.kind = 0 || 5 < x.kind || x.size % (if x.kind = 5 then 16 else 64) ≠ 0 ||
  (match x.kind with
    | 1 => x.target ≠ 0 || 2 ^ 20 < x.load + x.size || x.load % 64 ≠ 0
    | 2 => 255 < x.target || 0x180000 < x.load + x.size || x.load % 64 ≠ 0
    | 3 => x.target ≠ 0 || gal < x.load + x.size || x.load % 64 ≠ 0
    | 4 => x.target = 0 || 15 < x.target || 65536 < x.load + x.size || x.load % 64 ≠ 0
    | _ => x.target ≠ 0 || x.tags ≠ 0)

/-- A window entry that makes an image refused (R111). -/
def winBad (m : Image) (n : Nat) : Bool :=
  let w := m.win n
  m.num (0x38 + 8 * (n - 1) + 2) 2 ≠ 0 ||
  (w.1 ≠ 0xFFFF && (match m.sections[w.1]? with
    | some x => x.kind ≠ 4 || x.target ≠ n || w.2 = 0 || 65536 < w.2 || x.size < w.2
    | none => true))

/-- The header of an image makes it refused (R111). -/
def headerBad (m : Image) : Bool :=
  m.num 0 4 ≠ 0x52564C4D || m.num 4 2 ≠ 1 || m.num 6 2 ≠ 1 || m.num 0x0C 4 ≠ 0 || m.num 0xC4 60 ≠ 0 ||
  (m.sections.filter (fun x => x.kind = 1)).length ≠ 1 ||
  (List.range 15).any (fun i => winBad m (i + 1)) ||
  (List.range 8).any (fun i =>
    if i < m.cores then m.entry i % 4 ≠ 0 || m.entry i < m.code.load || m.code.load + m.code.size < m.entry i + 4
    else m.entry i ≠ 0xFFFFFFFF)

/-- The relocations of an image. -/
def State.relocs (s : State) (t : Team) (image : Nat) (m : Image) : List Reloc :=
  (m.sections.filter (fun x => x.kind = 5)).flatMap (fun x => relocsOf ((s.sectBytes t image x).getD []))

/-- The image passes the checks of R111; a file that cannot be read whole does not. -/
def State.imageOk (s : State) (t : Team) (image gal : Nat) (m : Image) : Bool :=
  !(headerBad m) && !(m.sections.any (sectBad gal)) &&
  m.sections.all (fun x => (s.sectBytes t image x).isSome && (x.kind = 5 || (s.sectTags t image x).isSome)) &&
  (let code := (s.sectBytes t image m.code).getD []
   !((s.relocs t image m).any (relocBad m code)))

/-! ## Loading -/

/-- Replaces four bytes of a list. -/
def setWord (bs : List Byte) (at' : Nat) (w : U32) : List Byte := bs.take at' ++ leBytes 4 w.toNat ++ bs.drop (at' + 4)

/-- Re-encodes the literals and the SRC field of a move for a value (R106, R83, R84). -/
def patch (load : Nat) (code : List Byte) (a : Nat) (v : U64) : List Byte :=
  let l1 : BitVec 28 := bits v 11 28
  let l2 : BitVec 28 := (bits v 39 25).setWidth 28
  let w := codeWord load code a
  let low : BitVec 11 := bits v 0 11
  let w' : U32 := (w &&& 0xFFF001FF#32) ||| (low.setWidth 32 <<< 9)
  setWord (setWord (setWord code (a - load - 8) (l1 ++ 3#4)) (a - load - 4) (l2 ++ 3#4)) (a - load) w'

/-- Writes one block of a section with the descriptor and the software metadata of its tag word. -/
def State.loadBlock (s : State) (b : Nat) (bs : List Byte) (tag : U64) : State :=
  (s.writeLoc (.mem b) (bytesAt 0 bs) (some (tag.setWidth 16))).writeMeta (.mem b) (tag >>> (16 : Nat))

/-- Writes a section into device memory with its descriptors and software metadata. -/
def State.loadMem (s : State) (pa : Nat) (bs : List Byte) (tags : List U64) : State :=
  (tags.zipIdx).foldl (fun (s : State) (p : U64 × Nat) => s.loadBlock (pa / 64 + p.2) ((bs.drop (64 * p.2)).take 64) p.1) s

/-- Clears a range of device memory to zero bytes with descriptor 0x00FF. -/
def State.clearMem (s : State) (pa n : Nat) : State :=
  (List.range (n / 64)).foldl (fun s i => s.writeLoc (.mem (pa / 64 + i)) (bytesAt 0 (List.replicate 64 0#8)) (some 0x00FF#16)) s

/-- Writes the whole Gallery allocation of a launch: its sections, and elsewhere zero with descriptor 0x00FF
(R104). -/
def State.loadGallery (s : State) (base units : Nat) (secs : List (Nat × List Byte × List U64)) : State :=
  let lines := units * 1024
  let s := (List.range lines).foldl (fun s i =>
    s.writeLoc (.gal (base / 64 + i)) (bytesAt 0 (List.replicate 64 0#8)) (some 0x00FF#16)) s
  secs.foldl (fun s x => (x.2.2.zipIdx).foldl (fun (s : State) (p : U64 × Nat) =>
    s.writeLoc (.gal ((base + x.1) / 64 + p.2)) (bytesAt 0 ((x.2.1.drop (64 * p.2)).take 64)) (some (p.1.setWidth 16))) s) s

/-- The 512 bytes of a launch block (R381). -/
def launchBlock (t : Team) (args arglen : Nat) (entries : List U32) (wins : List (U64 × Nat)) : List Byte :=
  leBytes 8 t.code ++ leBytes 4 t.codeSize ++ leBytes 1 t.cores ++ leBytes 1 t.stages ++ leBytes 2 0 ++
  leBytes 4 t.teams ++ leBytes 4 arglen ++ leBytes 8 args ++ entries.flatMap (fun e => leBytes 4 e.toNat) ++
  leBytes 8 t.sqBase ++ leBytes 8 0 ++ wins.flatMap (fun w => leBytes 8 w.1.toNat ++ leBytes 4 w.2 ++ leBytes 4 0) ++
  List.replicate 192 0#8

end Sys2Proof.Machine
end

