-- ==== Sys2Proof/Machine/Boss.lean ====
section
/-!
DEFINITION. The host registers and launches from submission to completion (spec/16 R370-R377, spec/17 R385,
R389, R390, R393, spec/20 R415).
-/
namespace Sys2Proof.Machine

open Sys2Proof

/-! ## Queues and registers (R370, R371, R385) -/

/-- Ready is set: registers are written and launches taken (R415). -/
def State.isReady (s : State) : Bool := s.host.status.getLsbD 0

/-- A launch queue, if it exists. -/
def State.queue (s : State) (q : Nat) : Option LQueue := slook s.host.queues q

/-- Changes a launch queue. -/
def State.updQueue (s : State) (q : Nat) (f : LQueue → LQueue) : State :=
  { s with host := { s.host with queues := smod f q s.host.queues } }

/-- A size of a ring: a power of two from 16 to 4,096 (R370). -/
def ringSize (n : Nat) : Bool := (List.range 9).any (fun i => n = 2 ^ (i + 4))

/-- Where a ring in device memory may lie. -/
def ringPlace (dev : Bool) (a : U64) (bytes : Nat) : Bool :=
  a.toNat % 64 = 0 && (!dev || ((memNode a.toNat).isSome && (memNode (a.toNat + bytes - 1)) = memNode a.toNat))

/-- The parameters of a queue are within their limits (R370). -/
def queueParamsOk (p : QueueParams) : Bool :=
  ringSize p.entries && ringSize p.centries && ringPlace p.dev p.ring (64 * p.entries) &&
    ringPlace p.cdev p.cring (32 * p.centries)

/-- QUEUE_CREATE: the driver creates a queue that does not exist yet (R370). -/
def execQueueCreate (s : State) : Host.Outcome State Fault Refusal :=
  match s.inp with
  | .queueNew q p =>
    if queueParamsOk p && (s.queue q.toNat).isNone then
      .next { s with host := { s.host with queues := sins q.toNat { par := p } s.host.queues } }
    else notYet "QUEUE_CREATE"
  | _ => notYet "QUEUE_CREATE"

/-- QUEUE_DESTROY: the driver destroys a queue with no launch in progress and no record waiting; its pending kills
end with it (R390). -/
def execQueueDestroy (s : State) : Host.Outcome State Fault Refusal :=
  match s.inp with
  | .queue q =>
    match s.queue q.toNat with
    | some x =>
      if x.waiting.isEmpty && !(s.boss.launches.any (fun l => l.queue = q.toNat)) then
        .next { s with host := { s.host with
          queues := sdel q.toNat s.host.queues, kills := s.host.kills.filter (fun k => k.1 ≠ q.toNat) } }
      else notYet "QUEUE_DESTROY"
    | none => notYet "QUEUE_DESTROY"
  | _ => notYet "QUEUE_DESTROY"

/-- A write to the doorbell of a queue (R371): TAIL and CHEAD, modulo the sizes of their rings. One in the cycle at which
ready is set is ignored (R415). -/
def State.writeDoorbell (s : State) (q : Nat) (v : U64) : State :=
  if !s.isReady || s.board.readyAt = some s.dcc then s
  else s.updQueue q (fun x => { x with
    tail := BitVec.ofNat 16 (field v.toNat 0 16 % x.par.entries), chead := BitVec.ofNat 16 (field v.toNat 32 16 % x.par.centries) })

/-- DOORBELL_WRITE (R371, R415). -/
def execDoorbellWrite (s : State) : Host.Outcome State Fault Refusal :=
  match s.inp with
  | .write q v => .next (s.writeDoorbell q.toNat v)
  | _ => notYet "DOORBELL_WRITE"

/-- A write to INJECT (R393); it is accepted before ready as well (R415). -/
def State.writeInject (s : State) (v : U64) : State :=
  { s with host := { s.host with inject := v &&& 0x80000007FFFFFFFF#64, armedAt := s.dcc } }

/-- INJECT_WRITE (R393). -/
def execInjectWrite (s : State) : Host.Outcome State Fault Refusal :=
  match s.inp with
  | .reg _ v => .next (s.writeInject v)
  | _ => notYet "INJECT_WRITE"

/-- A write to KILLACK: the pending kill of the pair ends (R390). -/
def State.writeKillack (s : State) (v : U64) : State :=
  if !s.isReady then s
  else
    let k := (field v.toNat 16 4, field v.toNat 0 16)
    { s with host := { s.host with kills := s.host.kills.filter (fun x => x ≠ k) } }

/-- KILLACK_WRITE (R385, R390). -/
def execKillackWrite (s : State) : Host.Outcome State Fault Refusal :=
  match s.inp with
  | .reg _ v => .next (s.writeKillack v)
  | _ => notYet "KILLACK_WRITE"

/-- A read of BAR0 (R385, R371, R415): registers that the table does not list, and every register but STATUS before
ready, read as zero. -/
def State.readBar0 (s : State) (off : Nat) : U64 :=
  if off = 0 then s.host.status
  else if !s.isReady then 0#64
  else if 0x1000 ≤ off && off < 0x1080 && off % 8 = 0 then
    match s.queue ((off - 0x1000) / 8) with
    | some x => BitVec.ofNat 64 (x.tail.toNat + x.head.toNat * 2 ^ 16 + x.chead.toNat * 2 ^ 32)
    | none => 0#64
  else if off = 0x2000 then s.host.prqHead.setWidth 64
  else if off = 0x2008 then s.host.prqTail.setWidth 64
  else if off = 0x2010 then s.host.rpqTail.setWidth 64
  else if off = 0x2018 then s.host.rpqHead.setWidth 64
  else if off = 0x2020 then s.host.stale
  else if off = 0x2100 then s.host.inject
  else 0#64

/-! ## Launches -/

/-- A queued completion record of a launch or of a refused entry (R375). -/
def State.record (s : State) (r : Completion) : State := s.updQueue r.queue (fun x => { x with waiting := x.waiting ++ [r] })

/-- A completion record in its layout (R375). -/
def Completion.bytes (r : Completion) : List Byte :=
  leBytes 8 r.tag.toNat ++ leBytes 1 r.status ++ leBytes 1 r.queue ++ leBytes 2 r.index ++ leBytes 4 r.cause.toNat ++
    leBytes 4 r.team.toNat ++ leBytes 4 r.late.toNat ++ leBytes 8 r.dcc.toNat

/-- The completion ring has room: it holds fewer than CENTRIES − 1 unread records (R371). -/
def LQueue.room (x : LQueue) : Bool :=
  (x.ctail.toNat + x.par.centries - x.chead.toNat) % x.par.centries < x.par.centries - 1

/-- Writes bytes at a physical address that the device itself uses; descriptors stay but for whole blocks. -/
def State.physWrite (s : State) (pa : Nat) (bs : List Byte) : State :=
  ((splitLines pa bs.length).foldl (fun p q =>
    (p.1.engineWrite 0#4 (.mem q.1) (bytesAt q.2.1 (p.2.take q.2.2)) (some 0x00FF#16), p.2.drop q.2.2)) (s, bs)).1

/-- Writes the first waiting completion record of a queue, then signals VEC (R371, R375). -/
def State.writeRecord (s : State) (q : Nat) : State :=
  match s.queue q with
  | none => s
  | some x =>
    match x.waiting with
    | [] => s
    | r :: rest =>
      let at' := x.ctail.toNat
      let s := if x.par.cdev then s.physWrite (x.par.cring.toNat + 32 * at') r.bytes else s
      let s := s.updQueue q (fun x => { x with waiting := rest, ctail := BitVec.ofNat 16 ((at' + 1) % x.par.centries) })
      { s with host := { s.host with written := s.host.written ++ [r], msi := s.host.msi ++ [x.par.vec.toNat] } }

/-- A record of a queue can be written now. -/
def State.recordDue (s : State) (q : Nat) : Bool :=
  match s.queue q with
  | some x => !(x.waiting.isEmpty) && x.room
  | none => false

/-- COMPLETION_RECORD_WRITE (R371, R375). -/
def execCompletionRecordWrite (s : State) : Host.Outcome State Fault Refusal :=
  match s.inp with
  | .queue q => if s.recordDue q.toNat then .next (s.writeRecord q.toNat) else notYet "COMPLETION_RECORD_WRITE"
  | _ => notYet "COMPLETION_RECORD_WRITE"

/-- Notes the entry into the waiting set of launches that have become eligible since an earlier state (R374, R378). -/
def State.refresh (s old : State) : State :=
  let upd (l : Launch) : Launch :=
    if s.eligible l && !(old.boss.launches.any (fun o => o.id = l.id && old.eligible o)) then { l with since := s.dcc.toNat } else l
  { s with boss := { s.boss with launches := s.boss.launches.map upd } }

/-- The report area of a launch (R376). -/
def State.reportArea (s : State) (l : Launch) (status : Nat) : State :=
  let frames := if status = 2 && l.frames.length = 8 then l.frames.flatten else List.replicate 512 0#8
  let data := frames ++ maskBytes l.info.teams l.retired
  if l.report = 0#64 || !(s.vaOk l.info true l.report.toNat data.length) then s
  else s.vaWrite l.info l.report.toNat data (fun _ => 0x00FF#16)

/-- Ends a launch (R16, R375, R376, R382, R389): the report, the record, and what the launch held. -/
def State.endLaunch (s : State) (l : Launch) (status : Nat) : State :=
  let old := s
  let s := if status = 1 || status = 2 then s.reportArea l status else s
  let s := s.record
    { tag := l.tag, status := status, queue := l.queue, index := l.index
      cause := if status = 2 then l.cause else 0#32
      team := if status = 2 then BitVec.ofNat 32 (l.deadTeam.getD 0xFFFFFFFF) else 0xFFFFFFFF#32
      late := BitVec.ofNat 32 (min l.late 0xFFFFFFFF), dcc := s.dcc }
  let s := { s with
    pages := s.pages.filter (fun p => p.launch ≠ l.id)
    rings := s.rings.filter (fun r => r.launch ≠ l.id)
    boss := { s.boss with
      launches := s.boss.launches.filter (fun x => x.id ≠ l.id)
      saved := s.boss.saved.filter (fun x => x.launch ≠ l.id)
      migrating := s.boss.migrating.filter (fun m => m.1 ≠ l.id) } }
  s.refresh old

/-- Ends a launch whose teams have all retired, or that is to end and has no team bound (R375, R377, R382, R383). -/
def State.settleLaunch (s : State) (id : Nat) : State :=
  match s.launchOf id with
  | none => s
  | some l =>
    if l.info.teams ≤ l.retired.length then s.endLaunch l 0
    else
      match l.dead with
      | some st => if (s.slotsOf id).isEmpty then s.endLaunch l st else s
      | none => s

/-- Takes a team off its cluster with all that waits for it. -/
def State.discard (s : State) (slot : Nat) : State :=
  let ids := (s.cluster slot).cores.flatMap Core.owned
  let s := s.dropReplies ids
  ({ s with
    acc := s.acc.filter (fun a => a.slot ≠ slot)
    links := { s.links with sent := s.links.sent.filter (fun r => r.slot ≠ slot) }
    clusters := sdel slot s.clusters } : State).setSlot slot 0

/-- Reports the retirement of the team in a slot: the slot is freed, and the last team ends its launch (R15, R382). -/
def State.retireTeam (s : State) (slot : Nat) : State :=
  let id := (s.cluster slot).info.launch
  let team := (s.cluster slot).info.team
  ((s.discard slot).updLaunch id (fun l => { l with retired := l.retired ++ [team] })).settleLaunch id

/-- Marks a launch as ending with a status: its bound teams are stopped, one that is held when its hold ends (R24,
R377), one whose trap waits for its replies after that trap (R384); its other teams are dropped. A team that had retired
before has done so (R15, R384). -/
def State.doom (s : State) (id status : Nat) (f : Launch → Launch) : State :=
  let old := s
  let s := ((s.slotsOf id).filter s.retires).foldl State.retireTeam s
  let s := s.updLaunch id (fun l => f { l with dead := some status })
  let s := { s with boss := { s.boss with saved := s.boss.saved.filter (fun x => x.launch ≠ id) } }
  let s := (s.slotsOf id).foldl (fun s k => if (s.cluster k).inHold || (s.cluster k).trapE.isSome then s else s.haltTeam k) s
  (s.settleLaunch id).refresh old

/-- The fault of a bound team that ends its launch with a fault status once its save is over (R308): every class
that goes to Shiftboss but BREAK, LINK_LOST and the first CANARY at its cycle. -/
def Cluster.fatal (c : Cluster) : Bool :=
  match c.toBoss with
  | some x => if x.cls = 9 then c.canaryAt = some c.csc else x.cls ≠ 12 && x.cls ≠ 7
  | none => false

/-- What a fault of a team leaves in its launch for the record and the report (R375, R376). -/
def Cluster.blame (c : Cluster) (l : Launch) : Launch :=
  { l with cause := c.cause, deadTeam := some c.info.team, frames := c.frames }

/-- A write to the kill register of a queue (R377, R390). A launch with a fault that has gone to Shiftboss already ends
with that fault (R384). -/
def State.writeKill (s : State) (q : Nat) (v : U64) : State :=
  if !s.isReady || !(v.getLsbD 16) then s
  else
    let idx := field v.toNat 0 16 % ((s.queue q).map (fun x => x.par.entries)).getD 1
    match s.boss.launches.find? (fun l => l.queue = q && l.index = idx) with
    | none => s
    | some l =>
      let s := { s with
        pages := s.pages.filter (fun p => p.launch ≠ l.id)
        host := { s.host with kills := if s.host.kills.contains (q, idx) then s.host.kills else s.host.kills ++ [(q, idx)] } }
      if l.dead.isSome && l.dead ≠ some 1 then s
      else
        match (s.clusters.filter (fun p => p.2.info.launch = l.id)).find? (fun p => p.2.fatal) with
        | some p => s.doom l.id 2 p.2.blame
        | none => s.doom l.id 8 id

/-- KILL_WRITE (R371, R377, R390). -/
def execKillWrite (s : State) : Host.Outcome State Fault Refusal :=
  match s.inp with
  | .write q v => .next (s.writeKill q.toNat v)
  | _ => notYet "KILL_WRITE"

/-- An index into a ring of the page-service queue, as the host writes it: modulo the size of the ring, once it is set up
(R386). -/
def ringIndex (v : U64) (entries : Nat) : U32 := BitVec.ofNat 32 ((v.setWidth 32 : U32).toNat % entries)

/-- BAR0_REGISTER_WRITE: a write at an offset of BAR0 (R385, R371, R415). -/
def execBar0RegisterWrite (s : State) : Host.Outcome State Fault Refusal :=
  match s.inp with
  | .reg off v =>
    let o := off.toNat
    if o = 0x2100 then .next (s.writeInject v)
    else if !s.isReady then .next s
    else if 0x1000 ≤ o && o < 0x1080 && o % 8 = 0 then .next (s.writeDoorbell ((o - 0x1000) / 8) v)
    else if 0x1100 ≤ o && o < 0x1180 && o % 8 = 0 then .next (s.writeKill ((o - 0x1100) / 8) v)
    else if o = 0x2000 then .next { s with host := { s.host with prqHead := ringIndex v s.host.service.reqEntries } }
    else if o = 0x2010 then .next { s with host := { s.host with rpqTail := ringIndex v s.host.service.repEntries } }
    else if o = 0x2028 then .next (s.writeKillack v)
    else .next s
  | _ => notYet "BAR0_REGISTER_WRITE"

/-! ## Acceptance (R373) -/

/-- A field of a submission entry: offset and size in bytes (R372). -/
def entField (e : BitVec 512) (off n : Nat) : Nat := field e.toNat (8 * off) (8 * n)

/-- The Gallery ranges in use, in 64 KiB units: base and size. -/
def State.galUsed (s : State) : List (Nat × Nat) := s.boss.launches.map (fun l => (l.info.gbase / 65536, l.galUnits))

/-- A range of the package's Gallery is free; a range of no units takes no room. -/
def galFree (used : List (Nat × Nat)) (base n : Nat) : Bool :=
  base + n ≤ 6144 && (n = 0 || used.all (fun u => u.2 = 0 || base + n ≤ u.1 || u.1 + u.2 ≤ base))

/-- A range lies on one die. -/
def oneDie (base n : Nat) : Bool := base + n ≤ 3072 || 3072 ≤ base

/-- A free range of a size exists, on one die where asked. -/
def galFits (used : List (Nat × Nat)) (n : Nat) (die : Bool) : Bool :=
  (0 :: 3072 :: used.map (fun u => u.1 + u.2)).any (fun b => galFree used b n && (!die || oneDie b n))

/-- The number of clusters in service (R380). -/
def State.inService (s : State) : Nat := 64 - (s.boss.slots.filter (fun p => p.2 = 3)).length

/-- The Gallery units that a launch needs, its stage queues included (R373). -/
def galNeed (e : BitVec 512) (stages : Nat) : Nat :=
  entField e 0x38 2 + if 1 < stages then ceilDiv (entField e 0x14 4 * entField e 0x3A 2) 64 else 0

/-- An entry is a mapped leaf. -/
def isLeaf (e : U64) (level : Nat) : Bool := e.getLsbD 0 && e.getLsbD 1 && 1 ≤ level && level ≤ 3

/-- Entries of the table of a level (R362). -/
def tableSize (level : Nat) : Nat := if level = 0 then 16384 else if level = 1 then 8192 else if level = 2 then 512 else 32

/-- The entries of a table that are not zero. -/
def State.tableWords (s : State) (level table : Nat) : List U64 :=
  (((sslice s.dram.mem.data table (table + 8 * tableSize level)).map (fun p => p.1 / 8)).eraseDups).map (fun i => s.physWord (table + 8 * i))

/-- The tables at and beneath an entry that is no leaf: physical address and size. -/
def State.tablesUnder (s : State) : Nat → Nat → U64 → List (Nat × Nat)
  | 0, _, _ => []
  | n + 1, level, e =>
    if !(e.getLsbD 0) || e.getLsbD 1 || s.badEntry e level then []
    else (entryAddr e, 8 * tableSize (level + 1)) :: (s.tableWords (level + 1) (entryAddr e)).flatMap (s.tablesUnder n (level + 1))

/-- The tables of the page table with a root. -/
def State.tablesOf (s : State) (root : Nat) : List (Nat × Nat) :=
  (root, 8 * tableSize 0) :: (s.tableWords 0 root).flatMap (s.tablesUnder 3 0)

/-- A table lies on frames of grade 1 (R356). -/
def State.onGradeOne (s : State) (r : Nat × Nat) : Bool := s.gradeOf r.1 = 1 && s.gradeOf (r.1 + r.2 - 1) = 1

/-- The status with which an entry is refused, if it is; the image is given where it can be read (R373). DESIGN CHOICE: a
page table with a table on frames that are not of grade 1 (R356) is BAD_ENTRY (log entry 76). -/
def State.refusal (s : State) (e : BitVec 512) (img : Option Image) : Option Nat :=
  let pt := entField e 0x20 8
  let flags := entField e 0x3C 2
  let gsize := entField e 0x3E 2
  let coop := bitAt flags 0
  if flags / 4 ≠ 0 || pt % 131072 ≠ 0 || (memNode pt).isNone || !(s.gradesAre pt 17 1) || !((s.tablesOf pt).all s.onGradeOne) ||
      gsize = 0 || (1 < gsize && !coop) then some 3
  else
    match img with
    | none => some 4
    | some m =>
      let t := entField e 0x14 4
      let sq := entField e 0x3A 2
      let need := galNeed e m.stages
      if t = 0 || 65536 < t || m.stages = 0 || 16 < m.stages || t % m.stages ≠ 0 || m.cores = 0 || 8 < m.cores ||
        (if m.stages = 1 then sq ≠ 0 else sq < 4 || 1024 < sq) then some 3
      else if !(galFits s.galUsed need false) then some 5
      else if coop && s.inService < t then some 6
      else if !(s.host.status.getLsbD 2) then some 7
      else none

/-- Physical memory that may hold what the loader places for a launch, in whole 64 KiB frames of grade 1. -/
def State.loadSpace (s : State) (pa n : Nat) : Bool :=
  pa % 65536 = 0 && (memNode pa).isSome && memNode (pa + max n 1 - 1) = memNode pa && !(bossMem pa 1) && !(bossMem (pa + max n 1 - 1) 1) &&
    (sslice s.dram.grade (pa / 65536) ((pa + n + 65535) / 65536)).isEmpty

/-- Two ranges do not meet. -/
def apart (a b : Nat × Nat) : Bool := a.1 + a.2 ≤ b.1 || b.1 + b.2 ≤ a.1

/-- No two ranges of a list meet. -/
def allApart : List (Nat × Nat) → Bool
  | [] => true
  | r :: rs => rs.all (apart r) && allApart rs

/-- The frames that the loader has placed for the launches in progress. -/
def State.placedFrames (s : State) : List (Nat × Nat) :=
  s.boss.launches.flatMap (fun l => l.info.maps.map (fun p => (entryAddr p.2, 65536)))

/-- The window sections of an image: window, section, bound. -/
def Image.windows (m : Image) : List (Nat × Section × Nat) :=
  (List.range 15).filterMap (fun i => (m.sections[(m.win (i + 1)).1]?).map (fun x => (i + 1, x, (m.win (i + 1)).2)))

/-- Bytes of memory that the code copy takes. -/
def Image.codeEnd (m : Image) : Nat := m.code.load + m.code.size

/-- A plan places a launch where the spec lets Shiftboss place it (R373, R381, R334, R104). -/
def State.planOk (s : State) (e : BitVec 512) (m : Image) (p : LoadPlan) : Bool :=
  let need := galNeed e m.stages
  let ws := m.windows
  let ranges := (p.code, ceilDiv m.codeEnd 65536 * 65536) :: p.wins.map (fun w => (w.2, 65536))
  galFree s.galUsed p.gbase need && (oneDie p.gbase need || !(galFits s.galUsed need true)) &&
  p.lblk % 512 = 0 && bossMem p.lblk 512 && !(s.boss.launches.any (fun l => l.lblk = p.lblk)) &&
  p.wins.length = ws.length &&
  ranges.all (fun r => s.loadSpace r.1 r.2) && allApart ranges && s.placedFrames.all (fun f => ranges.all (apart f)) &&
  p.wins.all (fun w => w.1.toNat % 65536 = 0 && w.1.toNat < 0x1FFFFFFFFF00000) &&
  allApart (p.wins.map (fun w => (w.1.toNat, 65536)))

/-- The code section of an image with its relocations resolved (R106). -/
def State.codeOf (s : State) (t : Team) (image : Nat) (m : Image) (gbase : Nat) (wins : Store (U64 × Nat)) : List Byte :=
  let load := m.code.load
  (s.relocs t image m).foldl (fun bs r =>
    let base := if r.kind = 1 then BitVec.ofNat 64 gbase else ((slook wins r.win).map (·.1)).getD 0#64
    patch load bs r.addr (base + r.addend)) ((s.sectBytes t image m.code).getD [])

/-- Loads an accepted launch and adds it to the launches in progress (R104, R106, R334, R373, R381). -/
def State.accept (s : State) (q idx prio : Nat) (e : BitVec 512) (m : Image) (p : LoadPlan) : State :=
  let old := s
  let rd : Team := { ptroot := entField e 0x20 8 }
  let image := entField e 0 8
  let bound := (m.windows.zip p.wins).map (fun x => (x.1.1, (x.2.1, x.1.2.2)))
  let gbase := p.gbase * 65536
  let gsize := entField e 0x38 2 * 65536
  let code := s.codeOf rd image m gbase bound
  let args := entField e 0x08 8
  let arglen := entField e 0x10 4
  let maps := ((List.range (ceilDiv m.codeEnd 65536)).map (fun i => (codeVpn + i, ownLeaf (p.code / 65536 + i)))) ++
    p.wins.map (fun w => (w.1.toNat / 65536, ownLeaf (w.2 / 65536)))
  let info : Team :=
    { launch := s.boss.nextId, team := 0, teams := entField e 0x14 4, stages := m.stages, cores := m.cores
      ptroot := entField e 0x20 8, code := p.code, codeSize := m.codeEnd, gbase := gbase, gsize := gsize
      sqBase := if m.stages = 1 then 0 else gbase + gsize, sqCap := entField e 0x3A 2
      key := if bitAt (entField e 0x3C 2) 1 then BitVec.ofNat 64 (entField e 0x18 8) else m.key
      wins := (0, (BitVec.ofNat 64 args, min arglen 65536)) :: bound, maps := maps }
  let tags (x : Section) : List U64 := (s.sectTags rd image x).getD []
  let bytes (x : Section) : List Byte := (s.sectBytes rd image x).getD []
  let locals := (m.sections.filter (fun x => x.kind = 2)).map (fun x =>
    (BitVec.ofNat 8 x.target, x.load, bytes x, (tags x).map (fun t => t.setWidth 16)))
  let gals := (m.sections.filter (fun x => x.kind = 3)).map (fun x => (x.load, bytes x, tags x))
  let wins := (m.windows.zip p.wins).map (fun x => (x.2.2 + x.1.2.1.load, bytes x.1.2.1, tags x.1.2.1))
  let entries := (List.range 8).map (fun i => BitVec.ofNat 32 (m.entry i))
  let blk := launchBlock { info with codeSize := m.code.size } args arglen entries
    ((List.range 15).map (fun i => (slook bound (i + 1)).getD (0#64, 0)))
  let codeTags := tags m.code
  let s := s.loadGallery gbase (galNeed e m.stages) gals
  let s := s.clearMem p.code (ceilDiv m.codeEnd 65536 * 65536)
  let s := s.loadMem (p.code + m.code.load) code codeTags
  let s := p.wins.foldl (fun s w => s.clearMem w.2 65536) s
  let s := wins.foldl (fun s w => s.loadMem w.1 w.2.1 w.2.2) s
  let s := s.physWrite p.lblk blk
  let l : Launch :=
    { id := info.launch, queue := q, index := idx, prio := prio, tag := BitVec.ofNat 64 (entField e 0x30 8)
      coop := bitAt (entField e 0x3C 2) 0, gsize := entField e 0x3E 2, report := BitVec.ofNat 64 (entField e 0x28 8)
      info := info, args := BitVec.ofNat 64 args, arglen := arglen, entries := entries, locals := locals
      lblk := p.lblk, galUnits := galNeed e m.stages, taken := s.dcc.toNat, since := s.dcc.toNat
      pri := (sget (false, 0#20) s.host.pri q).1, pasid := (sget (false, 0#20) s.host.pri q).2 }
  ({ s with boss := { s.boss with nextId := s.boss.nextId + 1, launches := s.boss.launches ++ [l] } } : State).refresh old

/-- The image of an entry, if it passes the checks of R111. -/
def State.imageOf (s : State) (e : BitVec 512) : Option Image :=
  let t : Team := { ptroot := entField e 0x20 8 }
  let image := entField e 0 8
  match s.readImage t image with
  | some m => if s.imageOk t image (entField e 0x38 2 * 65536) m then some m else none
  | none => none

/-- The entry that Shiftboss takes: from the ring in device memory, or as the host's memory gives it. -/
def State.entryOf (s : State) (x : LQueue) (given : BitVec 512) : BitVec 512 :=
  if x.par.dev then BitVec.ofNat 512 (leNat (s.dram.mem.bytes (x.par.ring.toNat + 64 * x.head.toNat) 64)) else given

/-- A submitted entry can be taken: ready, TAIL not reached, no pending kill at its index (R371, R390). -/
def State.canTake (s : State) (q : Nat) (x : LQueue) : Bool :=
  s.isReady && x.head ≠ x.tail && !(s.host.kills.contains (q, x.head.toNat))

/-- SUBMISSION_TAKE: Shiftboss takes the entry at HEAD, and refuses it or accepts and loads it (R371, R373). -/
def execSubmissionTake (s : State) : Host.Outcome State Fault Refusal :=
  match s.inp with
  | .submit q given plan =>
    match s.queue q.toNat with
    | none => notYet "SUBMISSION_TAKE"
    | some x =>
      if !(s.canTake q.toNat x) then notYet "SUBMISSION_TAKE"
      else
        let s := if x.par.dev then s.met (.mem ((x.par.ring.toNat + 64 * x.head.toNat) / 64)) else s
        let e := s.entryOf x given
        let img := s.imageOf e
        let idx := x.head.toNat
        let t := s.updQueue q.toNat (fun x => { x with head := BitVec.ofNat 16 ((idx + 1) % x.par.entries) })
        match s.refusal e img, img with
        | some st, _ =>
          let t := t.record { tag := BitVec.ofNat 64 (entField e 0x30 8), status := st, queue := q.toNat, index := idx, cause := 0#32,
                              team := 0xFFFFFFFF#32, late := 0#32, dcc := s.dcc }
          .next (if t.recordDue q.toNat then t.writeRecord q.toNat else t)
        | none, some m => if s.planOk e m plan then .next (t.accept q.toNat idx x.par.prio.toNat e m plan) else notYet "SUBMISSION_TAKE"
        | none, none => notYet "SUBMISSION_TAKE"
  | _ => notYet "SUBMISSION_TAKE"

end Sys2Proof.Machine
end

