-- ==== Sys2Proof/Machine/Sched.lean ====
section
/-!
DEFINITION. Shiftboss: the waiting set, binding, starting, slices, saves and retirement (spec/16 R374, R377-R384,
spec/10 R308-R312, spec/01 R14, R15, R20, R33, R34).
-/
namespace Sys2Proof.Machine

open Sys2Proof

/-! ## Binding (R34, R312, R380-R382) -/

/-- A core of a fresh team (R14, R33, R34, R104). -/
def freshCore (l : Launch) (team i : Nat) : Core :=
  let t := l.info
  let on := i < t.cores
  let c : Core := { ctl := { started := on, halted := !on, pc := (l.entries.getD i 0#32).setWidth 20 }, key := t.key }
  let c := { c with units := { c.units with conv := seeds t.key i } }
  let c := l.locals.foldl (fun (c : Core) x =>
    if x.1.getLsbD i then
      { c with scratch := (x.2.2.2.zipIdx).foldl (fun m p => m.wrTag dtOn (x.2.1 + 64 * p.2) p.1) (c.scratch.wrs x.2.1 x.2.2.1) }
    else c) c
  if on then
    (((((c.setReg (kS 1) (BitVec.ofNat 64 team)).setReg (kS 2) (BitVec.ofNat 64 i)).setReg (kS 3) (BitVec.ofNat 64 (team % t.stages))).setReg
      (kS 4) (BitVec.ofNat 64 t.teams)).setReg (kS 5) (BitVec.ofNat 64 (team / t.stages))).setReg (kA 1) l.args
  else c

/-- The cluster of a fresh team. -/
def freshCluster (l : Launch) (team : Nat) : Cluster :=
  { info := { l.info with team := team }, cores := (List.range 8).map (freshCore l team) }

/-- Instruction memory as dispatch loads it from the code copy (R34, R334, R382). -/
def State.loadCode (s : State) (t : Team) : Store Byte :=
  (List.range (t.codeSpan / 65536)).flatMap (fun i =>
    match t.codePage i with
    | some b => (sslice s.dram.mem.data b (b + min 65536 (t.codeSize - 65536 * i))).map (fun p => (65536 * i + p.1, p.2))
    | none => [])

/-- The descriptor tags of instruction memory as dispatch loads them (R50, R382). -/
def State.loadCodeTags (s : State) (t : Team) : Store U16 :=
  (List.range (t.codeSpan / 65536)).flatMap (fun i =>
    match t.codePage i with
    | some b => (sslice s.dram.mem.tags (b / 64) (b / 64 + ceilDiv (min 65536 (t.codeSize - 65536 * i)) 64)).map (fun p => (1024 * i + p.1, p.2))
    | none => [])

/-- The bind record that Shiftboss writes for a team (R380); CTX is where its context lies, 0 for a fresh team. -/
def Launch.bindRec (l : Launch) (team : Nat) (csc : U64) (resume : Bool) (ctx start : U64) : BindRec :=
  { queue := l.queue, resume := resume, coop := l.coop, team := team, csc := csc, ptroot := l.info.ptroot, lblk := l.lblk, ctx := ctx
    gbase := l.info.gbase / 65536, galsz := l.info.gsize / 65536, sqcap := l.info.sqCap, start := start, key := l.info.key }

/-- The 64 bytes of the record of a slot (R380). -/
def State.slotRecord (s : State) (slot : Nat) : List Byte :=
  let head := leBytes 1 (sget 0 s.boss.slots slot) ++ leBytes 1 (sget 0xFF#8 s.boss.spare slot).toNat
  match slook s.boss.binds slot with
  | none => head ++ List.replicate 62 0#8
  | some r =>
    head ++ leBytes 1 r.queue ++ leBytes 1 ((if r.resume then 1 else 0) + if r.coop then 2 else 0) ++ leBytes 4 r.team ++ leBytes 8 r.csc.toNat ++
      leBytes 8 r.ptroot ++ leBytes 8 r.lblk ++ leBytes 8 r.ctx.toNat ++ leBytes 4 r.gbase ++ leBytes 2 r.galsz ++ leBytes 2 r.sqcap ++
      leBytes 8 r.start.toNat ++ leBytes 8 r.key.toNat

/-- Puts a team into a slot by its bind record: bound, not started. -/
def State.place (s : State) (slot : Nat) (c : Cluster) (r : BindRec) : State :=
  let c := { c with
    imem := s.loadCode c.info, imemTag := s.loadCodeTags c.info, running := false, start := r.start
    lastSlice := if r.start = 0#64 then s.dcc.toNat else r.start.toNat }
  ({ s with
    clusters := sins slot c s.clusters
    boss := { s.boss with binds := sins slot r (sdel slot s.boss.binds) } } : State).setSlot slot 1

/-- What is left of a launch's claims when a team of it takes a slot: none when it was the last that waits. -/
def State.claimsAfter (s : State) (l : Launch) (slot : Nat) : List Nat :=
  if ((s.waitingOf l).flatMap Waiting.teams).length ≤ 1 then [] else l.claims.filter (· ≠ slot)

/-- Binds a team of a launch to a slot: a fresh team with the state of R34, or one whose context is restored. The other
teams of a cooperative launch keep the age of their common entry (R378). -/
def State.bindTeam (s : State) (slot : Nat) (l : Launch) (team : Nat) : State :=
  let old := s
  let left := s.claimsAfter l slot
  match s.boss.saved.find? (fun x => x.launch = l.id && x.team = team) with
  | some x =>
    let s := { s with boss := { s.boss with saved := s.boss.saved.filter (fun x => !(x.launch = l.id && x.team = team)) } }
    ((s.place slot x.ctx (l.bindRec team x.ctx.csc true x.addr 0#64)).unpark slot).updLaunch l.id (fun l => { l with claims := left })
  | none =>
    let s := s.place slot (freshCluster l team) (l.bindRec team 0#64 false 0#64 (l.startAt.getD 0#64))
    (s.updLaunch l.id (fun l => { l with next := team + 1, since := if l.coop then l.since else s.dcc.toNat, claims := left })).refresh old

/-- A team may be bound to a slot now: the slot is free, the module is not too hot (R418), and the slot is one that the
team's cooperative launch has claimed, once as many are free or draining for it as it needs, or one that none has claimed and
the team leads the waiting set (R378). -/
def State.mayBind (s : State) (slot : Nat) (launch team : Nat) : Bool :=
  s.slotFree slot && !s.board.hot &&
  (if s.claimed slot then
    s.waitOrder.any (fun w => w.launch = launch && w.teams.head? = some team && s.served w &&
      (match s.launchOf launch with | some l => l.claims.contains slot | none => false))
  else
    match s.leader with
    | some w => !w.coop && w.launch = launch && w.teams.head? = some team
    | none => false)

/-- BIND (R382): dispatch binds a waiting team to a free slot. -/
def execBind (s : State) : Host.Outcome State Fault Refusal :=
  match s.inp with
  | .bindTo b launch team =>
    match s.launchOf launch with
    | some l => if s.mayBind b.toNat launch team then .next (s.bindTeam b.toNat l team) else notYet "BIND"
    | none => notYet "BIND"
  | _ => notYet "BIND"

/-- TEAM_START (R382): the streams of a bound team start; a start after START is late. -/
def execTeamStart (s : State) : Host.Outcome State Fault Refusal :=
  slotStep "TEAM_START" s
    (fun k => (slook s.clusters k).isSome && !(s.cluster k).running && !(s.cluster k).saving && (s.cluster k).start.toNat ≤ s.dcc.toNat)
    (fun k =>
      let c := s.cluster k
      let late := if c.start = 0#64 then 0 else s.dcc.toNat - c.start.toNat
      (s.updCluster k (fun c => { c with running := true })).updLaunch c.info.launch (fun l => { l with late := max l.late late }))

/-- A launch is of the gang that an agreement names, and has not agreed. -/
def Launch.unagreed (l : Launch) (tag : U64) (gsize : Nat) : Bool :=
  l.tag = tag && l.gsize = gsize && 1 < l.gsize && l.startAt.isNone && l.dead.isNone

/-- A launch's gang has not agreed within 2^28 DCC cycles (R382). -/
def State.gangLate (s : State) (l : Launch) : Bool :=
  1 < l.gsize && l.startAt.isNone && l.dead.isNone && l.taken + 2 ^ 28 ≤ s.dcc.toNat

/-- GANG_AGREEMENT (R382, R394): the gang's start is agreed within 2^28 DCC cycles, at least 2^16 DCC cycles ahead. -/
def execGangAgreement (s : State) : Host.Outcome State Fault Refusal :=
  match s.inp with
  | .gang tag gsize start =>
    match s.boss.launches.find? (fun l => l.unagreed tag gsize && s.dcc.toNat ≤ l.taken + 2 ^ 28) with
    | some l =>
      if s.host.status.getLsbD 3 && s.dcc.toNat + 2 ^ 16 ≤ start.toNat then
        .next (s.updLaunch l.id (fun l => { l with startAt := some start }))
      else notYet "GANG_AGREEMENT"
    | none => notYet "GANG_AGREEMENT"
  | _ => notYet "GANG_AGREEMENT"

/-- GANG_AGREEMENT_TIMEOUT (R382): a member has not agreed within 2^28 DCC cycles, or, with a start field of 1, a
member is lost: the launch ends with GANG_FAIL. -/
def execGangAgreementTimeout (s : State) : Host.Outcome State Fault Refusal :=
  match s.inp with
  | .gang tag gsize v =>
    match s.boss.launches.find? (fun l => l.tag = tag && l.gsize = gsize && 1 < l.gsize && l.dead.isNone && (v = 1#64 || s.gangLate l)) with
    | some l => .next (s.doom l.id 9 id)
    | none => notYet "GANG_AGREEMENT_TIMEOUT"
  | _ => notYet "GANG_AGREEMENT_TIMEOUT"

/-! ## Drain requests (R309, R378) -/

/-- Raises a drain request on a cluster. One that comes during a hold is taken when the hold ends. -/
def State.raiseDrain (s : State) (slot : Nat) : State :=
  s.updCluster slot (fun c =>
    if c.drain.isSome || c.saving || c.stopped then c
    else { c with drain := some { since := s.dcc.toNat }, polite := c.polite || c.stall || c.wait })

/-- The waiting set asks for the cluster of a slot: its head has at least the priority of the running team (R378).
A launch that binds no further team keeps its clusters (R383). -/
def State.wanted (s : State) (l : Launch) : Bool :=
  l.dead.isNone && (match s.leader with | some w => l.prio ≤ s.eff w | none => false)

/-- A slice of a cluster is over: Q DCC cycles have passed since its bind or its last boundary. -/
def State.sliceOver (s : State) (slot : Nat) : Bool :=
  let c := s.cluster slot
  (slook s.clusters slot).isSome && c.running && !c.saving && !c.stopped && c.lastSlice + s.boss.slice ≤ s.dcc.toNat

/-- Raises drain requests on some clusters for the entry that leads the waiting set, which claims those it needs if it is
cooperative (R378). -/
def State.drainFor (s : State) (ks : List Nat) : State :=
  let t := ks.foldl State.raiseDrain s
  match s.leader with
  | some w => t.claimFrom w ks
  | none => t

/-- The clusters that a drain request at a slice boundary is for: all those of a cooperative launch (R378). -/
def State.drainSet (s : State) (l : Launch) (slot : Nat) : List Nat := if l.coop then s.slotsOf l.id else [slot]

/-- A slice of a cluster is over: the drain request that the waiting set asks for (R378, R19). -/
def State.sliceBoundary (s : State) (slot : Nat) : State :=
  let s := s.updCluster slot (fun c => { c with lastSlice := c.lastSlice + s.boss.slice })
  match s.launchOf (s.cluster slot).info.launch with
  | some l => if s.wanted l then s.drainFor (s.drainSet l slot) else s
  | none => s

/-- What the power governor does at a slice boundary: it may raise a drain request, and it reports the joule rates of the
launch queues (R418). DESIGN CHOICE: the spec gives neither the rates nor when it raises one (log entry 64). -/
def State.govern (s : State) (slot : Nat) (drain : Bool) (rates : List (Nat × U32)) : State :=
  let s := { s with host := { s.host with rates := rates.foldl (fun (m : Store U32) (p : Nat × U32) => sset 0#32 m (p.1 % 16) p.2) s.host.rates } }
  match s.launchOf (s.cluster slot).info.launch with
  | some l => if drain then (s.drainSet l slot).foldl State.raiseDrain s else s
  | none => s

/-- SLICE_BOUNDARY (R378, R19): the drain request, for a cooperative launch on all its clusters. -/
def execSliceBoundary (s : State) : Host.Outcome State Fault Refusal :=
  match s.inp with
  | .govern b drain rates =>
    if s.sliceOver (slotNo b) then .next ((s.sliceBoundary (slotNo b)).govern (slotNo b) drain rates) else notYet "SLICE_BOUNDARY"
  | _ => slotStep "SLICE_BOUNDARY" s s.sliceOver s.sliceBoundary

/-- The escalation window of a drain request has passed. -/
def State.windowOver (s : State) (slot : Nat) : Bool :=
  match (s.cluster slot).drain with
  | some d => !d.forced && d.since + s.boss.window ≤ s.dcc.toNat
  | none => false

/-- ESCALATION_WINDOW_EXPIRY (R309): the save is taken at the next boundary cycle. -/
def execEscalationWindowExpiry (s : State) : Host.Outcome State Fault Refusal :=
  slotStep "ESCALATION_WINDOW_EXPIRY" s s.windowOver (fun k =>
    s.updCluster k (fun c => { c with drain := c.drain.map (fun d => { d with forced := true }) }))

/-! ## Saves (R308-R311) and retirement (R15) -/

/-- The context that a save writes (R39, R311): what belongs to the cluster itself is left out. -/
def Cluster.context (c : Cluster) : Cluster :=
  { c with
    running := false, saving := false, stopped := false, toBoss := none, raised := [], trapE := none, stall := false
    wait := false, asked := [], hold := none, drain := none, polite := false, pause := 0, holdLen := 0, frames := [], imem := []
    imemTag := [], reload := false, lent := [], start := 0#64
    cores := c.cores.map (fun k => { k with trace := {}, fetch := {} }) }

/-- The team of a slot joins the waiting set with its context; accesses that have no data yet are kept with it. Where Shiftboss
keeps the context is a free value (R311; log entry 77). -/
def State.requeue (s : State) (slot : Nat) (canary : Option U64) : State :=
  let s := s.park slot
  let c := s.cluster slot
  let x : Saved :=
    { launch := c.info.launch, team := c.info.team, since := s.dcc.toNat, ctx := { c.context with canaryAt := canary }
      addr := Config.freeWord (s.freeAt 16 slot) }
  ({ s with clusters := sdel slot s.clusters, boss := { s.boss with saved := s.boss.saved ++ [x] } } : State).setSlot slot 0

/-- What Shiftboss does when a save is complete (R308, R309, R377, R383). A team that BREAK has stopped stays for the debugger
after a loss of the die link; a fault whose boundary came before the kill of its launch stands (R384). -/
def State.saveDone (s : State) (slot : Nat) : State :=
  let c := s.cluster slot
  let id := c.info.launch
  match s.launchOf id with
  | none => s.discard slot
  | some l =>
    if l.dead = some 8 && c.fatal then ((s.discard slot).updLaunch id (fun l => c.blame { l with dead := some 2 })).settleLaunch id
    else if l.dead.isSome && !(l.dead = some 1 && (c.toBoss.map Cause.cls) = some 12) then (s.discard slot).settleLaunch id
    else
      match c.toBoss with
      | none => s.requeue slot c.canaryAt
      | some x =>
        if x.cls = 12 then (s.updCluster slot (fun c => { c with saving := false })).setSlot slot 1
        else if x.cls = 7 then
          ((s.discard slot).updLaunch id (fun l => { l with dead := some 1 })).settleLaunch id
        else if c.fatal then (s.discard slot).doom id 2 c.blame
        else s.requeue slot (some c.csc)

/-- SAVE_COMPLETE (R308-R311). -/
def execSaveComplete (s : State) : Host.Outcome State Fault Refusal :=
  slotStep "SAVE_COMPLETE" s s.saveReady s.saveDone

/-- TEAM_RETIREMENT (R15, R375, R382): the slot is freed; the last team ends its launch. -/
def execTeamRetirement (s : State) : Host.Outcome State Fault Refusal :=
  slotStep "TEAM_RETIREMENT" s s.retires s.retireTeam

/-- DEBUGGER_RESUME (R308): the debugger resumes a team stopped by BREAK, by the return of R304, or ends its
launch. -/
def execDebuggerResume (s : State) : Host.Outcome State Fault Refusal :=
  match s.inp with
  | .resume b go =>
    let k := b.toNat
    let c := s.cluster k
    if !(c.stopped && !c.saving && (c.toBoss.map Cause.cls) = some 12) then notYet "DEBUGGER_RESUME"
    else if go then
      let s := s.asCores k c.live (fun s => s.updMe (fun m => m.trapNow 12 true s.dueAddr s.myCluster.stamp))
      .next (s.updCluster k (fun c => { c with
        stopped := false, toBoss := none, frames := [], pause := 4, landed := true, polite := c.polite || c.drain.isSome }))
    else .next (s.doom c.info.launch 2 c.blame)
  | _ => notYet "DEBUGGER_RESUME"

end Sys2Proof.Machine
end

