-- ==== Sys2Proof/Machine/Host.lean ====
section
/-!
DEFINITION. Page requests and their replies (spec/17 R386-R389), changes of page tables and migration (spec/11 R331,
R332, spec/06 R166, spec/15 R356, R366, R367), and the patrol (spec/15 R359, R361).
-/
namespace Sys2Proof.Machine

open Sys2Proof

/-! ## Revocation (R166) -/

/-- Clears V in a handle that names one of the frames. -/
def revoke (fs : Nat → Bool) (h : U64) : U64 := if hV h && fs (hFrame h) then h &&& 0x7FFFFFFFFFFFFFFF#64 else h

/-- Revokes the values of some keys in a store of registers or ports. -/
def revokeIn (fs : Nat → Bool) (ok : Nat → Bool) (m : Store U64) : Store U64 :=
  (m.map (fun p => if ok p.1 then (p.1, revoke fs p.2) else p)).filter (fun p => p.2 ≠ 0#64)

/-- A key names an `h` register. -/
def isH (k : Nat) : Bool := 128 ≤ k && k < 160

/-- Revokes a handle that a flight delivers to `ls.hr`. -/
def Flight.revoke (fs : Nat → Bool) (f : Flight) : Flight :=
  let upd (p : Put) : Put := match p with | .port k v => if k = kLsHr then .port k (Machine.revoke fs v) else .port k v | p => p
  { f with puts := f.puts.map upd }

/-- Revokes the handle of an operand. -/
def OpSrc.revoke (fs : Nat → Bool) (o : OpSrc) : OpSrc := { o with hand := Machine.revoke fs o.hand }

/-- Revokes the handles that a vector operation captured. -/
def VOp.revoke (fs : Nat → Bool) (v : VOp) : VOp := { v with a := v.a.revoke fs, b := v.b.revoke fs, d := v.d.revoke fs }

/-- Revokes the handles that a command captured. -/
def Cmd.revoke (fs : Nat → Bool) (m : Cmd) : Cmd := { m with regs := revokeIn fs isH m.regs }

/-- Revokes what handler mode hides. -/
def Hidden.revoke (fs : Nat → Bool) (h : Hidden) : Hidden :=
  { h with
    opnd := revokeIn fs (· = kLsH) h.opnd, res := revokeIn fs (· = kLsHr) h.res
    flights := h.flights.map (Flight.revoke fs), vops := h.vops.map (VOp.revoke fs)
    lsv := h.lsv.map (fun x => { x with hand := Machine.revoke fs x.hand }) }

/-- Revokes the handles of some frames in a core (R166). -/
def Core.revoke (fs : Nat → Bool) (c : Core) : Core :=
  let z (b : ZBind) : ZBind := { b with hand := Machine.revoke fs b.hand }
  { c with
    regs := revokeIn fs isH c.regs, opnd := revokeIn fs (· = kLsH) c.opnd, res := revokeIn fs (· = kLsHr) c.res
    pipe := { c.pipe with
      flights := c.pipe.flights.map (Flight.revoke fs), vops := c.pipe.vops.map (VOp.revoke fs)
      lsv := c.pipe.lsv.map (fun x => { x with hand := Machine.revoke fs x.hand })
      hidden := c.pipe.hidden.map (Hidden.revoke fs) }
    units := { c.units with
      z := c.units.z.map (fun p => (p.1, z p.2)), mxq := c.units.mxq.map (Cmd.revoke fs)
      wzq := c.units.wzq.map (Cmd.revoke fs), panq := c.units.panq.map (Cmd.revoke fs) } }

/-- Revokes the handles of some frames in every core, and in every context that is away. -/
def State.revokeAll (s : State) (fs : Nat → Bool) : State :=
  let f (c : Cluster) : Cluster := { c with cores := c.cores.map (Core.revoke fs) }
  { s with
    clusters := s.clusters.map (fun p => (p.1, f p.2))
    boss := { s.boss with saved := s.boss.saved.map (fun x => { x with ctx := f x.ctx }) } }

/-- A command whose write waits for the end of the migration of a page takes the page's new handle: the write is translated
again and performs on the new frame (R332). -/
def Cmd.retarget (old new : U64) (m : Cmd) : Cmd :=
  if m.moving then { m with moving := false, regs := m.regs.map (fun p => if isH p.1 && hV p.2 && hFrame p.2 = hFrame old then (p.1, new) else p) }
  else m

/-- Gives the waiting engine writes to a page its new handle. -/
def State.retarget (s : State) (old new : U64) : State :=
  let core (k : Core) : Core := { k with units := { k.units with
    mxq := k.units.mxq.map (Cmd.retarget old new), panq := k.units.panq.map (Cmd.retarget old new) } }
  { s with clusters := s.clusters.map (fun p => (p.1, { p.2 with cores := p.2.cores.map core })) }

/-! ## Changes of page tables (R331, R332, R356, R366) -/

/-- The address of the entry of a level on the walk of a virtual address. -/
def State.entryAt (s : State) (va : Nat) : Nat → Nat → Nat → Option Nat
  | 0, level, table => some (table + 8 * walkIndex va level)
  | n + 1, level, table =>
    let e := s.physWord (table + 8 * walkIndex va level)
    if e.getLsbD 0 && !(e.getLsbD 1) && !(s.badEntry e level) then s.entryAt va n (level + 1) (entryAddr e) else none

/-- A physical range holds the location of an access. -/
def inRange (pa n : Nat) (a : Access) : Bool :=
  match a.loc with
  | .mem b => pa ≤ 64 * b && 64 * b < pa + n
  | .gal _ => false

/-- Some access to a physical range has not performed: in the buffers, or kept for a later resumption (R331). -/
def State.openAccess (s : State) (pa n : Nat) : Bool :=
  let held (c : Cluster) : Bool := c.cores.any (fun k => k.pipe.reissue.any (inRange pa n))
  s.acc.any (inRange pa n) || s.clusters.any (fun p => held p.2) || s.boss.saved.any (fun x => held x.ctx)

/-- Copies a page with its descriptors and metadata, and gives the new frames their grade (R355, R356, R366). An error that
the patrol has found in the old frame is met by the copy as well: a block that it cannot correct is poison in the new
frame. -/
def State.copyPage (s : State) (src dst n grade : Nat) : State :=
  let s := match s.fire.loc with
    | some (.mem b) => if src ≤ 64 * b && 64 * b < src + n then s.eccRead (.mem b) .clean else s
    | _ => s
  let m := s.dram.mem
  let data := sclear m.data dst (dst + n) |> fun d => sput 0#8 d ((sslice m.data src (src + n)).map (fun p => (p.1 + dst, p.2)))
  let tags := sput dtZero (sclear m.tags (dst / 64) ((dst + n) / 64)) ((sslice m.tags (src / 64) ((src + n) / 64)).map (fun p => (p.1 + dst / 64, p.2)))
  let keep : U64 := BitVec.ofNat 64 (2 ^ metaBits grade - 1)
  let sw := sput 0#64 (sclear s.dram.swMeta (dst / 64) ((dst + n) / 64))
    ((sslice s.dram.swMeta (src / 64) ((src + n) / 64)).map (fun p => (p.1 + dst / 64, p.2 &&& keep)))
  let gr := sput 1 (sclear s.dram.grade (dst / 65536) ((dst + n) / 65536)) ((List.range (n / 65536)).map (fun i => (dst / 65536 + i, grade)))
  let hit := match s.fire.loc with | some (.mem b) => dst ≤ 64 * b && 64 * b < dst + n | _ => false
  { s with
    dram := { mem := { data := data, tags := tags }, swMeta := sw, grade := gr }
    fire := if hit then { s.fire with cancelled := true } else s.fire }

/-- Formats frames under a grade: zero data, descriptor 0x0000, zero metadata (R356). -/
def State.format (s : State) (pa n grade : Nat) : State :=
  let gr := sput 1 (sclear s.dram.grade (pa / 65536) ((pa + n) / 65536)) ((List.range (n / 65536)).map (fun i => (pa / 65536 + i, grade)))
  let hit := match s.fire.loc with | some (.mem b) => pa ≤ 64 * b && 64 * b < pa + n | _ => false
  { s with
    dram := { mem := s.dram.mem.clear pa (pa + n), swMeta := sclear s.dram.swMeta (pa / 64) ((pa + n) / 64), grade := gr }
    fire := if hit then { s.fire with cancelled := true } else s.fire }

/-- The place of an entry of a launch's table: in device memory, or, for a page that the loader mapped, in its list. -/
inductive EntryPlace where
  | table (pa : Nat)
  | loader (page : Nat)
  deriving DecidableEq, Repr

/-- The place of the entry of a level on the walk of a virtual address; the loader's entries are leaves of level 3. -/
def State.placeOf (s : State) (t : Team) (va level : Nat) : Option EntryPlace :=
  if (slook t.maps (va / 65536)).isSome then (if level = 3 then some (.loader (va / 65536)) else none)
  else (s.entryAt va level 0 t.ptroot).map .table

/-- The entry at a place. -/
def State.entryNow (s : State) (t : Team) (p : EntryPlace) : U64 :=
  match p with
  | .table pa => s.physWord pa
  | .loader k => (slook t.maps k).getD 0#64

/-- Changes the facts of a launch wherever they stand: in the launch, in its clusters, and in contexts that are away. -/
def State.updTeam (s : State) (launch : Nat) (f : Team → Team) : State :=
  let c (x : Cluster) : Cluster := if x.info.launch = launch then { x with info := f x.info } else x
  { s.updLaunch launch (fun l => { l with info := f l.info }) with
    clusters := s.clusters.map (fun p => (p.1, c p.2))
    boss := { (s.updLaunch launch (fun l => { l with info := f l.info })).boss with
      saved := s.boss.saved.map (fun x => { x with ctx := c x.ctx }) } }

/-- Writes an entry at its place. -/
def State.putEntry (s : State) (launch : Nat) (p : EntryPlace) (e : U64) : State :=
  match p with
  | .table a => s.engineWrite 0#4 (.mem (a / 64)) (bytesAt (a % 64) (leBytes 8 e.toNat)) none
  | .loader k => s.updTeam launch (fun t => { t with maps := smod (fun _ => e) k t.maps })

/-- The pages that an entry of a level maps, itself or through the tables beneath it: physical address and size. -/
def State.leavesUnder (s : State) : Nat → Nat → U64 → List (Nat × Nat)
  | 0, _, _ => []
  | n + 1, level, e =>
    if !(e.getLsbD 0) then []
    else if e.getLsbD 1 then (if isLeaf e level then [(entryAddr e, 2 ^ pageBits level)] else [])
    else if s.badEntry e level then []
    else (s.tableWords (level + 1) (entryAddr e)).flatMap (s.leavesUnder n (level + 1))

/-- A physical range holds a part of the page table of a launch in progress. -/
def State.holdsTable (s : State) (pa n : Nat) : Bool :=
  s.boss.launches.any (fun l => (s.tablesOf l.info.ptroot).any (fun r => pa < r.1 + r.2 && r.1 < pa + n))

/-- A new leaf for a page names other frames of another grade than the frame grade map holds. -/
def State.regrade (s : State) (e : U64) (level : Nat) : Bool :=
  isLeaf e level && (memNode (entryAddr e)).isSome && entryAddr e % 2 ^ pageBits level = 0 && field e.toNat 6 2 ≠ 3 &&
    !(s.gradesAre (entryAddr e) (pageBits level) (field e.toNat 6 2))

/-- A new leaf ends the move of a page: MIG was set in the old one, and the frame is another. -/
def movesPage (old e : U64) (level : Nat) : Bool :=
  isLeaf old level && old.getLsbD 3 && isLeaf e level && entryAddr e ≠ entryAddr old && (memNode (entryAddr e)).isSome &&
    entryAddr e % 2 ^ pageBits level = 0

/-- The step T: the entry takes its new value, and the handles of every page that it mapped lose V, unless only MIG changes
(R331, R332); an engine write that waits is translated again. A move ends with the copy of the page into the new frame
(R332, R366); other frames that take a new grade are formatted before they are mapped (R356). -/
def State.changeEntry (s : State) (launch va : Nat) (old : U64) (p : EntryPlace) (level : Nat) (e : U64) : State :=
  let n := 2 ^ pageBits level
  let dst := entryAddr e
  let gone := s.leavesUnder 4 level old
  let s := if movesPage old e level then (s.copyPage (entryAddr old) dst n (field e.toNat 6 2)).retarget (handleOf old level) (handleOf e level)
    else if s.regrade e level then s.format dst n (field e.toNat 6 2) else s
  let s := s.putEntry launch p e
  let s := if (old ^^^ e) &&& (if isLeaf old level then 0xFFFFFFFFFFFFFFF7#64 else 0xFFFFFFFFFFFFFFFF#64) ≠ 0#64 && !(gone.isEmpty) then
      s.revokeAll (fun f => gone.any (fun r => r.1 / 65536 ≤ f && f < (r.1 + r.2) / 65536)) else s
  let page := va / n * n
  let rest := s.boss.migrating.filter (fun m => !(m.1 = launch && m.2.1.toNat / n * n = page))
  let mig := if isLeaf e level && e.getLsbD 3 then rest ++ [(launch, BitVec.ofNat 64 page, dst, dst)] else rest
  let lent (c : Cluster) : Cluster :=
    if c.info.launch = launch && !(isLeaf e level && e.getLsbD 3) then { c with lent := c.lent.filter (fun x => x.1.toNat / n * n ≠ page) } else c
  { s with
    clusters := s.clusters.map (fun p => (p.1, lent p.2))
    boss := { s.boss with migrating := mig } }

/-- A change keeps to the migrations under way (R332, R366, R367): MIG is set by MIGRATION_START alone, a page moves only to
the frame that was chosen there, and until then its frame stays. -/
def State.planned (s : State) (launch va level : Nat) (old e : U64) : Bool :=
  let n := 2 ^ pageBits level
  match s.boss.migrating.find? (fun m => m.1 = launch && m.2.1.toNat / n = va / n) with
  | some m => !(isLeaf e level) || entryAddr e = (if e.getLsbD 3 then m.2.2.1 else m.2.2.2) || entryAddr e = m.2.2.1
  | none => !(isLeaf e level && e.getLsbD 3) && !(movesPage old e level)

/-- Shiftboss may install an entry: it maps no frame of its own reserved memory (R349), tables lie on frames of grade 1,
and frames that are written for it hold no page table (R356). -/
def State.mayInstall (s : State) (old e : U64) (level : Nat) : Bool :=
  let n := 2 ^ pageBits level
  (s.leavesUnder 4 level e).all (fun r => !(bossMem r.1 1) && !(bossMem (r.1 + r.2 - 1) 1)) &&
  (s.tablesUnder 4 level e).all s.onGradeOne &&
  !((movesPage old e level || s.regrade e level) && s.holdsTable (entryAddr e) n)

/-- Every access to a page that an entry maps has performed (R331). -/
def State.quiet (s : State) (level : Nat) (e : U64) : Bool := (s.leavesUnder 4 level e).all (fun r => !(s.openAccess r.1 r.2))

/-- PAGE_TABLE_CHANGE (R331). -/
def execPageTableChange (s : State) : Host.Outcome State Fault Refusal :=
  match s.inp with
  | .pte c =>
    match s.launchOf c.launch with
    | none => notYet "PAGE_TABLE_CHANGE"
    | some l =>
      let va := c.va.toNat
      if 2 ^ 57 ≤ va || 3 < c.level then notYet "PAGE_TABLE_CHANGE"
      else
        match s.placeOf l.info va c.level with
        | none => notYet "PAGE_TABLE_CHANGE"
        | some p =>
          let old := s.entryNow l.info p
          if !(s.quiet c.level old) || !(s.planned c.launch va c.level old c.entry) || !(s.mayInstall old c.entry c.level) then
            notYet "PAGE_TABLE_CHANGE"
          else .next (s.changeEntry c.launch va old p c.level c.entry)
  | _ => notYet "PAGE_TABLE_CHANGE"

/-- The engines that the copy of a page takes (R367). -/
def copyEngines (level : Nat) : Nat := if level = 1 then 4 else 1

/-- The least free engines of some clusters, at most `n`: cluster and engine. -/
def State.spareEngines (s : State) (ks : List Nat) (n : Nat) : List (Nat × Nat) :=
  (ks.flatMap (fun k => ((List.range 4).filter (fun e => !((s.cluster k).enginesBusy.contains e))).map (fun e => (k, e)))).take n

/-- Lends the engines for the copy of a page: those of a cluster that holds no bound team, or, when none is free, the least
free ones of the clusters of the page's own launch (R366, R367). None if there are too few. -/
def State.lend (s : State) (launch level : Nat) (page : U64) : Option State :=
  if (List.range 64).any (fun k => sget 0 s.boss.slots k = 0 && (slook s.clusters k).isNone) then some s
  else
    let es := s.spareEngines (s.slotsOf launch) (copyEngines level)
    if es.length < copyEngines level then none
    else some (es.foldl (fun s p => s.updCluster p.1 (fun c => { c with lent := c.lent ++ [(page, p.2)] })) s)

/-- MIGRATION_START: MIG is set in the page's entry and the copy to a new frame begins (R332, R366, R367). The copy's
contents take effect at the step T that ends the move: until then no write reaches the page. -/
def execMigrationStart (s : State) : Host.Outcome State Fault Refusal :=
  match s.inp with
  | .migrate id va0 frame =>
    let va := va0.toNat
    match s.launchOf id with
    | none => notYet "MIGRATION_START"
    | some l =>
      match s.translate l.info va with
      | .leaf e level =>
        let n := 2 ^ pageBits level
        match s.placeOf l.info va level, s.lend id level (BitVec.ofNat 64 (va / n * n)) with
        | some p, some t =>
          if e.getLsbD 3 || frame.toNat % n ≠ 0 || (memNode frame.toNat).isNone || frame.toNat = entryAddr e ||
              bossMem frame.toNat 1 || s.holdsTable frame.toNat n ||
              !(s.quiet level e) || (level = 1 && s.boss.canary < 2 ^ 21 && !(s.slotsOf id).isEmpty) then
            notYet "MIGRATION_START"
          else
            let t := t.changeEntry id va e p level (e ||| 8#64)
            .next { t with boss := { t.boss with migrating := t.boss.migrating.map (fun m =>
              if m.1 = id && m.2.1.toNat = va / n * n then (m.1, m.2.1, m.2.2.1, frame.toNat) else m) } }
        | _, _ => notYet "MIGRATION_START"
      | _ => notYet "MIGRATION_START"
  | _ => notYet "MIGRATION_START"

/-! ## Replies to page requests (R386-R389) -/

/-- Settles a program tag of a core stream whose request this is. -/
def Core.settleTag (c : Core) (id : U64) (st : Nat) : Core :=
  let upd (p : Nat × PTag) : Nat × PTag := if p.2.id = id && p.2.st = 0 then (p.1, { p.2 with st := st }) else p
  { c with units := { c.units with preq := c.units.preq.map upd } }

/-- Settles a program tag in every core of a team. -/
def Cluster.settleTag (c : Cluster) (launch : Nat) (id : U64) (st : Nat) : Cluster :=
  if c.info.launch = launch then { c with cores := c.cores.map (fun k => k.settleTag id st) } else c

/-- Fields of a request's identity (R387). -/
def idTeam (id : U64) : Nat := field id.toNat 12 16
def idCore (id : U64) : Nat := field id.toNat 9 3
def idTag (id : U64) : Nat := field id.toNat 4 4
def idUnit (id : U64) : Nat := field id.toNat 0 4

/-- A command is the one that a request was sent for. -/
def Cmd.asked (m : Cmd) (id : U64) : Bool := m.held.isSome && (idTag id ≠ 0 || m.eng = idUnit id)

/-- The engine's command that waits for a failed page raises PAGE_UNAVAILABLE at the held cycle and starts again after
the trap (R189, R259, R388). -/
def Cluster.failPage (c : Cluster) (id va : U64) : Cluster :=
  let k := c.core (idCore id)
  let has (q : List Cmd) : Bool := q.any (fun m => m.asked id)
  let u := k.units
  let hit := match idTag id with | 0 => has u.wzq | 1 => has u.mxq | _ => has u.panq
  if !hit then c
  else
    let f (m : Cmd) : Cmd := if m.asked id then m.restart else m
    let c := c.updCore (idCore id) (fun k => { k with units := match idTag id with
      | 0 => { k.units with wzq := k.units.wzq.map f }
      | 1 => { k.units with mxq := k.units.mxq.map f }
      | _ => { k.units with panq := k.units.panq.map f } })
    { c with lateIn := c.lateIn ++ [{ cls := 5, strm := idCore id, eng := true, code := 0, tval := va }] }

/-- A request that is DONE finds its page resident: a mapped leaf takes RSD in this step, if it has not got it before (R333,
R386). -/
def State.makeResident (s : State) (launch : Nat) (va : U64) : State :=
  match s.launchOf launch with
  | none => s
  | some l =>
    match s.translate l.info va.toNat with
    | .leaf e level =>
      if e.getLsbD 2 then s
      else match s.placeOf l.info va.toNat level with
        | some p => s.changeEntry launch va.toNat e p level (e ||| 4#64)
        | none => s
    | _ => s

/-- Ends a live request as DONE or FAIL (R388, R389): a program tag records it, also in a context that is away; an
engine's hold ends, with PAGE_UNAVAILABLE on FAIL. -/
def State.endRequest (s : State) (p : PageReq) (done : Bool) : State :=
  let s := { s with pages := s.pages.filter (fun x => x.id ≠ p.id) }
  let s := if done then s.makeResident p.launch p.va else s
  if p.id.getLsbD 8 then
    if done then s
    else { s with clusters := s.clusters.map (fun c =>
        if c.2.info.launch = p.launch && c.2.info.team % 65536 = idTeam p.id then (c.1, c.2.failPage p.id p.va) else c) }
  else
    let st := if done then 1 else 2
    { s with
      clusters := s.clusters.map (fun c => (c.1, c.2.settleTag p.launch p.id st))
      boss := { s.boss with saved := s.boss.saved.map (fun x => { x with ctx := x.ctx.settleTag p.launch p.id st }) } }

/-- A request has been live for the time limit. -/
def State.timedOut (s : State) (p : PageReq) : Bool := p.since + s.boss.pageLimit ≤ s.dcc.toNat

/-- A reply that changes no state is counted (R388). -/
def State.staleReply (s : State) : State := { s with host := { s.host with stale := satInc s.host.stale } }

/-- The live request that a reply on a route names. -/
def State.liveRequest (s : State) (id : U64) (pri : Bool) : Option PageReq := s.pages.find? (fun p => p.id = id && p.pri = pri && p.sent)

/-- A reply to a page request comes: it takes effect when the DCC cycle is over, a kill of the launch in the same cycle
before it (R388, R404). -/
def State.answer (s : State) (id : U64) (done pri : Bool) : State :=
  { s with host := { s.host with answers := s.host.answers ++
      [{ id := id, done := done, pri := pri, late := (s.liveRequest id pri).any s.timedOut }] } }

/-- What a reply does: one that names no live request is stale, and so is one that came after the time limit, at
which the request completes as FAIL (R388, R389). -/
def State.takeAnswer (s : State) (a : PageAnswer) : State :=
  match s.liveRequest a.id a.pri with
  | some p => if a.late then (s.endRequest p false).staleReply else s.endRequest p a.done
  | none => s.staleReply

/-- The replies of a DCC cycle take effect at its end. -/
def State.takeAnswers (s : State) : State :=
  s.host.answers.foldl State.takeAnswer { s with host := { s.host with answers := [] } }

/-- A reply may say DONE only when the driver has completed the step that makes the page resident (R386): the page is
mapped. -/
def State.doneHolds (s : State) (id : U64) (pri : Bool) : Bool :=
  match s.liveRequest id pri with
  | some p =>
    match s.launchOf p.launch with
    | some l => (match s.translate l.info p.va.toNat with | .leaf _ _ => true | _ => false)
    | none => true
  | none => true

/-- The next reply record: from the ring in device memory, or as the host's memory gives it (R386, R387). -/
def State.serviceReply (s : State) (given : BitVec 128) : BitVec 128 :=
  let x := s.host.service
  if x.repDev then BitVec.ofNat 128 (leNat (s.dram.mem.bytes (x.rep.toNat + 16 * s.host.rpqHead.toNat) 16)) else given

/-- PAGE_REPLY: the device reads the next reply record of the page-service queue: its ID, and its STATUS byte
(R386-R388). -/
def execPageReply (s : State) : Host.Outcome State Fault Refusal :=
  match s.inp with
  | .replyRecord given =>
    if s.host.rpqHead = s.host.rpqTail then notYet "PAGE_REPLY"
    else
      let s := if s.host.service.repDev then s.met (.mem ((s.host.service.rep.toNat + 16 * s.host.rpqHead.toNat) / 64)) else s
      let r := s.serviceReply given
      let id : U64 := r.setWidth 64
      let done : Bool := bits r 64 8 = (0#8 : BitVec 8)
      let head := BitVec.ofNat 32 ((s.host.rpqHead + 1).toNat % s.host.service.repEntries)
      if done && !(s.doneHolds id false) then notYet "PAGE_REPLY"
      else .next (({ s with host := { s.host with rpqHead := head } } : State).answer id done false)
  | _ => notYet "PAGE_REPLY"

/-- PRI_RESPONSE: a PCIe response to a page request message (R386, R388). -/
def execPriResponse (s : State) : Host.Outcome State Fault Refusal :=
  match s.inp with
  | .reply id st =>
    if st = 0#8 && !(s.doneHolds id true) then notYet "PRI_RESPONSE" else .next (s.answer id (st = 0#8) true)
  | _ => notYet "PRI_RESPONSE"

/-- PRI_REQUEST_SEND: a request that has waited for a group index is sent when one is free (R386). -/
def execPriRequestSend (s : State) : Host.Outcome State Fault Refusal :=
  match s.pages.find? (fun p => p.pri && !p.sent), s.priGroup with
  | some p, some g =>
    let pasid := ((s.launchOf p.launch).map Launch.pasid).getD 0#20
    .next { s with
      pages := s.pages.map (fun x => if x.id = p.id then { x with sent := true, group := some g } else x)
      host := { s.host with priSent := s.host.priSent ++ [(pasid, g, p.va, p.write)] } }
  | _, _ => notYet "PRI_REQUEST_SEND"

/-- PAGE_REQUEST_TIMEOUT: the request completes as FAIL (R389). -/
def execPageRequestTimeout (s : State) : Host.Outcome State Fault Refusal :=
  match s.inp with
  | .reply id _ =>
    match s.pages.find? (fun p => p.id = id && s.timedOut p) with
    | some p => .next (s.endRequest p false)
    | none => notYet "PAGE_REQUEST_TIMEOUT"
  | _ => notYet "PAGE_REQUEST_TIMEOUT"

/-- PAGE_REQUEST_ROUTE_SELECT: the driver chooses the route, and for PRI the PASID, of the launches that a queue takes from
now on, or sets up the two rings of the page-service queue, empty (R386; log entry 78). -/
def execPageRequestRouteSelect (s : State) : Host.Outcome State Fault Refusal :=
  match s.inp with
  | .route q pri pasid => .next { s with host := { s.host with pri := sset (false, 0#20) s.host.pri q.toNat (pri, pasid) } }
  | .service req reqEntries rep repDev repEntries =>
    if ringSize reqEntries && ringSize repEntries && ringPlace false req (32 * reqEntries) && ringPlace repDev rep (16 * repEntries) then
      .next { s with host := { s.host with
        service := { req := req, reqEntries := reqEntries, rep := rep, repDev := repDev, repEntries := repEntries }
        prqHead := 0#32, prqTail := 0#32, rpqTail := 0#32, rpqHead := 0#32 } }
    else notYet "PAGE_REQUEST_ROUTE_SELECT"
  | _ => notYet "PAGE_REQUEST_ROUTE_SELECT"

/-! ## Fireboss (R359, R361) -/

/-- The location of a granule of a memory kind: HBM4 of die A, of die B, the capacity tier, the Gallery. -/
def granule (mem : BitVec 2) (g : Nat) : Option Loc :=
  let base := match mem.toNat with | 0 => 0 | 1 => 0x200000000 | _ => 0x400000000
  if mem = 3#2 then (if g < 0x600000 then some (.gal g) else none)
  else if g < (if mem = 2#2 then 0x800000000 else 0x180000000) then some (.mem (base + g)) else none

/-- The granules of a patrol. -/
def patrolSize : Nat := 2 * 0x180000000 + 0x800000000 + 0x600000

/-- One more granule visited; with the last the patrol period is complete (R361). -/
def State.visit (s : State) (l : Loc) : State :=
  if s.fire.visited.length + 1 < patrolSize then { s with fire := { s.fire with visited := l :: s.fire.visited } }
  else
    let s := (List.range 5).foldl (fun s k => s.updErr k (fun e => { e with pass := satInc e.pass })) s
    { s with fire := { s.fire with visited := [] } }

/-- FIREBOSS_READ: the patrol reads a granule that it has not visited in this period; what it will write is the corrected
contents or poison (R359). -/
def execFirebossRead (s : State) : Host.Outcome State Fault Refusal :=
  match s.inp with
  | .patrol mem g found =>
    match granule mem g with
    | some l =>
      if s.fire.loc.isSome || s.fire.visited.contains l then notYet "FIREBOSS_READ"
      else
        let s := s.visit l
        if found = .clean then .next s
        else .next { s with fire := { s.fire with loc := some l, poison := s.uncorrectable l found, cancelled := false, fixed := false } }
    | none => notYet "FIREBOSS_READ"
  | _ => notYet "FIREBOSS_READ"

/-- FIREBOSS_WRITE: the patrol writes what it prepared, unless a demand write came since (R359). -/
def execFirebossWrite (s : State) : Host.Outcome State Fault Refusal :=
  match s.fire.loc with
  | none => notYet "FIREBOSS_WRITE"
  | some l =>
    let done (s : State) : State := { s with fire := { s.fire with loc := none, poison := false, cancelled := false, fixed := false } }
    if s.fire.cancelled then .next (done (s.updErr (errKey l) (fun e => { e with sccn := satInc e.sccn })))
    else if s.fire.poison then .next (done ((s.poisonLoc l).countUnc l))
    else .next (done (s.updErr (errKey l) (fun e => { e with scrw := satInc e.scrw })))

end Sys2Proof.Machine
end

