-- ==== Sys2Proof/Machine/Net.lean ====
section
/-!
DEFINITION. Levanter links, remote copies that arrive, time across packages, and encrypted sessions (spec/17
R391-R394, R402, R403, spec/06 R202).
-/
namespace Sys2Proof.Machine

open Sys2Proof

/-! ## Time across packages (R394) -/

/-- The modules that timing messages have named and that can be reached. -/
def State.peers (s : State) : List (BitVec 20 × Int) := s.links.seen.filter (fun p => s.reachable p.1)

/-- The offset from the system reference: the module with the lowest node identifier among those reached and this
one; a module that is its own reference has offset 0. -/
def State.refOffset (s : State) : Int :=
  (s.peers.foldl (fun (m : BitVec 20 × Int) p => if p.1.toNat < m.1.toNat then p else m) (s.links.node, 0)).2

/-- The offset is within ±8 cycles. -/
def near (o : Int) : Bool := -8 ≤ o && o ≤ 8

/-- Judges the offset anew: outside ±8 cycles STATUS bit 3 clears, and a steady time begins when it comes back. -/
def State.judgeTime (s : State) : State :=
  let o := s.refOffset
  let was := s.links.offset
  let s := { s with links := { s.links with offset := o, steadySince := if near o && near was then s.links.steadySince else s.dcc.toNat } }
  if near o then s else { s with host := { s.host with status := s.host.status &&& ~~~8#64 } }

/-- TIMING_MESSAGE: a port brings the offset of a module that is reached through it (R394). -/
def execTimingMessage (s : State) : Host.Outcome State Fault Refusal :=
  match s.inp with
  | .timing port node offset =>
    if s.links.up.getLsbD port.toNat && node ≠ s.links.node then
      let routes := if s.links.routes.contains (node, port) then s.links.routes else s.links.routes ++ [(node, port)]
      .next (({ s with links := { s.links with
        routes := routes, seen := (s.links.seen.filter (fun p => p.1 ≠ node)) ++ [(node, offset)] } } : State).judgeTime)
    else notYet "TIMING_MESSAGE"
  | _ => notYet "TIMING_MESSAGE"

/-- STATUS bit 3 is due: the discipline runs and the offset has stayed within ±8 cycles for 2^20 cycles. -/
def State.syncDue (s : State) : Bool :=
  s.isReady && !(s.host.status.getLsbD 3) && near s.links.offset && s.links.steadySince + 2 ^ 20 ≤ s.dcc.toNat

/-- DCC_SYNCHRONISED (R394). -/
def execDccSynchronised (s : State) : Host.Outcome State Fault Refusal :=
  if s.syncDue then .next { s with host := { s.host with status := s.host.status ||| 8#64 } } else notYet "DCC_SYNCHRONISED"

/-! ## Ports (R391, R392) -/

/-- Changes the remote copy of a number in its queue. -/
def State.updRemote (s : State) (r : Remote) (f : CmdData → CmdData) : State :=
  let upd (m : Cmd) : Cmd := if m.data.sent && m.data.i0 = r.id && m.data.remote.isNone then { m with data := f m.data } else m
  s.updCluster r.slot (fun c => c.updCore r.core (fun k => { k with units := { k.units with wzq := k.units.wzq.map upd } }))

/-- Ends the remote copies whose nodes are no longer reachable with LINK (R202, R392). -/
def State.endUnreached (s : State) : State :=
  let gone := s.links.sent.filter (fun r => !(s.reachable r.node))
  let s := gone.foldl (fun s r => s.updRemote r (fun d => { d with remote := some .link })) s
  { s with links := { s.links with sent := s.links.sent.filter (fun r => s.reachable r.node) } }

/-- A port goes down: its routes go, and what could be reached through it alone is unreachable. -/
def State.portDown (s : State) (port : Nat) : State :=
  ((({ s with links := { s.links with
    up := s.links.up &&& ~~~(1#24 <<< port), replays := sset 0 s.links.replays port 0
    routes := s.links.routes.filter (fun r => r.2.toNat ≠ port) } } : State).endUnreached).cutCollectives).judgeTime

/-- LINK_FLIT_RECEIVE: a flit with a bad CRC is replayed; at the sixteenth replay the port is down (R391). A good flit
carries an acknowledgement (log entry 79). -/
def execLinkFlitReceive (s : State) : Host.Outcome State Fault Refusal :=
  match s.inp with
  | .flit port good =>
    let p := port.toNat
    if !(s.links.up.getLsbD p) then notYet "LINK_FLIT_RECEIVE"
    else if good then .next { s with links := { s.links with
      replays := sset 0 s.links.replays p 0, acked := sset 0 s.links.acked p s.dcc.toNat } }
    else if 15 ≤ sget 0 s.links.replays p then .next (s.portDown p)
    else .next { s with links := { s.links with replays := sset 0 s.links.replays p (sget 0 s.links.replays p + 1) } }
  | _ => notYet "LINK_FLIT_RECEIVE"

/-- LINK_ACK_TIMEOUT: no acknowledgement has come for 2^20 DCC cycles: the port is down (R391, R392). -/
def execLinkAckTimeout (s : State) : Host.Outcome State Fault Refusal :=
  match s.inp with
  | .flit port _ =>
    if s.links.up.getLsbD port.toNat && sget 0 s.links.acked port.toNat + 2 ^ 20 ≤ s.dcc.toNat then
      .next (s.portDown port.toNat)
    else notYet "LINK_ACK_TIMEOUT"
  | _ => notYet "LINK_ACK_TIMEOUT"

/-! ## Remote copies (R202, R393) -/

/-- Flips a bit of a byte of a payload; a payload that is too short keeps all its bytes. -/
def flipBit (bs : List Byte) (i bit : Nat) : List Byte := lmod (fun b => b ^^^ (1#8 <<< bit)) i bs

/-- A payload as INJECT leaves it, with ARM cleared (R393); one that had begun to arrive before INJECT was armed is left
alone (R404). -/
def State.injected (s : State) (began : U64) (bs : List Byte) : State × List Byte :=
  let v := s.host.inject
  if v.getLsbD 63 && s.host.armedAt.toNat ≤ began.toNat then
    ({ s with host := { s.host with inject := v &&& 0x7FFFFFFFFFFFFFFF#64 } }, flipBit bs (field v.toNat 3 32) (field v.toNat 0 3))
  else (s, bs)

/-- Returns an answer to the module that sent a payload (R202). -/
def State.answerRemote (s : State) (a : Answer) : State :=
  { s with links := { s.links with answered := s.links.answered ++ [a] } }

/-- The writes of a payload, one access of the links for each block that it touches, in the system channel (R319); a block
written whole takes the descriptor and the metadata that came with it (R51, R355). Answers the accesses' numbers too. -/
def State.payloadPut (s : State) (t : Team) (p : Payload) (bs : List Byte) : State × List Nat :=
  let put (x : State × List Nat × List Byte) (q : (Nat × Nat × Nat) × U16 × Option U64) : State × List Nat × List Byte :=
    let now := x.2.2.take q.1.2.2
    match x.1.vaPa t true (64 * q.1.1) with
    | some pa =>
      (x.1.addParty .link 0#4 (.mem (pa / 64)) (.put (bytesAt q.1.2.1 now) (some q.2.1) q.2.2) .system,
        x.2.1 ++ [x.1.nextAcc], x.2.2.drop q.1.2.2)
    | none => (x.1, x.2.1, x.2.2.drop q.1.2.2)
  let ls := splitLines p.da.toNat bs.length
  let r := (ls.zipIdx.map (fun q => (q.1, p.blocks.getD q.2 (dtZero, none)))).foldl put ({ s with cur := 512 }, [], bs)
  ({ r.1 with cur := s.cur }, r.2.1)

/-- A payload of another module arrives: INJECT may flip a bit of it (R393), and it is written here with its checksum taken
over the bytes written, or it ends with RPAGE and nothing written (R202). A malformed entry is reported (R364). -/
def State.takePayload (s : State) (p : Payload) : State :=
  let r := s.injected p.began p.bytes
  let t : Team := ((s.launchOf p.launch).map Launch.info).getD {}
  let rpage : Answer := { node := p.node, id := p.id, how := .rpage, sum := 0#32 }
  match (splitLines p.da.toNat r.2.length).find? (fun q => (s.vaPa t true (64 * q.1)).isNone) with
  | some q => (r.1.report p.launch (s.translate t (64 * q.1))).answerRemote rpage
  | none =>
    if (s.launchOf p.launch).isNone then r.1.answerRemote rpage
    else
      let w := r.1.payloadPut t p r.2
      let sum := wzSumOf p.ck p.start r.2
      if w.2.isEmpty then w.1.answerRemote { node := p.node, id := p.id, how := .ok, sum := sum }
      else { w.1 with links := { w.1.links with
        inbound := w.1.links.inbound ++ [{ node := p.node, id := p.id, writes := w.2, sum := sum }] } }

/-- The writes of a payload have performed. -/
def State.inboundDone (s : State) (b : Inbound) : Bool := !(s.acc.any (fun a => b.writes.contains a.id))

/-- REMOTE_COPY_PAYLOAD: a payload of another module arrives; or its writes have performed and the answer goes back, with
the checksum; or the answer to a copy of this module arrives (R202, R319, R393). A payload for a page that is migrating
waits (R332). -/
def execRemoteCopyPayload (s : State) : Host.Outcome State Fault Refusal :=
  match s.inp with
  | .remote (.payload p) =>
    let moving : Bool := match s.launchOf p.launch with
      | some l => s.vaMoving l.info p.da.toNat p.bytes.length
      | none => false
    if moving then notYet "REMOTE_COPY_PAYLOAD" else .next (s.takePayload p)
  | .remote (.written node id) =>
    match s.links.inbound.find? (fun b => b.node = node && b.id = id) with
    | some b =>
      if s.inboundDone b then
        let s := { s with links := { s.links with inbound := s.links.inbound.filter (fun x => !(x.node = node && x.id = id)) } }
        .next (s.answerRemote { node := node, id := id, how := .ok, sum := b.sum })
      else notYet "REMOTE_COPY_PAYLOAD"
    | none => notYet "REMOTE_COPY_PAYLOAD"
  | .remote (.answer id how sum) =>
    match s.links.sent.find? (fun r => r.id = id) with
    | none => notYet "REMOTE_COPY_PAYLOAD"
    | some r =>
      .next ((({ s with links := { s.links with sent := s.links.sent.filter (fun x => x.id ≠ id) } } : State)).updRemote r
        (fun d => { d with remote := some how, width := sum.toNat }))
  | _ => notYet "REMOTE_COPY_PAYLOAD"

/-! ## Sessions (R402, R403) -/

/-- What this module sends to set up a session: its ephemeral public key, its nonce and its certificate chain, with the
signature of key and nonce under its identity key (R402). -/
def helloOf (number : Nat) : List Byte :=
  let body := (leBytes 132 (Config.publicKey (Config.ephemeral number)).toNat).reverse ++ leBytes 32 (Config.nonce number).toNat
  body ++ Config.certificates ++ (leBytes 132 (Config.sign body).toNat).reverse

/-- The keys of a session between this module and a node: the ECDH secret and the two nonces, those of the lower node
first (R402). `number` is that of this module's ephemeral key and nonce. -/
def State.keysFor (s : State) (number : Nat) (node : BitVec 20) (pub : BitVec 1056) (nonce : BitVec 256) : BitVec 512 :=
  let own := Config.nonce number
  let low : Bool := node.toNat < s.links.node.toNat
  Config.sessionKeys (Config.ecdh (Config.ephemeral number) pub) (if low then nonce ++ own else own ++ nonce)
    (if low then node else s.links.node) (if low then s.links.node else node)

/-- ALLOW_LIST_INSTALL: the host installs the digests of the identity keys that session setup accepts (R402). -/
def execAllowListInstall (s : State) : Host.Outcome State Fault Refusal :=
  match s.inp with
  | .digests l => .next { s with allow := l }
  | _ => notYet "ALLOW_LIST_INSTALL"

/-- SESSION_SETUP: both sides send their keys; a peer whose signature verifies and whose key is on the allow list gets a
session, while the key store has room; another gets none, and collectives that need one with a peer that failed a check end
(R402). -/
def execSessionSetup (s : State) : Host.Outcome State Fault Refusal :=
  match s.inp with
  | .hello p =>
    let number := s.freeAt 20 0
    let s := { s.fresh with links := { s.links with hellos := s.links.hellos ++ [(p.node, helloOf number)] } }
    if !(p.signed && s.allow.contains p.keyDigest) then
      .next ({ s with links := { s.links with refused := p.node :: s.links.refused.filter (· ≠ p.node) } } : State).cutCollectives
    else if s.sessions.length < 256 && !(s.sessions.any (fun x => x.sid = p.sid)) then
      .next { s with
        sessions := s.sessions ++ [{ sid := p.sid, node := p.node, keys := s.keysFor number p.node p.pub p.nonce, since := s.dcc.toNat }]
        links := { s.links with refused := s.links.refused.filter (· ≠ p.node) } }
    else .next s
  | _ => notYet "SESSION_SETUP"

/-- SESSION_REKEY: a session takes fresh keys by a fresh ECDH (R403). -/
def execSessionRekey (s : State) : Host.Outcome State Fault Refusal :=
  match s.inp with
  | .rekey sid pub nonce =>
    if s.sessions.any (fun x => x.sid = sid) then
      let number := s.freeAt 20 0
      .next { s.fresh with sessions := s.sessions.map (fun x => if x.sid = sid then
        { x with keys := s.keysFor number x.node pub nonce, since := s.dcc.toNat, frames := 0 } else x) }
    else notYet "SESSION_REKEY"
  | _ => notYet "SESSION_REKEY"

/-- A frame is accepted: the keys may still be used, its tag verifies, and its counter is above the highest accepted minus 64
and new (R403). -/
def Session.accepts (x : Session) (dcc : Nat) (f : Frame) : Bool :=
  !(x.spent dcc) && f.tagGood && !(x.seen.contains f.counter) &&
  match x.high with
  | some h => h.toNat < f.counter.toNat + 64
  | none => true

/-- A session after a frame: what it carries is delivered and the counter noted, or one more frame is dropped. -/
def Session.receive (x : Session) (dcc : Nat) (f : Frame) : Session :=
  if x.accepts dcc f then
    let h : U64 := match x.high with | some h => if h.toNat < f.counter.toNat then f.counter else h | none => f.counter
    { x with
      high := some h, seen := (x.seen ++ [f.counter]).filter (fun c => h.toNat < c.toNat + 64)
      frames := x.frames + 1, inbox := x.inbox ++ [f.payload] }
  else { x with dropped := x.dropped + 1 }

/-- SESSION_FRAME_RECEIVE (R403). A frame of no session is not delivered. -/
def execSessionFrameReceive (s : State) : Host.Outcome State Fault Refusal :=
  match s.inp with
  | .frame f => .next { s with sessions := s.sessions.map (fun x => if x.sid = f.sid then x.receive s.dcc.toNat f else x) }
  | _ => notYet "SESSION_FRAME_RECEIVE"

end Sys2Proof.Machine
end

