-- ==== Sys2Proof/Machine/Power.lean ====
section
/-!
DEFINITION. Starts, safe mode, power, firmware, attestation and the die link (spec/20 R414-R422, spec/16 R383).
-/
namespace Sys2Proof.Machine

open Sys2Proof

/-! ## Starts (R414-R416) -/

/-- Defective cores of a cluster, as a count. -/
def defectCount (m : Byte) : Nat := ((List.range 8).filter (fun i => m.getLsbD i)).length

/-- The defect masks of all 64 slots. -/
def StartMasks (r : StartRun) : List Byte := (List.range 64).map (fun i => r.defects.getD i 0#8)

/-- The clusters that a start finds fit for service. -/
def fitClusters (r : StartRun) : Nat := ((StartMasks r).filter (fun m => defectCount m ≤ 1)).length

/-- The value of joules per quantum that step 6 measures: the energy less the idle energy, over the quanta of all clusters in
service, as FP32 rounded upward (R417). -/
def jpqOf (r : StartRun) : U32 :=
  BitVec.ofNat 32 (rndRat fp32 rup false (r.energy - r.idle) (2 ^ 24 * max (fitClusters r) 1) (-64)).1

/-- A value of joules per quantum lies within 0.5 to 2 times the factory value (R414, step 6); both are normal numbers. -/
def Board.jpqGood (b : Board) (v : U32) : Bool := b.factory.toNat ≤ v.toNat + 2 ^ 23 && v.toNat ≤ b.factory.toNat + 2 ^ 23

/-- A die accepts an image by its fuses (R419). -/
def Fuse.accepts (f : Fuse) (i : FwImage) : Bool := i.key = f.key && i.good && f.rollback.toNat ≤ i.version.toNat

/-- Both dies accept an image. -/
def Board.accepts (b : Board) (i : FwImage) : Bool := b.fuseA.accepts i && b.fuseB.accepts i

/-- The image that the next start verifies: one that an update has left, else the one that runs (R419). -/
def Board.nextFw (b : Board) : FwImage := b.staged.getD b.fw

/-- The first step after step `from'` that fails (R414); a start in safe mode runs steps up to 3 for PCIe only (R416). After
three failed retrains the die link trains in a cold start alone (R421). -/
def State.startFails (s : State) (r : StartRun) (warm safe : Bool) (from' : Nat) : Option Nat :=
  let steps : List (Nat × Bool) :=
    [(2, !(r.fwGood && s.board.accepts s.board.nextFw)),
      (3, !r.pcieTrains || (!safe && (!r.dieLinkTrains || (warm && 3 ≤ s.links.retrains)))),
      (4, !safe && !r.memTrains), (5, !safe && fitClusters r < 32), (6, !safe && !(s.board.jpqGood (jpqOf r)))]
  (steps.find? (fun p => from' < p.1 && p.2)).map (·.1)

/-- The module as a start finds it: everything that a reset clears is at its reset value; what the board controller,
the fuses and, under self-refresh, memory keep stays (R361, R414, R418, R419), and so does the count of failed retrains until
a cold start (R421). The model's own fields stay. -/
def State.cleared (s : State) (warm : Bool) : State :=
  { State.reset with
    agenda := s.agenda, inp := s.inp, freeCtr := s.freeCtr
    gal := s.gal, dram := s.dram
    errs := if warm then s.errs else []
    links := { node := s.links.node, retrains := if warm then s.links.retrains else 0 }
    board := { s.board with hot := false, jpq := 0#32, readyAt := none, memReady := warm && s.board.memReady } }

/-- BIST: out of service, spare in use (R414 step 5, R380). -/
def State.bist (s : State) (r : StartRun) : State :=
  let put (s : State) (p : Byte × Nat) : State :=
    let n := defectCount p.1
    if 2 ≤ n then s.setSlot p.2 3
    else if n = 1 then
      { s with boss := { s.boss with spare := sset 0xFF#8 s.boss.spare p.2 (BitVec.ofNat 8 (((List.range 8).find? (fun i => p.1.getLsbD i)).getD 0)) } }
    else s
  ((StartMasks r).zipIdx).foldl put s

/-- The ports that step 3 has trained: STATUS bit 2, and the Levanter and Ethernet ports that are up (R414, R391). -/
def State.portsUp (s : State) (r : StartRun) : State :=
  { s with
    host := { s.host with status := 4#64 }
    links := { s.links with up := r.portsUp, eth := r.eth, acked := (List.range 24).map (fun p => (p, s.dcc.toNat)) } }

/-- Memory as step 7 initialises it: all of it, where a warm start does not keep it (R414); a kept grade map that is not
consistent makes the start go on as a cold one here. -/
def State.initMemory (s : State) (r : StartRun) (warm : Bool) : State :=
  let s := if warm && r.gradesGood then s else { s with gal := {}, dram := {}, errs := [] }
  { s with board := { s.board with memReady := true } }

/-- What the steps of a start after step `k`, up to number `n`, leave (R414). -/
def State.stepsDone (s : State) (r : StartRun) (warm : Bool) (k n : Nat) : State :=
  let at' (i : Nat) : Bool := k < i && i ≤ n
  let s := if at' 2 then { s with board := { s.board with fw := s.board.nextFw, staged := none } } else s
  let s := if at' 3 then s.portsUp r else s
  let s := if at' 5 then s.bist r else s
  let s := if at' 6 then { s with board := { s.board with jpq := jpqOf r } } else s
  if at' 7 then s.initMemory r warm else s

/-- The start stops at a step: it goes on later, or the outside world interrupts it after it. -/
def State.stopsAt (s : State) (p : Phase) : State := { s with board := { s.board with phase := p } }

/-- A start has failed at a step (R416). DESIGN CHOICE: the spec does not number the codes of failures, and the code is a free
value (log entry 83). -/
def State.startFailed (s : State) (k : Nat) : State :=
  { s with board := { s.board with
      phase := .failed k, fails := s.board.fails + 1, failStep := k, failCode := Config.freeWord (s.freeAt 19 k) } }

/-- Safe mode: STATUS bit 1 is set, and the diagnostics report the failed step and its code (R416). -/
def State.enterSafe (s : State) : State :=
  { s.stopsAt .safe with host := { s.host with status := 2#64, diag := some (s.board.failStep, s.board.failCode) } }

/-- A counter is raised to a version (R419). -/
def Fuse.raise (f : Fuse) (v : Option U32) : Fuse :=
  match v with
  | some v => if f.rollback.toNat < v.toNat then { f with rollback := v } else f
  | none => f

/-- Ready is set (R414 step 8, R415, R416, R419). -/
def State.becomeReady (s : State) : State :=
  { s with
    host := { s.host with status := 5#64 }
    board := { s.board with
      phase := .ready, fails := 0, raiseTo := none, readyAt := some s.dcc
      fuseA := s.board.fuseA.raise s.board.raiseTo, fuseB := s.board.fuseB.raise s.board.raiseTo } }

/-- The steps of a start after step `k`, up to the one that fails or after which the start is interrupted; the DCC runs from
step 1 on (R22, R414). -/
def State.startSteps (s : State) (r : StartRun) (warm safe : Bool) (k : Nat) : State :=
  let s := { s with dcc := if s.dcc.toNat < r.dcc.toNat then r.dcc else s.dcc }
  let last := if safe then 3 else 8
  let done (n : Nat) : State := if safe then s.stepsDone r warm k (min 2 n) else s.stepsDone r warm k (min 7 n)
  match s.startFails r warm safe k with
  | some f => if f ≤ r.upTo then (done (f - 1)).startFailed f else (done r.upTo).stopsAt (.partway r.upTo)
  | none =>
    if r.upTo < last then (done r.upTo).stopsAt (.partway r.upTo)
    else if safe then (done 3).enterSafe
    else (done 7).becomeReady

/-- The next start enters safe mode (R416). -/
def Board.toSafe (b : Board) : Bool := 3 ≤ b.fails

/-- A start: with no lock of the PLL it waits for the timeout (R414 step 1). -/
def State.start (s : State) (r : StartRun) (warm : Bool) : State :=
  let s := s.cleared warm
  if !r.pllLocks || r.upTo = 0 then s.stopsAt .waitPll else s.startSteps r warm s.board.toSafe 1

/-- MAIN_POWER_APPLIED: a cold start (R414). -/
def execMainPowerApplied (s : State) : Host.Outcome State Fault Refusal :=
  match s.inp with
  | .start r => if s.board.phase = .off then .next (s.start r false) else notYet "MAIN_POWER_APPLIED"
  | _ => notYet "MAIN_POWER_APPLIED"

/-- HOST_RESET: abandons a start in progress and begins a new one, warm where the board controller has kept memory that was
initialised and has set the retention flag; it leaves safe mode, cold and with the count of failed starts at 0 (R414-R416,
R422). -/
def execHostReset (s : State) : Host.Outcome State Fault Refusal :=
  match s.inp with
  | .start r =>
    if s.board.phase = .off then notYet "HOST_RESET"
    else if s.board.phase = .safe then
      .next (({ s with board := { s.board with fails := 0, retained := false } } : State).start r false)
    else
      let warm := r.retained && s.board.memReady
      .next (({ s with board := { s.board with retained := warm } } : State).start r warm)
  | _ => notYet "HOST_RESET"

/-- PLL_LOCK_TIMEOUT: no lock within 10 ms: the start has failed (R414, R416). -/
def execPllLockTimeout (s : State) : Host.Outcome State Fault Refusal :=
  if s.board.phase = .waitPll then
    .next (s.startFailed 1)
  else notYet "PLL_LOCK_TIMEOUT"

/-! ## Power and temperature (R418) -/

/-- The module without main power: what the board controller and the fuses hold stays. DESIGN CHOICE: R371 says that no
completion record is lost and the spec does not say what becomes of one that still waits for room in its ring when power goes;
it is dropped, and no trip record names its launch, which has ended (log entry 84). -/
def State.powerOff (s : State) : State :=
  let t := s.cleared false
  { t with gal := {}, dram := {}, board := { t.board with phase := .off, retained := false } }

/-- MAIN_POWER_REMOVED (R5): launches in progress get no completion record. -/
def execMainPowerRemoved (s : State) : Host.Outcome State Fault Refusal :=
  if s.board.phase = .off then notYet "MAIN_POWER_REMOVED" else .next s.powerOff

/-- The governor pre-empts the team of a slot; one that is stopped for the debugger is saved once it has been resumed
(R308, R418). -/
def State.preempt (s : State) (slot : Nat) : State :=
  let c := s.cluster slot
  if c.stopped && !c.saving then
    s.updCluster slot (fun c => if c.drain.isSome then c else { c with drain := some { since := s.dcc.toNat } })
  else s.raiseDrain slot

/-- THERMAL_PREEMPT: at 105 °C every bound team is asked to drain, and no team is bound (R418). -/
def execThermalPreempt (s : State) : Host.Outcome State Fault Refusal :=
  if s.board.hot || !s.isReady then notYet "THERMAL_PREEMPT"
  else .next ((s.clusters.map (·.1)).foldl State.preempt { s with board := { s.board with hot := true } })

/-- THERMAL_RECOVER: below 95 °C teams may be bound again (R418). -/
def execThermalRecover (s : State) : Host.Outcome State Fault Refusal :=
  if s.board.hot then .next { s with board := { s.board with hot := false } } else notYet "THERMAL_RECOVER"

/-- THERMAL_TRIP: the record names the die, the DCC and every launch in progress, among them every one that had a team
bound; then main power goes (R5, R418). A record that has not been read is kept beside it (R5). -/
def execThermalTrip (s : State) : Host.Outcome State Fault Refusal :=
  match s.inp with
  | .die b =>
    if s.board.phase = .off then notYet "THERMAL_TRIP"
    else
      let ls := s.boss.launches.map (fun l => (l.queue, l.index))
      let t := s.powerOff
      .next { t with board := { t.board with trips := s.board.trips ++ [(b, s.dcc, ls)] } }
  | _ => notYet "THERMAL_TRIP"

/-- THERMAL_TRIP_RECORD_READ: the host reads the oldest record once the start is ready, and the read clears it (R418). -/
def execThermalTripRecordRead (s : State) : Host.Outcome State Fault Refusal :=
  if s.isReady && !(s.board.trips.isEmpty) then .next { s with board := { s.board with trips := s.board.trips.tail } }
  else notYet "THERMAL_TRIP_RECORD_READ"

/-! ## Firmware and attestation (R419, R420) -/

/-- FIRMWARE_UPDATE: in safe mode an image that both dies accept is what the next start
runs; the counter follows after a start with it reaches ready (R416, R419). Another image is refused. -/
def execFirmwareUpdate (s : State) : Host.Outcome State Fault Refusal :=
  match s.inp with
  | .image f =>
    if s.board.phase ≠ .safe then notYet "FIRMWARE_UPDATE"
    else if s.board.accepts f then .next { s with board := { s.board with staged := some f, raiseTo := some f.version } }
    else .next s
  | _ => notYet "FIRMWARE_UPDATE"

/-- The report that answers a nonce, before its signature (R420); CTR is the counter of die A, with which that of die B is
raised (log entry 83). -/
def State.reportBody (s : State) (n : BitVec 512) : List Byte :=
  let service := (List.range 64).foldl (fun a i => if sget 0 s.boss.slots i = 3 then a else a + 2 ^ i) 0
  leBytes 64 n.toNat ++ leBytes 64 Config.romDigest.toNat ++ leBytes 64 s.board.fw.digest.toNat ++
    leBytes 64 s.board.fw.shadow.toNat ++ leBytes 4 s.board.fw.version.toNat ++ leBytes 4 s.board.fuseA.rollback.toNat ++
    leBytes 8 service ++ leBytes 4 (if s.board.phase = .safe then 1 else 0) ++ List.replicate 12 0#8

/-- ATTESTATION_REQUEST: the signed report is returned to the host (R420). -/
def execAttestationRequest (s : State) : Host.Outcome State Fault Refusal :=
  match s.inp with
  | .nonce n =>
    if s.board.phase = .ready || s.board.phase = .safe then
      let b := s.reportBody n
      .next { s with board := { s.board with reports := s.board.reports ++ [b ++ (leBytes 132 (Config.sign b).toNat).reverse] } }
    else notYet "ATTESTATION_REQUEST"
  | _ => notYet "ATTESTATION_REQUEST"

/-! ## The die link (R383, R421) -/

/-- The die that holds a location: the capacity tier alternates between the dies in 4 KiB granules (R350). -/
def Loc.die : Loc → Nat
  | .gal l => galDie l
  | .mem b =>
    match memNode (64 * b) with
    | some 0 => 0
    | some 1 => 1
    | _ => (64 * b) / 4096 % 2

/-- What a line of a command's 64-bit address has to do with the other die: nothing where it cannot be accessed. -/
def State.lineCrosses (s : State) (slot a : Nat) (write : Bool) : Bool :=
  match s.wzAt a write with
  | .mem pa => (Loc.mem (pa / 64)).die ≠ dieOf slot
  | .gal l => (Loc.gal l).die ≠ dieOf slot
  | _ => false

/-- A range of addresses has a line on the other die. -/
def State.rangeCrosses (s : State) (slot a n : Nat) (write : Bool) : Bool :=
  (splitLines a n).any (fun q => s.lineCrosses slot (64 * q.1 + q.2.1) write)

/-- Lines of device memory, against the die of a slot: the capacity tier has granules on both dies (R350, R353). -/
def linesCross (slot : Nat) (ls : List Nat) : Bool := ls.any (fun pa => (Loc.mem (pa / 64)).die ≠ dieOf slot)

/-- The bytes and the descriptor of a line that a command reads: as it has read it, else as it stands. -/
def State.lineNow (s : State) (m : Cmd) (pa : Nat) : List Byte × U16 :=
  match s.lineRead m pa with
  | some r => (r.bytes, r.tag)
  | none => (s.locBytes (.mem (pa / 64)), s.locTag (.mem (pa / 64)))

/-- The operands of an `mx` or `pan` command behind handles, and its tile, by the lines that they take (R353). -/
def State.headCrosses (s : State) (slot : Nat) (m : Cmd) : Bool :=
  match mxOf m.instr, panOf m.instr with
  | some (o, w), _ =>
    let rows := w.m1.toNat + 1
    let n := if o = 0x03 then 128 * rows else if o = 0x04 then 144 else mxReads o w
    let t := (tileAddr m w).toNat
    linesCross slot ((m.src w.x).span (mxLay o w) 0 n) ||
      (o ∈ [0x00, 0x08] && linesCross slot ((m.src w.bin).span imageLay 0 rows)) ||
      (readsTile o && (s.lineCrosses slot t false ||
        (match s.vaLine t with
          | some pa => let hd := (s.lineNow m pa).1
                       (slabBlocks t (headBps hd) (List.range (headK hd))).any (fun a => s.lineCrosses slot a false)
          | none => false)))
  | none, some (o, w) =>
    let x := m.src w.lg
    let d := (x.baseLine.head?.map (fun pa => (s.lineNow m pa).2)).getD dtZero
    let l := panLay (m.panN w) (if o = 0 then 8 else if logitFmt (descFmt d) then fmtBits (descFmt d) / 8 else 4)
    linesCross slot x.baseLine || (List.range (panRows w)).any (fun j => linesCross slot (x.span l (l.cols * j) (m.panN w)))
  | none, none => false

/-- Where a Winze command that has not written yet will write, against the die of a slot; none where its data say how
much it writes. Once it has written, its accesses tell. -/
def State.wzOutCrosses (s : State) (slot : Nat) (m : Cmd) (opc : Nat) (w : WzWord) : Option Bool :=
  let da := (m.a w.da).toNat
  let b := (m.s w.ls).toNat
  let open' (x : Bool) : Option Bool := if x then some true else none
  if m.data.phase = 2 || m.wzBadLen opc w || (opc = 0x09 && m.node w ≠ s.links.node) then some false
  else if opc = 0x02 || (opc ∈ [0x00, 0x01, 0x09] && w.df = 0#7) then some (s.rangeCrosses slot da b true)
  else if opc ∈ [0x03, 0x05] && w.df = 0#7 then
    match m.wzShape w (if opc = 0x03 then 2 else 4) with
    | some h => some ((List.range h.count).any (fun e => !(h.out e && w.pm = 2#2) && s.rangeCrosses slot (da + h.esz * e) h.esz true))
    | none => some false
  else if opc ∈ [0x04, 0x06] then
    match m.wzShape w (if opc = 0x04 then 2 else 4) with
    | some h => some ((List.range h.count).any (fun e => !(h.out e && w.pm ≠ 0#2) && s.rangeCrosses slot (h.addr da e) h.esz true))
    | none => some false
  else open' (s.lineCrosses slot da true)

/-- What a running or queued command has to do with the other die, by its addresses (R353, R368, R383): a Winze command by
the ranges it reads and writes, a matrix or sampling command by its operands and its tile. -/
def State.cmdCrosses (s : State) (slot : Nat) (m : Cmd) : List (Option Bool) :=
  some (m.chain.isNone && s.headCrosses slot m) ::
  (match wzOf m.instr with
    | some (o, w) =>
      let m := s.wzTakeShape m o w
      if m.chain.isSome || o = 0x0A then []
      else [some (m.data.phase < 2 && (m.wzNeeds o w).any (fun r => s.rangeCrosses slot r.1 r.2.1 r.2.2)), s.wzOutCrosses slot m o w]
    | none => [])

/-- The engine commands of a slot that have to do with the other die (log entry 4). -/
def State.cmdsCross (s : State) (slot : Nat) : List (Option Bool) :=
  ((s.cluster slot).cores.zipIdx).flatMap (fun p =>
    (p.1.units.mxq ++ p.1.units.wzq ++ p.1.units.panq).flatMap (State.cmdCrosses { s with cur := 8 * slot + p.2 } slot))

/-- A cluster has a cross-die access or engine command outstanding (R383): an access that has not performed, a reply on its
way, or a running or queued command with addresses on the other die. Where the data of a command decide its addresses it is a
free choice (log entry 4). -/
def State.crossing (s : State) (slot : Nat) : Bool :=
  let owned := (s.cluster slot).cores.flatMap Core.owned
  let cs := s.cmdsCross slot
  s.acc.any (fun a => a.slot = slot && a.loc.die ≠ dieOf slot) ||
    s.replies.any (fun r => !r.arrived && owned.contains r.id && r.loc.die ≠ dieOf slot) ||
    cs.contains (some true) || (cs.contains none && Config.freeBit (s.freeAt 9 slot))

/-- What a core loses with the die link: operations that wait for accesses that will not perform, and engine commands that
need the other die, with a wait for the token of one; `gone` names the accesses and `lost` the commands. -/
def Core.loseWork (c : Core) (gone : List Nat) (lost : Cmd → Bool) : Core :=
  let hit (ids : List Nat) : Bool := ids.any gone.contains
  let fs (l : List Flight) : List Flight := l.filter (fun f => !(hit f.ids))
  let vs (l : List VOp) : List VOp := l.filter (fun v => !(hit (v.ids ++ v.stores.map (·.2))))
  let xs (l : List LsVec) : List LsVec := l.filter (fun x => !(hit (x.ids.map (fun i => i.2.2))))
  let toks := ((c.units.mxq ++ c.units.wzq ++ c.units.panq).filter lost).map (fun m => m.com.kout.toNat)
  let wait (k : Option Nat) : Option Nat := k.filter (fun i => !(toks.contains i))
  { c with
    pipe := { c.pipe with
      flights := fs c.pipe.flights, vops := vs c.pipe.vops, lsv := xs c.pipe.lsv, twait := wait c.pipe.twait
      reissue := c.pipe.reissue.filter (fun a => !(gone.contains a.id))
      hidden := c.pipe.hidden.map (fun h =>
        { h with flights := fs h.flights, vops := vs h.vops, lsv := xs h.lsv, twait := wait h.twait }) }
    units := { c.units with
      mxq := c.units.mxq.filter (fun m => !(lost m)), wzq := c.units.wzq.filter (fun m => !(lost m))
      panq := c.units.panq.filter (fun m => !(lost m)) } }

/-- The accesses of a slot that the loss of the die link keeps from performing or from being answered. -/
def State.lostAccesses (s : State) (slot : Nat) : List Nat :=
  let owned := (s.cluster slot).cores.flatMap Core.owned
  ((s.acc.filter (fun a => a.slot = slot && a.loc.die ≠ dieOf slot)).map (fun a => a.id)) ++
    ((s.replies.filter (fun r => !r.arrived && owned.contains r.id && r.loc.die ≠ dieOf slot)).map (fun r => r.id))

/-- The team of a slot takes LINK_LOST: what needs the other die stops with what has performed (R4), and the event is raised
for the next boundary, at which it is taken as any other: when a hold that stands ends, and as DOUBLE in handler mode (R296,
R298, R303, R308; log entry 57). -/
def State.loseTeam (s : State) (slot : Nat) : State :=
  let gone := s.lostAccesses slot
  let open' := Config.freeBit (s.freeAt 9 slot)
  let lost (i : Nat) (m : Cmd) : Bool :=
    let cs := State.cmdCrosses { s with cur := 8 * slot + i } slot m
    cs.contains (some true) || (cs.contains none && open')
  let x : Cause := { cls := 7, strm := (s.cluster slot).live.headD 0, eng := false, code := 0, tval := 0#64 }
  ({ s with
    acc := s.acc.filter (fun a => !(a.slot = slot && gone.contains a.id))
    replies := s.replies.filter (fun r => !(gone.contains r.id)) } : State).updCluster slot (fun c =>
    { c with cores := c.cores.mapIdx (fun i k => k.loseWork gone (lost i)), lateIn := c.lateIn ++ [x] })

/-- While the die link is lost, teams that have cross-die work outstanding take LINK_LOST (R383; log entry 57). -/
def State.cutTeams (s : State) : State :=
  if s.isReady && !(s.host.status.getLsbD 2) then ((s.clusters.map (·.1)).filter s.crossing).foldl State.loseTeam s else s

/-- DIE_LINK_LOSS (R383): STATUS bit 2 clears; teams with cross-die work outstanding take LINK_LOST; every launch with a
bound team or a Gallery allocation binds no further team, and its other teams run on: a drain request of theirs falls
away. -/
def execDieLinkLoss (s : State) : Host.Outcome State Fault Refusal :=
  if !(s.host.status.getLsbD 2) then notYet "DIE_LINK_LOSS"
  else
    let old := s
    let s := { s with host := { s.host with status := s.host.status &&& ~~~4#64 }, links := { s.links with retrains := 0, retrainAsked := false } }
    let lost := (s.clusters.map (·.1)).filter s.crossing
    let hit (l : Launch) : Bool := l.galUnits ≠ 0 || !(s.slotsOf l.id).isEmpty
    let ids := (s.boss.launches.filter (fun l => l.dead.isNone && hit l)).map Launch.id
    let s := { s with boss := { s.boss with
      launches := s.boss.launches.map (fun l => { l with cut := l.cut || hit l, dead := if ids.contains l.id then some 1 else l.dead })
      saved := s.boss.saved.filter (fun x => !(ids.contains x.launch)) } }
    let s := lost.foldl State.loseTeam s
    let s := (ids.flatMap s.slotsOf).foldl (fun s k => s.updCluster k (fun c =>
      if c.saving || c.stopped then c else { c with drain := none, polite := false })) s
    .next ((ids.foldl State.settleLaunch s).refresh old)

/-- DIE_LINK_RETRAIN_REQUEST: the host asks for a retrain of the lost link (R421). -/
def execDieLinkRetrainRequest (s : State) : Host.Outcome State Fault Refusal :=
  if s.host.status.getLsbD 2 || !s.isReady then notYet "DIE_LINK_RETRAIN_REQUEST"
  else .next { s with links := { s.links with retrainAsked := true } }

/-- A retrain may be tried: it was asked for, fewer than three have failed, and no launch affected by the loss has a team
bound (R421, R422). -/
def State.mayRetrain (s : State) : Bool :=
  s.links.retrainAsked && s.links.retrains < 3 && !(s.host.status.getLsbD 2) &&
    !(s.boss.launches.any (fun l => l.cut && !(s.slotsOf l.id).isEmpty))

/-- DIE_LINK_RETRAIN: success sets STATUS bit 2; after three failures only a cold start restores the link (R421). -/
def execDieLinkRetrain (s : State) : Host.Outcome State Fault Refusal :=
  match s.inp with
  | .verdict ok =>
    if !s.mayRetrain then notYet "DIE_LINK_RETRAIN"
    else if ok then
      .next { s with host := { s.host with status := s.host.status ||| 4#64 }, links := { s.links with retrains := 0, retrainAsked := false } }
    else .next { s with links := { s.links with retrains := s.links.retrains + 1, retrainAsked := false } }
  | _ => notYet "DIE_LINK_RETRAIN"

/-! ## A DCC cycle of the module -/

/-- BUNDLE_ISSUE: one DCC cycle of the module: on every bound cluster that nothing holds the bundles due issue and take
effect, and everything due in the cycle happens with them (R21-R31); replies to page requests that came in it take effect at
its end (R404), and while the die link is lost a team that has come to need it takes LINK_LOST (R383). During a start that
stands partway a cycle may bring the results of further steps (log entry 60). -/
def execBundleIssue (s : State) : Host.Outcome State Fault Refusal :=
  match s.board.phase, s.inp with
  | .partway k, .start r =>
    if k < r.upTo then .next (s.startSteps r s.board.retained s.board.toSafe k) else notYet "BUNDLE_ISSUE"
  | _, _ => onNext (s.withSram s.inp).tick (fun s => .next s.takeAnswers.cutTeams)

end Sys2Proof.Machine
end

