-- ==== Sys2Proof/Machine/Dispatch.lean ====
section
/-! DEFINITION. The meaning of every row of the opcode table: one call per constructor of `Instr`. -/
namespace Sys2Proof.Machine

open Sys2Proof

/-- What one instruction or one step of the device does to the state. -/
def exec (i : Instr) (s : State) : Host.Outcome State Fault Refusal :=
  match i with
  | .move du ds t => Sys2Proof.Machine.execMove du ds t s
  | .sflagWrite t => Sys2Proof.Machine.execSflagWrite t s
  | .iaAdd u t => Sys2Proof.Machine.execIaAdd u t s
  | .iaSub u t => Sys2Proof.Machine.execIaSub u t s
  | .iaAdds u t => Sys2Proof.Machine.execIaAdds u t s
  | .iaSubs u t => Sys2Proof.Machine.execIaSubs u t s
  | .iaAddus u t => Sys2Proof.Machine.execIaAddus u t s
  | .iaSubus u t => Sys2Proof.Machine.execIaSubus u t s
  | .iaMin u t => Sys2Proof.Machine.execIaMin u t s
  | .iaMax u t => Sys2Proof.Machine.execIaMax u t s
  | .iaMinu u t => Sys2Proof.Machine.execIaMinu u t s
  | .iaMaxu u t => Sys2Proof.Machine.execIaMaxu u t s
  | .iaAnd u t => Sys2Proof.Machine.execIaAnd u t s
  | .iaOr u t => Sys2Proof.Machine.execIaOr u t s
  | .iaXor u t => Sys2Proof.Machine.execIaXor u t s
  | .iaShl u t => Sys2Proof.Machine.execIaShl u t s
  | .iaShr u t => Sys2Proof.Machine.execIaShr u t s
  | .iaSar u t => Sys2Proof.Machine.execIaSar u t s
  | .iaRotl u t => Sys2Proof.Machine.execIaRotl u t s
  | .iaClz u t => Sys2Proof.Machine.execIaClz u t s
  | .iaCtz u t => Sys2Proof.Machine.execIaCtz u t s
  | .iaPopc u t => Sys2Proof.Machine.execIaPopc u t s
  | .iaExt u t => Sys2Proof.Machine.execIaExt u t s
  | .iaExtu u t => Sys2Proof.Machine.execIaExtu u t s
  | .iaIns u t => Sys2Proof.Machine.execIaIns u t s
  | .iaCeq u t => Sys2Proof.Machine.execIaCeq u t s
  | .iaCne u t => Sys2Proof.Machine.execIaCne u t s
  | .iaClt u t => Sys2Proof.Machine.execIaClt u t s
  | .iaCle u t => Sys2Proof.Machine.execIaCle u t s
  | .iaCltu u t => Sys2Proof.Machine.execIaCltu u t s
  | .iaCleu u t => Sys2Proof.Machine.execIaCleu u t s
  | .iaMul u t => Sys2Proof.Machine.execIaMul u t s
  | .iaMulh u t => Sys2Proof.Machine.execIaMulh u t s
  | .iaMulhu u t => Sys2Proof.Machine.execIaMulhu u t s
  | .iaDiv u t => Sys2Proof.Machine.execIaDiv u t s
  | .iaDivu u t => Sys2Proof.Machine.execIaDivu u t s
  | .iaRem u t => Sys2Proof.Machine.execIaRem u t s
  | .iaRemu u t => Sys2Proof.Machine.execIaRemu u t s
  | .agAdd u t => Sys2Proof.Machine.execAgAdd u t s
  | .agSub u t => Sys2Proof.Machine.execAgSub u t s
  | .agAddx u t => Sys2Proof.Machine.execAgAddx u t s
  | .agAnd u t => Sys2Proof.Machine.execAgAnd u t s
  | .agLtu u t => Sys2Proof.Machine.execAgLtu u t s
  | .agBnd u t => Sys2Proof.Machine.execAgBnd u t s
  | .agKv u t => Sys2Proof.Machine.execAgKv u t s
  | .agKvmax u t => Sys2Proof.Machine.execAgKvmax u t s
  | .agKvlen u t => Sys2Proof.Machine.execAgKvlen u t s
  | .agKvget u t => Sys2Proof.Machine.execAgKvget u t s
  | .ctlPbr t => Sys2Proof.Machine.execCtlPbr t s
  | .ctlBr t => Sys2Proof.Machine.execCtlBr t s
  | .ctlCall t => Sys2Proof.Machine.execCtlCall t s
  | .ctlRet t => Sys2Proof.Machine.execCtlRet t s
  | .ctlLoop t => Sys2Proof.Machine.execCtlLoop t s
  | .ctlJt t => Sys2Proof.Machine.execCtlJt t s
  | .ctlTwait t => Sys2Proof.Machine.execCtlTwait t s
  | .ctlTpoll t => Sys2Proof.Machine.execCtlTpoll t s
  | .ctlSkip t => Sys2Proof.Machine.execCtlSkip t s
  | .ctlLbrk t => Sys2Proof.Machine.execCtlLbrk t s
  | .ctlPand t => Sys2Proof.Machine.execCtlPand t s
  | .ctlPor t => Sys2Proof.Machine.execCtlPor t s
  | .ctlPxor t => Sys2Proof.Machine.execCtlPxor t s
  | .lsLd w t => Sys2Proof.Machine.execLsLd w t s
  | .lsLdn w t => Sys2Proof.Machine.execLsLdn w t s
  | .lsLdf w t => Sys2Proof.Machine.execLsLdf w t s
  | .lsLdh w t => Sys2Proof.Machine.execLsLdh w t s
  | .lsSt w t => Sys2Proof.Machine.execLsSt w t s
  | .lsStn w t => Sys2Proof.Machine.execLsStn w t s
  | .lsStf w t => Sys2Proof.Machine.execLsStf w t s
  | .lsSth w t => Sys2Proof.Machine.execLsSth w t s
  | .lsVld t => Sys2Proof.Machine.execLsVld t s
  | .lsVst t => Sys2Proof.Machine.execLsVst t s
  | .lsVldh t => Sys2Proof.Machine.execLsVldh t s
  | .lsVsth t => Sys2Proof.Machine.execLsVsth t s
  | .lsXlat t => Sys2Proof.Machine.execLsXlat t s
  | .lsPreq t => Sys2Proof.Machine.execLsPreq t s
  | .lsMeta t => Sys2Proof.Machine.execLsMeta t s
  | .lsSetmeta t => Sys2Proof.Machine.execLsSetmeta t s
  | .lsLdd t => Sys2Proof.Machine.execLsLdd t s
  | .lsStd t => Sys2Proof.Machine.execLsStd t s
  | .lsFence t => Sys2Proof.Machine.execLsFence t s
  | .lsPst t => Sys2Proof.Machine.execLsPst t s
  | .gaAdd t => Sys2Proof.Machine.execGaAdd t s
  | .gaAnd t => Sys2Proof.Machine.execGaAnd t s
  | .gaOr t => Sys2Proof.Machine.execGaOr t s
  | .gaXor t => Sys2Proof.Machine.execGaXor t s
  | .gaMaxs t => Sys2Proof.Machine.execGaMaxs t s
  | .gaMins t => Sys2Proof.Machine.execGaMins t s
  | .gaSwap t => Sys2Proof.Machine.execGaSwap t s
  | .gaCas t => Sys2Proof.Machine.execGaCas t s
  | .gaFadd t => Sys2Proof.Machine.execGaFadd t s
  | .gaFmax t => Sys2Proof.Machine.execGaFmax t s
  | .gaMdraw t => Sys2Proof.Machine.execGaMdraw t s
  | .gaBar t => Sys2Proof.Machine.execGaBar t s
  | .gaAddFar t => Sys2Proof.Machine.execGaAddFar t s
  | .gaAndFar t => Sys2Proof.Machine.execGaAndFar t s
  | .gaOrFar t => Sys2Proof.Machine.execGaOrFar t s
  | .gaXorFar t => Sys2Proof.Machine.execGaXorFar t s
  | .gaMaxsFar t => Sys2Proof.Machine.execGaMaxsFar t s
  | .gaMinsFar t => Sys2Proof.Machine.execGaMinsFar t s
  | .gaSwapFar t => Sys2Proof.Machine.execGaSwapFar t s
  | .gaCasFar t => Sys2Proof.Machine.execGaCasFar t s
  | .gaFaddFar t => Sys2Proof.Machine.execGaFaddFar t s
  | .gaFmaxFar t => Sys2Proof.Machine.execGaFmaxFar t s
  | .gaMdrawFar t => Sys2Proof.Machine.execGaMdrawFar t s
  | .gaBarFar t => Sys2Proof.Machine.execGaBarFar t s
  | .xcSnd t => Sys2Proof.Machine.execXcSnd t s
  | .xcBcs t => Sys2Proof.Machine.execXcBcs t s
  | .xcRcv t => Sys2Proof.Machine.execXcRcv t s
  | .xcSync t => Sys2Proof.Machine.execXcSync t s
  | .qCfg t => Sys2Proof.Machine.execQCfg t s
  | .qClr t => Sys2Proof.Machine.execQClr t s
  | .qCnt t => Sys2Proof.Machine.execQCnt t s
  | .qLink t => Sys2Proof.Machine.execQLink t s
  | .zSet t => Sys2Proof.Machine.execZSet t s
  | .zRst t => Sys2Proof.Machine.execZRst t s
  | .zPos t => Sys2Proof.Machine.execZPos t s
  | .panMerge t => Sys2Proof.Machine.execPanMerge t s
  | .panRand t => Sys2Proof.Machine.execPanRand t s
  | .panCtr t => Sys2Proof.Machine.execPanCtr t s
  | .panClrf t => Sys2Proof.Machine.execPanClrf t s
  | .verCfg t => Sys2Proof.Machine.execVerCfg t s
  | .verCand t => Sys2Proof.Machine.execVerCand t s
  | .verChk t => Sys2Proof.Machine.execVerChk t s
  | .verFin t => Sys2Proof.Machine.execVerFin t s
  | .verSetf t => Sys2Proof.Machine.execVerSetf t s
  | .verStop t => Sys2Proof.Machine.execVerStop t s
  | .sysHalt t => Sys2Proof.Machine.execSysHalt t s
  | .sysTret t => Sys2Proof.Machine.execSysTret t s
  | .sysIfence t => Sys2Proof.Machine.execSysIfence t s
  | .sysTrap t => Sys2Proof.Machine.execSysTrap t s
  | .sysBrk t => Sys2Proof.Machine.execSysBrk t s
  | .sysTmark t => Sys2Proof.Machine.execSysTmark t s
  | .sysTarm t => Sys2Proof.Machine.execSysTarm t s
  | .sysTfrz t => Sys2Proof.Machine.execSysTfrz t s
  | .sysTmrs t => Sys2Proof.Machine.execSysTmrs t s
  | .sysTmrc t => Sys2Proof.Machine.execSysTmrc t s
  | .sysYield t => Sys2Proof.Machine.execSysYield t s
  | .sysSeed t => Sys2Proof.Machine.execSysSeed t s
  | .sysDi t => Sys2Proof.Machine.execSysDi t s
  | .sysEi t => Sys2Proof.Machine.execSysEi t s
  | .vxMov w => Sys2Proof.Machine.execVxMov w s
  | .vxAdd w => Sys2Proof.Machine.execVxAdd w s
  | .vxSub w => Sys2Proof.Machine.execVxSub w s
  | .vxMul w => Sys2Proof.Machine.execVxMul w s
  | .vxMulz w => Sys2Proof.Machine.execVxMulz w s
  | .vxDiv w => Sys2Proof.Machine.execVxDiv w s
  | .vxMin w => Sys2Proof.Machine.execVxMin w s
  | .vxMax w => Sys2Proof.Machine.execVxMax w s
  | .vxAbs w => Sys2Proof.Machine.execVxAbs w s
  | .vxNeg w => Sys2Proof.Machine.execVxNeg w s
  | .vxAnd w => Sys2Proof.Machine.execVxAnd w s
  | .vxOr w => Sys2Proof.Machine.execVxOr w s
  | .vxXor w => Sys2Proof.Machine.execVxXor w s
  | .vxShl w => Sys2Proof.Machine.execVxShl w s
  | .vxShr w => Sys2Proof.Machine.execVxShr w s
  | .vxSar w => Sys2Proof.Machine.execVxSar w s
  | .vxFma w => Sys2Proof.Machine.execVxFma w s
  | .vxFms w => Sys2Proof.Machine.execVxFms w s
  | .vxFnma w => Sys2Proof.Machine.execVxFnma w s
  | .vxSel w => Sys2Proof.Machine.execVxSel w s
  | .vxCeq w => Sys2Proof.Machine.execVxCeq w s
  | .vxCne w => Sys2Proof.Machine.execVxCne w s
  | .vxClt w => Sys2Proof.Machine.execVxClt w s
  | .vxCle w => Sys2Proof.Machine.execVxCle w s
  | .vxCnan w => Sys2Proof.Machine.execVxCnan w s
  | .vxMget w => Sys2Proof.Machine.execVxMget w s
  | .vxMput w => Sys2Proof.Machine.execVxMput w s
  | .vxMcnt w => Sys2Proof.Machine.execVxMcnt w s
  | .vxExp2 w => Sys2Proof.Machine.execVxExp2 w s
  | .vxLog2 w => Sys2Proof.Machine.execVxLog2 w s
  | .vxRcp w => Sys2Proof.Machine.execVxRcp w s
  | .vxRsqrt w => Sys2Proof.Machine.execVxRsqrt w s
  | .vxSqrt w => Sys2Proof.Machine.execVxSqrt w s
  | .vxExp w => Sys2Proof.Machine.execVxExp w s
  | .vxTanh w => Sys2Proof.Machine.execVxTanh w s
  | .vxSigm w => Sys2Proof.Machine.execVxSigm w s
  | .vxSilu w => Sys2Proof.Machine.execVxSilu w s
  | .vxGelu w => Sys2Proof.Machine.execVxGelu w s
  | .vxSin w => Sys2Proof.Machine.execVxSin w s
  | .vxCos w => Sys2Proof.Machine.execVxCos w s
  | .vxRsum w => Sys2Proof.Machine.execVxRsum w s
  | .vxRmax w => Sys2Proof.Machine.execVxRmax w s
  | .vxRmin w => Sys2Proof.Machine.execVxRmin w s
  | .vxRmaxi w => Sys2Proof.Machine.execVxRmaxi w s
  | .vxScan w => Sys2Proof.Machine.execVxScan w s
  | .vxTrn w => Sys2Proof.Machine.execVxTrn w s
  | .vxGth w => Sys2Proof.Machine.execVxGth w s
  | .vxSct w => Sys2Proof.Machine.execVxSct w s
  | .vxDot w => Sys2Proof.Machine.execVxDot w s
  | .vxCvt w => Sys2Proof.Machine.execVxCvt w s
  | .vxBndLip w => Sys2Proof.Machine.execVxBndLip w s
  | .vxBndCvt w => Sys2Proof.Machine.execVxBndCvt w s
  | .vxBndAdd w => Sys2Proof.Machine.execVxBndAdd w s
  | .vxShape w => Sys2Proof.Machine.execVxShape w s
  | .vxClamp w => Sys2Proof.Machine.execVxClamp w s
  | .mxStep w => Sys2Proof.Machine.execMxStep w s
  | .mxRes w => Sys2Proof.Machine.execMxRes w s
  | .mxZero w => Sys2Proof.Machine.execMxZero w s
  | .mxDrain w => Sys2Proof.Machine.execMxDrain w s
  | .mxAssay w => Sys2Proof.Machine.execMxAssay w s
  | .mxCurGet w => Sys2Proof.Machine.execMxCurGet w s
  | .mxCurSet w => Sys2Proof.Machine.execMxCurSet w s
  | .mxBias w => Sys2Proof.Machine.execMxBias w s
  | .mxSurvey w => Sys2Proof.Machine.execMxSurvey w s
  | .mxLoad w => Sys2Proof.Machine.execMxLoad w s
  | .mxAset w => Sys2Proof.Machine.execMxAset w s
  | .mxMark w => Sys2Proof.Machine.execMxMark w s
  | .panDraw w => Sys2Proof.Machine.execPanDraw w s
  | .panShort w => Sys2Proof.Machine.execPanShort w s
  | .panPen w => Sys2Proof.Machine.execPanPen w s
  | .panBias w => Sys2Proof.Machine.execPanBias w s
  | .panScale w => Sys2Proof.Machine.execPanScale w s
  | .panFull w => Sys2Proof.Machine.execPanFull w s
  | .panLse w => Sys2Proof.Machine.execPanLse w s
  | .wzCopy w => Sys2Proof.Machine.execWzCopy w s
  | .wzCopyk w => Sys2Proof.Machine.execWzCopyk w s
  | .wzFill w => Sys2Proof.Machine.execWzFill w s
  | .wzGat2 w => Sys2Proof.Machine.execWzGat2 w s
  | .wzSct2 w => Sys2Proof.Machine.execWzSct2 w s
  | .wzGat4 w => Sys2Proof.Machine.execWzGat4 w s
  | .wzSct4 w => Sys2Proof.Machine.execWzSct4 w s
  | .wzExpd w => Sys2Proof.Machine.execWzExpd w s
  | .wzPack w => Sys2Proof.Machine.execWzPack w s
  | .wzRcopy w => Sys2Proof.Machine.execWzRcopy w s
  | .wzMark w => Sys2Proof.Machine.execWzMark w s
  | .mainPowerApplied => Sys2Proof.Machine.execMainPowerApplied s
  | .hostReset => Sys2Proof.Machine.execHostReset s
  | .pllLockTimeout => Sys2Proof.Machine.execPllLockTimeout s
  | .firmwareUpdate => Sys2Proof.Machine.execFirmwareUpdate s
  | .thermalPreempt => Sys2Proof.Machine.execThermalPreempt s
  | .thermalRecover => Sys2Proof.Machine.execThermalRecover s
  | .thermalTrip => Sys2Proof.Machine.execThermalTrip s
  | .thermalTripRecordRead => Sys2Proof.Machine.execThermalTripRecordRead s
  | .attestationRequest => Sys2Proof.Machine.execAttestationRequest s
  | .dieLinkLoss => Sys2Proof.Machine.execDieLinkLoss s
  | .dieLinkRetrainRequest => Sys2Proof.Machine.execDieLinkRetrainRequest s
  | .dieLinkRetrain => Sys2Proof.Machine.execDieLinkRetrain s
  | .queueCreate => Sys2Proof.Machine.execQueueCreate s
  | .queueDestroy => Sys2Proof.Machine.execQueueDestroy s
  | .doorbellWrite => Sys2Proof.Machine.execDoorbellWrite s
  | .submissionTake => Sys2Proof.Machine.execSubmissionTake s
  | .killWrite => Sys2Proof.Machine.execKillWrite s
  | .killackWrite => Sys2Proof.Machine.execKillackWrite s
  | .injectWrite => Sys2Proof.Machine.execInjectWrite s
  | .bar0RegisterWrite => Sys2Proof.Machine.execBar0RegisterWrite s
  | .sliceBoundary => Sys2Proof.Machine.execSliceBoundary s
  | .escalationWindowExpiry => Sys2Proof.Machine.execEscalationWindowExpiry s
  | .saveComplete => Sys2Proof.Machine.execSaveComplete s
  | .bind => Sys2Proof.Machine.execBind s
  | .teamStart => Sys2Proof.Machine.execTeamStart s
  | .gangAgreement => Sys2Proof.Machine.execGangAgreement s
  | .gangAgreementTimeout => Sys2Proof.Machine.execGangAgreementTimeout s
  | .teamRetirement => Sys2Proof.Machine.execTeamRetirement s
  | .completionRecordWrite => Sys2Proof.Machine.execCompletionRecordWrite s
  | .bundleIssue => Sys2Proof.Machine.execBundleIssue s
  | .holdEnd => Sys2Proof.Machine.execHoldEnd s
  | .canaryExpiry => Sys2Proof.Machine.execCanaryExpiry s
  | .memoryReplyArrival => Sys2Proof.Machine.execMemoryReplyArrival s
  | .resultCompletion => Sys2Proof.Machine.execResultCompletion s
  | .xcArrival => Sys2Proof.Machine.execXcArrival s
  | .trapEntry => Sys2Proof.Machine.execTrapEntry s
  | .timerFire => Sys2Proof.Machine.execTimerFire s
  | .accessLeave => Sys2Proof.Machine.execAccessLeave s
  | .accessAdvance => Sys2Proof.Machine.execAccessAdvance s
  | .accessPerform => Sys2Proof.Machine.execAccessPerform s
  | .engineCommandStart => Sys2Proof.Machine.execEngineCommandStart s
  | .engineCommandComplete => Sys2Proof.Machine.execEngineCommandComplete s
  | .remoteCopyPayload => Sys2Proof.Machine.execRemoteCopyPayload s
  | .linkFlitReceive => Sys2Proof.Machine.execLinkFlitReceive s
  | .linkAckTimeout => Sys2Proof.Machine.execLinkAckTimeout s
  | .timingMessage => Sys2Proof.Machine.execTimingMessage s
  | .dccSynchronised => Sys2Proof.Machine.execDccSynchronised s
  | .pageReply => Sys2Proof.Machine.execPageReply s
  | .priResponse => Sys2Proof.Machine.execPriResponse s
  | .priRequestSend => Sys2Proof.Machine.execPriRequestSend s
  | .pageRequestTimeout => Sys2Proof.Machine.execPageRequestTimeout s
  | .pageTableChange => Sys2Proof.Machine.execPageTableChange s
  | .migrationStart => Sys2Proof.Machine.execMigrationStart s
  | .firebossRead => Sys2Proof.Machine.execFirebossRead s
  | .firebossWrite => Sys2Proof.Machine.execFirebossWrite s
  | .collectiveDescriptorTake => Sys2Proof.Machine.execCollectiveDescriptorTake s
  | .collectiveMessage => Sys2Proof.Machine.execCollectiveMessage s
  | .quorumClose => Sys2Proof.Machine.execQuorumClose s
  | .sessionSetup => Sys2Proof.Machine.execSessionSetup s
  | .sessionRekey => Sys2Proof.Machine.execSessionRekey s
  | .sessionFrameReceive => Sys2Proof.Machine.execSessionFrameReceive s
  | .mainPowerRemoved => Sys2Proof.Machine.execMainPowerRemoved s
  | .debuggerResume => Sys2Proof.Machine.execDebuggerResume s
  | .pageRequestRouteSelect => Sys2Proof.Machine.execPageRequestRouteSelect s
  | .allowListInstall => Sys2Proof.Machine.execAllowListInstall s
  | .collectiveRingMap => Sys2Proof.Machine.execCollectiveRingMap s

end Sys2Proof.Machine
end

