-- ==== Sys2Proof/Machine/Pick.lean ====
section
/-!
DEFINITION. Which step the module takes when the agenda is empty (log entry 3): every internal step that is due comes
before the next DCC cycle; the cycle itself is BUNDLE_ISSUE. Steps of the outside world come from the agenda.
-/
namespace Sys2Proof.Machine

open Sys2Proof

/-- An outcome is a next state. -/
def isNext (o : Host.Outcome State Fault Refusal) : Bool := match o with | .next _ => true | _ => false

/-- A row that can be taken now with an input. -/
def State.enabled (s : State) (f : State → Host.Outcome State Fault Refusal) (i : Input) : Bool := isNext (f { s with inp := i })

/-- A row with an input, as a candidate. -/
def cand (row : Instr) (i : Option Input) : Option Event := i.map (fun i => { row := row, inp := i })

/-- A slot as a step's input. -/
def slotIn (k : Nat) : Input := .slot (BitVec.ofNat 6 k)

/-- The first slot of a list for which a condition holds. -/
def firstSlot (ks : List Nat) (f : Nat → Bool) : Option Input := (ks.find? f).map slotIn

/-- A due access: one that leaves its queue, advances, or performs. -/
def State.pickAccess (s : State) : Option Event :=
  (cand .accessLeave ((s.acc.find? s.mayLeave).map (fun a => .access a.id))).orElse fun _ =>
  (cand .accessAdvance ((s.acc.find? (fun a => s.atHead a && a.stage ≠ .system)).map (fun a => .access a.id))).orElse fun _ =>
  (cand .accessPerform ((s.acc.find? (fun a => s.atHead a && a.stage = .system)).map (fun a => .perform a.id .clean))).orElse fun _ =>
  cand .memoryReplyArrival ((s.replies.find? (fun r => !r.arrived)).map (fun r => .access r.id))

/-- The place of the Winze command of a stream that goes on or completes: the first that can, and that waits for no
page (R322, step 5). -/
def State.wzGoAt (s : State) (slot core : Nat) : Option Event :=
  let s1 := { s with cur := 8 * slot + core }
  let waits (m : Cmd) : Bool := match m.held with | some (va, w) => s1.engVa va.toNat w = .wait | none => false
  let at' (i : Nat) : Input := .engine (BitVec.ofNat 6 slot) (BitVec.ofNat 3 core) .wz i
  s1.me.units.wzq.zipIdx.findSome? (fun p =>
    if p.1.el.isNone || waits p.1 then none
    else if (s1.wzAdvance p.2).isSome then some { row := .engineCommandStart, inp := at' p.2 }
    else if (s1.wzComplete p.2).isSome then some { row := .engineCommandComplete, inp := at' p.2 }
    else none)

/-- A Winze command that goes on or completes. -/
def State.pickWz (s : State) (ks : List Nat) : Option Event :=
  ((ks.filter (fun k => !((s.cluster k).engFrozen))).flatMap (fun k => (List.range 8).map (fun c => (k, c)))).findSome?
    (fun p => s.wzGoAt p.1 p.2)

/-- A due step of a bound team. -/
def State.pickTeam (s : State) (ks : List Nat) : Option Event :=
  (cand .saveComplete (firstSlot ks s.saveReady)).orElse fun _ =>
  (cand .teamRetirement (firstSlot ks s.retires)).orElse fun _ =>
  (cand .teamStart (firstSlot ks (fun k => s.enabled execTeamStart (slotIn k)))).orElse fun _ =>
  (cand .escalationWindowExpiry (firstSlot ks s.windowOver)).orElse fun _ =>
  cand .sliceBoundary (firstSlot ks s.sliceOver)

/-- A binding that is due: the lowest free slot that some entry of the waiting set may take. -/
def State.pickBind (s : State) : Option Event :=
  let order := s.waitOrder
  if order.isEmpty then none
  else s.freeSlots.findSome? (fun k => order.findSome? (fun w =>
    match w.teams with
    | t :: _ => if s.mayBind k w.launch t then some { row := .bind, inp := .bindTo (BitVec.ofNat 6 k) w.launch t } else none
    | [] => none))

/-- A due step towards the host and other modules. -/
def State.pickHost (s : State) : Option Event :=
  (cand .completionRecordWrite (((s.host.queues.map (·.1)).find? s.recordDue).map (fun q => .queue (BitVec.ofNat 4 q)))).orElse fun _ =>
  (cand .gangAgreementTimeout ((s.boss.launches.find? s.gangLate).map (fun l => .gang l.tag l.gsize 0#64))).orElse fun _ =>
  (cand .remoteCopyPayload ((s.links.inbound.find? s.inboundDone).map (fun b => .remote (.written b.node b.id)))).orElse fun _ =>
  (cand .pageRequestTimeout ((s.pages.find? s.timedOut).map (fun p => .reply p.id 0#8))).orElse fun _ =>
  (cand .priRequestSend (if s.enabled execPriRequestSend .none then some .none else none)).orElse fun _ =>
  (cand .quorumClose (((List.range s.rings.length).find? (fun n => s.enabled execQuorumClose (.ring n))).map .ring)).orElse fun _ =>
  (cand .collectiveDescriptorTake (((List.range s.rings.length).find? (fun n => s.enabled execCollectiveDescriptorTake (.ring n))).map .ring)).orElse fun _ =>
  (cand .firebossWrite (if s.fire.loc.isSome then some .none else none)).orElse fun _ =>
  cand .dccSynchronised (if s.syncDue then some .none else none)

/-- The step that the module takes by itself. -/
def State.pick (s : State) : Event :=
  let ks := s.clusters.map (·.1)
  (s.pickAccess.orElse fun _ => (s.pickTeam ks).orElse fun _ => (s.pickWz ks).orElse fun _ =>
    s.pickHost.orElse fun _ => s.pickBind).getD { row := .bundleIssue, inp := .none }

/-- The step that comes next: the head of the agenda, or the module's own. -/
def State.nextEvent (s : State) : Event :=
  match s.agenda with
  | e :: _ => e
  | [] => s.pick

/-- The state in which the next step is taken: it is off the agenda, the errors that its reads find are dealt with, and
its input is at hand. -/
def State.atEvent (s : State) : State :=
  ({ s with agenda := s.agenda.tail, inp := s.nextEvent.inp } : State).findAll s.nextEvent.finds

/-! ## Placing an instruction -/

/-- A cluster with one stream started at address 0 and nothing but some instruction bytes in its memory. -/
def loneCluster (imem : List Byte) : Cluster :=
  { running := true
    imem := sput 0#8 [] (bytesAt 0 imem)
    cores := { ctl := { started := true } } :: List.replicate 7 { ctl := { halted := true } } }

/-- The bytes of an instruction as a bundle of its own. Where its E bit is clear, a short move is followed by a move of
`s0` to `s0` that ends the bundle; after a vector or engine word no such word may stand (R93, code 11), and the
E bit is set (log entry 1). -/
def bundleBytes (nbits w : Nat) : List Byte :=
  let n := max 4 ((nbits + 31) / 32 * 4)
  if bitAt w 2 then leBytes n w
  else if w % 4 = 1 || w % 4 = 2 then leBytes n (w + 4)
  else leBytes n w ++ leBytes 4 4

end Sys2Proof.Machine
end

