-- ==== Sys2Proof/Machine/Step.lean ====
section
/-!
DEFINITION. One step of the module, and placing an instruction where the next step fetches it.
-/
namespace Sys2Proof.Machine

open Sys2Proof

/-- One step: the next row of the agenda with its input, or the step that the module takes by itself. -/
def step (s : State) : Host.Outcome State Fault Refusal := exec s.nextEvent.row s.atEvent

/-- The module with a team bound to cluster 0 whose one stream stands at address 0, with an instruction there
(log entry 1): the next step is the DCC cycle in which it issues. -/
def State.withFetchWord (s : State) (nbits w : Nat) : State :=
  { s with agenda := [], acc := [], replies := [], clusters := [(0, loneCluster (bundleBytes nbits (w % 2 ^ nbits)))] }

end Sys2Proof.Machine
end

