-- ==== Sys2Proof/Safety.lean ====
section
/-!
DEFINITION. The terms in which claims about the module are stated: what it means that the issuing stream exists, that
an instruction touches nothing beside it, that an instruction completes with a given effect, and the invariant that
every step keeps.
-/
namespace Sys2Proof.Machine

open Sys2Proof

/-- The issuing stream exists: its slot holds a team, whose cluster has a core of its number. -/
def State.hasMe (s : State) : Prop := (slook s.clusters s.slotOf).isSome = true ∧ s.coreOf < s.myCluster.cores.length

/-- Of two states, the second differs from the first in nothing but the core of the issuing stream: no other core, no
other cluster, no memory and no register of the module. -/
def State.onlyMe (s t : State) : Prop :=
  { t with clusters := s.clusters } = s ∧
  (∀ k, k ≠ s.slotOf → t.cluster k = s.cluster k) ∧
  { t.myCluster with cores := s.myCluster.cores } = s.myCluster ∧
  ∀ i, i ≠ s.coreOf → t.myCluster.core i = s.myCluster.core i

/-- A word completes: `exec` answers a next state, in which nothing but the core of the issuing stream has changed, and
that core has become `f` of what it was. Everything that `f` leaves alone is the frame. -/
def Completes (i : Instr) (s : State) (f : Core → Core) : Prop :=
  ∃ t, exec i s = .next t ∧ s.onlyMe t ∧ t.me = f s.me

/-- A short move issues and is not guarded off: its stream exists and its guard is true (R28). -/
def Issues (t : Trig) (s : State) : Prop := s.hasMe ∧ s.me.guard t.g t.n = true

/-- A word schedules one delivery, `lat` cycles on, and does nothing else. -/
def Delivers (i : Instr) (s : State) (lat : Nat) (puts : List Put) : Prop := Completes i s (fun c => c.deliver lat puts)

/-- A word schedules one write for the end of its cycle and does nothing else. -/
def Lands (i : Instr) (s : State) (w : EndW) : Prop := Completes i s (fun c => c.atEnd w)

/-- A word does nothing at all. -/
def Idle (i : Instr) (s : State) : Prop := exec i s = .next s

/-- The unit number of `ia0` or `ia1`. -/
def iaNo (u : Bool) : Nat := if u then 0x09 else 0x08

/-- Every operation of a row of `ia` delivers, `lat` cycles on, a value that stands in a relation to the ports `o` and
`b` and the trigger operand, and does nothing else. -/
def IaResult (op : Bool → Trig → Instr) (lat : Nat) (v : U32 → U32 → U32 → U32 → Prop) : Prop :=
  ∀ u t s, Issues t s → ∃ r : U32,
    v ((s.me.port (iaNo u) 0).setWidth 32) ((s.me.port (iaNo u) 1).setWidth 32) ((s.source t.src).setWidth 32) r ∧
    Delivers (op u t) s lat [.port (keyOf (iaNo u) 0) (r.setWidth 64)]

/-- The same for `ag`, with the ports `o` and `x`. -/
def AgResult (op : Bool → Trig → Instr) (lat : Nat) (v : U64 → U64 → U64 → U64 → Prop) : Prop :=
  ∀ u t s, Issues t s → ∃ r : U64,
    v (s.me.port (agUnit u) 0) (s.me.port (agUnit u) 1) (s.source t.src) r ∧
    Delivers (op u t) s lat [.port (keyOf (agUnit u) 0) r]

/-- A new access of the issuing stream, the `k`-th that its word makes. -/
def State.newAccess (s : State) (k : Nat) (cls : BitVec 4) (loc : Loc) (op : AccOp) (ready : Bool) : Access :=
  { id := s.nextAcc + k, slot := s.slotOf, core := s.coreOf, cls := cls, loc := loc, op := op, stage := .queue
    seq := s.nextAcc + k, arr := 0, ready := ready }

/-- A word completes by appending accesses to the buffers and changing the issuing core: nothing else changes. -/
def Queues (i : Instr) (s : State) (as : List Access) (f : Core → Core) : Prop :=
  ∃ t, exec i s = .next t ∧ t.acc = s.acc ++ as ∧ t.nextAcc = s.nextAcc + as.length ∧
    s.onlyMe { t with acc := s.acc, nextAcc := s.nextAcc } ∧ t.me = f s.me

/-- A scalar access of `n` bytes at `a`: one access where the bytes lie in one line, two where they cross into the next,
each with its part of the data, and one flight that waits for their replies (R164, R168). -/
def ScalarAccess (i : Instr) (s : State) (opc lat : Nat) (v : U64) (loc : Nat → Loc) (a n : Nat)
    (data : Option (List Byte)) : Prop :=
  let op (off : Nat) (bs : Option (List Byte)) : AccOp := match bs with
    | some bs => .store (bytesAt off bs) none
    | none => .load
  let need : Need := match data with | some _ => .store | none => .load n (a % 64)
  let cls := s.me.lsClass
  let put (ids : List Nat) (c : Core) : Core :=
    let c := c.lsEvent opc v
    { c with pipe := { c.pipe with flights := c.pipe.flights ++ [{ left := lat, puts := [], ids := ids, need := some need }] } }
  if a % 64 + n ≤ 64 then
    Queues i s [s.newAccess 0 cls (loc (a / 64)) (op (a % 64) data) true] (put [s.nextAcc])
  else
    Queues i s
      [s.newAccess 0 cls (loc (a / 64)) (op (a % 64) (data.map (·.take (64 - a % 64)))) true,
        s.newAccess 1 cls (loc (a / 64 + 1)) (op 0 (data.map (·.drop (64 - a % 64)))) true]
      (put [s.nextAcc, s.nextAcc + 1])

/-- A word notes its access and raises a fault: no access is made and nothing else changes. -/
def RaisesAfter (i : Instr) (s : State) (f : Core → Core) (cls code : Nat) (tval : U64) : Prop :=
  ∃ t, exec i s = .next t ∧ { t with clusters := s.clusters } = s ∧ (∀ k, k ≠ s.slotOf → t.cluster k = s.cluster k) ∧
    t.myCluster.raised = s.myCluster.raised ++ [{ cls := cls, strm := s.coreOf, eng := false, code := code, tval := tval }] ∧
    { t.myCluster with raised := s.myCluster.raised, cores := s.myCluster.cores } = s.myCluster ∧
    t.me = f s.me ∧ ∀ i, i ≠ s.coreOf → t.myCluster.core i = s.myCluster.core i

/-- The 24 rows of `ga`, each with the operation that it performs, the bytes of its word and its latency (R173, R120). -/
def gaRows (t : Trig) : List (Instr × Nat × Nat × Nat) :=
  [(.gaAdd t, 0, 8, 36), (.gaAnd t, 1, 8, 36), (.gaOr t, 2, 8, 36), (.gaXor t, 3, 8, 36), (.gaMaxs t, 4, 8, 36),
    (.gaMins t, 5, 8, 36), (.gaSwap t, 6, 8, 36), (.gaCas t, 7, 8, 36), (.gaFadd t, 8, 4, 36), (.gaFmax t, 9, 4, 36),
    (.gaMdraw t, 10, 8, 36), (.gaBar t, 11, 8, 36), (.gaAddFar t, 0, 8, 60), (.gaAndFar t, 1, 8, 60),
    (.gaOrFar t, 2, 8, 60), (.gaXorFar t, 3, 8, 60), (.gaMaxsFar t, 4, 8, 60), (.gaMinsFar t, 5, 8, 60),
    (.gaSwapFar t, 6, 8, 60), (.gaCasFar t, 7, 8, 60), (.gaFaddFar t, 8, 4, 60), (.gaFmaxFar t, 9, 4, 60),
    (.gaMdrawFar t, 10, 8, 60), (.gaBarFar t, 11, 8, 60)]

/-- A word raises a fault at the boundary of its bundle: nothing but the list of causes of its cluster changes. -/
def Raises (i : Instr) (s : State) (cls code : Nat) (tval : U64) : Prop :=
  ∃ t, exec i s = .next t ∧ { t with clusters := s.clusters } = s ∧
    (∀ k, k ≠ s.slotOf → t.cluster k = s.cluster k) ∧
    t.myCluster = { s.myCluster with
      raised := s.myCluster.raised ++ [{ cls := cls, strm := s.coreOf, eng := false, code := code, tval := tval }] }

/-- The element operations with an exact result in integers: the rows of R212 other than the special functions, the
reductions and the conversions. -/
def vxExact : List Nat := [0x01, 0x02, 0x03, 0x04, 0x05, 0x06, 0x07, 0x08, 0x09, 0x10, 0x11, 0x12, 0x36]

/-- An element of `w` bytes that an integer form reads as its own signed integer: it stands in a raw line, or in a line of
the integer format of its width at unity scale (R206, R207). -/
def Elem.isWhole (w : Nat) (x : Elem) : Prop := x.kind = .line ∧ (descFmt x.tag = 0 ∨ x.tag = mkDesc (intFmt w) 255)

/-- An element of `w` bytes that a floating form reads as a number of the format of its width, FP32 or BF16, at unity scale: it
stands in a raw line or in a line of that format (R206, R207). -/
def Elem.isReal (w : Nat) (x : Elem) : Prop := x.kind = .line ∧ (descFmt x.tag = 0 ∨ x.tag = mkDesc (namedFmt w) 255)

/-- The floating format of a width (R206). -/
def widthFmt (w : Nat) : FloatFmt := if w = 4 then fp32 else bf16

/-- A step of the device completes in some state that a condition describes. -/
def Answers (i : Instr) (s : State) (p : State → Prop) : Prop := ∃ t, exec i s = .next t ∧ p t

/-- The bytes and descriptors that `n` local bytes from `a` up have for a core (R159): those of its scratchpad, and those of
the device memory behind a window, where its page can be read. -/
def State.LocalHolds (s : State) (c : Core) (a n : Nat) (bs : List Byte) (tags : List U16) : Prop :=
  bs.length = n ∧ tags.length = n ∧ ∀ i < n,
    (a + i < 0x180000 → bs[i]? = some (c.scratch.rd (a + i)) ∧ tags[i]? = some (c.scratch.tag dtOn (a + i))) ∧
    (0x180000 ≤ a + i → ∀ pa, s.windowAddr s.myCluster.info (a + i) = some pa →
      bs[i]? = some (s.dram.mem.rd pa) ∧ tags[i]? = some (s.dram.mem.tag dtZero pa))

/-- A word completes with nothing changed but the issuing core and the malformed entries that Shiftboss has been told of. -/
def CompletesTelling (i : Instr) (s : State) (f : Core → Core) : Prop :=
  ∃ t, exec i s = .next t ∧ s.onlyMe { t with boss := s.boss } ∧ { t.boss with malformed := s.boss.malformed } = s.boss ∧
    t.me = f s.me

/-- Keys strictly rise. -/
def rising : List Nat → Bool
  | [] => true
  | [_] => true
  | a :: b :: t => a < b && rising (b :: t)

/-- The slots of the bound teams: each of the 64 clusters holds at most one team, and they are listed in order (R14). -/
def State.slotsInv (s : State) : Prop := rising (s.clusters.map (·.1)) = true ∧ ∀ k ∈ s.clusters.map (·.1), k < 64

/-- What every step keeps: the slots are in order, the Gallery and device memory with its metadata and grades are in
canonical form, so that equal memories are equal data (R50, R349-R358), and Ready stands exactly while the last start
has reached ready (R415). -/
def State.Inv (s : State) : Prop :=
  s.slotsInv ∧ s.gal.wf dtZero ∧ s.dram.mem.wf dtZero ∧ swf 0#64 s.dram.swMeta = true ∧ swf 1 s.dram.grade = true ∧
    (s.isReady = true ↔ s.board.phase = .ready)

end Sys2Proof.Machine
end

