-- ==== Sys2Proof/Certificates/Slice0/Obligations.lean ====
section
/-!
DEFINITION. The statements for the provers. Each docstring names the rules of the spec that its statement rests on.
-/
open Sys2Proof Sys2Proof.Machine

/-! ## The integer units (spec/05 R137-R140) -/

/-- The table of `ia` (R137, R116), for every value of the operands: sums, differences, saturation, minima, maxima,
products, bitwise operations, bit counts and comparisons, each delivered after its latency. -/
def Obligations.IaTable : Prop :=
  IaResult .iaAdd 1 (fun o _ t r => r.toNat = (o.toNat + t.toNat) % 2 ^ 32) ∧
  IaResult .iaSub 1 (fun o _ t r => (r.toNat : Int) = ((o.toNat : Int) - t.toNat) % 2 ^ 32) ∧
  IaResult .iaAdds 1 (fun o _ t r => r.toInt = max (-2 ^ 31) (min (2 ^ 31 - 1) (o.toInt + t.toInt))) ∧
  IaResult .iaSubs 1 (fun o _ t r => r.toInt = max (-2 ^ 31) (min (2 ^ 31 - 1) (o.toInt - t.toInt))) ∧
  IaResult .iaAddus 1 (fun o _ t r => r.toNat = min (2 ^ 32 - 1) (o.toNat + t.toNat)) ∧
  IaResult .iaSubus 1 (fun o _ t r => r.toNat = o.toNat - t.toNat) ∧
  IaResult .iaMin 1 (fun o _ t r => r.toInt = min o.toInt t.toInt) ∧
  IaResult .iaMax 1 (fun o _ t r => r.toInt = max o.toInt t.toInt) ∧
  IaResult .iaMinu 1 (fun o _ t r => r.toNat = min o.toNat t.toNat) ∧
  IaResult .iaMaxu 1 (fun o _ t r => r.toNat = max o.toNat t.toNat) ∧
  IaResult .iaAnd 1 (fun o _ t r => ∀ i < 32, r.getLsbD i = (o.getLsbD i && t.getLsbD i)) ∧
  IaResult .iaOr 1 (fun o _ t r => ∀ i < 32, r.getLsbD i = (o.getLsbD i || t.getLsbD i)) ∧
  IaResult .iaXor 1 (fun o _ t r => ∀ i < 32, r.getLsbD i = (o.getLsbD i ^^ t.getLsbD i)) ∧
  IaResult .iaClz 1 (fun _ _ t r => r.toNat ≤ 32 ∧ t.toNat < 2 ^ (32 - r.toNat) ∧ (t ≠ 0#32 → 2 ^ (32 - r.toNat) ≤ 2 * t.toNat) ∧
    (t = 0#32 → r = 32#32)) ∧
  IaResult .iaCtz 1 (fun _ _ t r => (∀ i < r.toNat, t.getLsbD i = false) ∧ (t ≠ 0#32 → t.getLsbD r.toNat = true) ∧
    (t = 0#32 → r = 32#32)) ∧
  IaResult .iaPopc 1 (fun _ _ t r => r.toNat = ((List.range 32).filter (fun i => t.getLsbD i)).length) ∧
  IaResult .iaCeq 1 (fun o _ t r => r = if o.toNat = t.toNat then 1#32 else 0#32) ∧
  IaResult .iaCne 1 (fun o _ t r => r = if o.toNat ≠ t.toNat then 1#32 else 0#32) ∧
  IaResult .iaClt 1 (fun o _ t r => r = if o.toInt < t.toInt then 1#32 else 0#32) ∧
  IaResult .iaCle 1 (fun o _ t r => r = if o.toInt ≤ t.toInt then 1#32 else 0#32) ∧
  IaResult .iaCltu 1 (fun o _ t r => r = if o.toNat < t.toNat then 1#32 else 0#32) ∧
  IaResult .iaCleu 1 (fun o _ t r => r = if o.toNat ≤ t.toNat then 1#32 else 0#32) ∧
  IaResult .iaMul 3 (fun o _ t r => r.toNat = o.toNat * t.toNat % 2 ^ 32) ∧
  IaResult .iaMulh 3 (fun o _ t r => r.toInt = o.toInt * t.toInt / 2 ^ 32) ∧
  IaResult .iaMulhu 3 (fun o _ t r => r.toNat = o.toNat * t.toNat / 2 ^ 32)

/-- Shifts, rotation, bit fields and division of `ia` (R138-R140): the whole trigger operand is the amount of a shift; a
field never reaches past bit 31; a quotient is truncated toward zero and a remainder has the sign of the dividend, with
the three cases of the table of R140. -/
def Obligations.IaShiftsFieldsAndDivision : Prop :=
  IaResult .iaShl 1 (fun o _ t r => r.toNat = if 32 ≤ t.toNat then 0 else o.toNat * 2 ^ t.toNat % 2 ^ 32) ∧
  IaResult .iaShr 1 (fun o _ t r => r.toNat = if 32 ≤ t.toNat then 0 else o.toNat / 2 ^ t.toNat) ∧
  IaResult .iaSar 1 (fun o _ t r => r.toInt = o.toInt / 2 ^ min 32 t.toNat) ∧
  IaResult .iaRotl 1 (fun o _ t r => ∀ i < 32, r.getLsbD ((i + t.toNat) % 32) = o.getLsbD i) ∧
  (∀ pos w : U32 → Nat, (∀ t, pos t = t.toNat % 32) → (∀ t, w t = min (t.toNat / 256 % 64) (32 - pos t)) →
    IaResult .iaExtu 1 (fun o _ t r => r.toNat = o.toNat / 2 ^ pos t % 2 ^ w t) ∧
    IaResult .iaExt 1 (fun o _ t r => r.toInt = Int.bmod (o.toNat / 2 ^ pos t : Nat) (2 ^ w t)) ∧
    IaResult .iaIns 1 (fun o b t r => ∀ i < 32, r.getLsbD i =
      if pos t ≤ i ∧ i < pos t + w t then b.getLsbD (i - pos t) else o.getLsbD i)) ∧
  IaResult .iaDiv 18 (fun o _ t r =>
    (t = 0#32 → r = 0xFFFFFFFF#32) ∧ (o = 0x80000000#32 ∧ t = 0xFFFFFFFF#32 → r = 0x80000000#32) ∧
    (t ≠ 0#32 ∧ ¬(o = 0x80000000#32 ∧ t = 0xFFFFFFFF#32) → r.toInt = Int.tdiv o.toInt t.toInt)) ∧
  IaResult .iaRem 18 (fun o _ t r =>
    (t = 0#32 → r = o) ∧ (t ≠ 0#32 → r.toInt = o.toInt - t.toInt * Int.tdiv o.toInt t.toInt)) ∧
  IaResult .iaDivu 18 (fun o _ t r => r.toNat = if t = 0#32 then 2 ^ 32 - 1 else o.toNat / t.toNat) ∧
  IaResult .iaRemu 18 (fun o _ t r => r.toNat = if t = 0#32 then o.toNat else o.toNat % t.toNat)

/-! ## The address units (R141-R143) -/

/-- What the plain operations of `ag` deliver one cycle on (R141, R117): arithmetic modulo 2^64, unsigned bounds. -/
def Obligations.AgArithmetic : Prop :=
  AgResult .agAdd 1 (fun o _ t r => r.toNat = (o.toNat + t.toNat) % 2 ^ 64) ∧
  AgResult .agSub 1 (fun o _ t r => (r.toNat : Int) = ((o.toNat : Int) - t.toNat) % 2 ^ 64) ∧
  AgResult .agAddx 1 (fun o x t r => r.toNat = (o.toNat + t.toNat * x.toNat) % 2 ^ 64) ∧
  AgResult .agAnd 1 (fun o _ t r => ∀ i < 64, r.getLsbD i = (o.getLsbD i && t.getLsbD i)) ∧
  AgResult .agLtu 1 (fun o _ t r => r.toNat = if o.toNat < t.toNat then 1 else 0) ∧
  AgResult .agBnd 1 (fun o x t r => r.toNat = min (max o.toNat x.toNat) t.toNat)

/-- The KV slot table (R142, R143): the address of `ag.kv` two cycles on, all ones past the end of the slot; the
writes of `ag.kvmax` and `ag.kvlen` at the end of the cycle, the length cut to the maximum as it stands; and the
valid length that `ag.kvget` delivers. -/
def Obligations.AgSlots : Prop :=
  (∀ u t s, Issues t s → ∃ r : U64,
    (let c := s.me
     let slot := (s.source t.src).toNat % 64
     let head := (s.source t.src).toNat / 256 % 65536
     let pos := (c.port (agUnit u) 0).toNat % 2 ^ 32
     r.toNat = if (c.kvSlot slot).1.toNat ≤ pos then 2 ^ 64 - 1
       else ((c.port 0x0A 2).toNat + slot * (c.port 0x0A 3).toNat + pos * (c.port 0x0A 4).toNat +
         head * (c.port 0x0A 5).toNat) % 2 ^ 64) ∧
    Delivers (.agKv u t) s 2 [.port (keyOf (agUnit u) 0) r]) ∧
  (∀ u t s, Issues t s → ∃ v : U32, v.toNat = (s.me.port (agUnit u) 0).toNat % 2 ^ 32 ∧
    Lands (.agKvmax u t) s (.kvMax ((s.source t.src).toNat % 64) v)) ∧
  (∀ u t s, Issues t s → ∃ v : U32,
    v.toNat = min ((s.me.port (agUnit u) 0).toNat % 2 ^ 32) (s.me.kvSlot ((s.source t.src).toNat % 64)).1.toNat ∧
    Lands (.agKvlen u t) s (.kvLen ((s.source t.src).toNat % 64) v)) ∧
  (∀ u t s, Issues t s → ∃ r : U64, r.toNat = (s.me.kvSlot ((s.source t.src).toNat % 64)).2.toNat ∧
    Delivers (.agKvget u t) s 1 [.port (keyOf (agUnit u) 0) r]) ∧
  (∀ (c : Core) (core k j : Nat) (v : U32),
    (c.applyW core (.kvMax k v)).kvSlot k = (v, if v.toNat < (c.kvSlot k).2.toNat then v else (c.kvSlot k).2) ∧
    (c.applyW core (.kvLen k v)).kvSlot k = ((c.kvSlot k).1, v) ∧
    (j ≠ k → (c.applyW core (.kvMax k v)).kvSlot j = c.kvSlot j ∧ (c.applyW core (.kvLen k v)).kvSlot j = c.kvSlot j))

/-! ## Moves (spec/01 R28, R29, spec/03 R81, spec/04 R113, R123, spec/06 R166) -/

/-- What a move does (R28, R29, R81, R113, R123): a register or control register takes the moved value at the end of the
cycle, an operand port at once, and a destination that discards writes takes nothing. A handle keeps bit 63 only where
it comes from an `h` register or from `ls.hr` (R166). A move into `sys.sflag` is its own row (R38). -/
def Obligations.MovesLand : Prop :=
  (∀ du ds t s, Issues t s →
    ∃ v : U64, (∀ i < 63, v.getLsbD i = (s.source t.src).getLsbD i) ∧
      v.getLsbD 63 = ((s.source t.src).getLsbD 63 &&
        (!(du = 2#5 || (du = 0x0C#5 && ds = 1#6)) || match t.src with
          | .reg u r => u = 2#5 || (u = 0x0C#5 && r = 2#6)
          | _ => false)) ∧
      (if du.toNat ≤ 3 then
          (if keyOf du.toNat ds.toNat = 0 ∨ keyOf du.toNat ds.toNat = 64 ∨ keyOf du.toNat ds.toNat = 192 then
            Completes (.move du ds t) s id
          else Lands (.move du ds t) s (.reg (keyOf du.toNat ds.toNat) v))
        else if du = 0x18#5 then Lands (.move du ds t) s (.sys ds.toNat v)
        else Completes (.move du ds t) s (fun c => c.setPort du.toNat ds.toNat v))) ∧
  (∀ t s, Issues t s → Lands (.sflagWrite t) s (.sys 3 (s.source t.src)))

/-- The register files as R29 gives them: what a register keeps of a value, what a later read finds, and that no other
register changes. A move whose destination is a token register is an illegal encoding; a read of a token register
gives its state code. -/
def Obligations.RegisterFiles : Prop :=
  (∀ (c : Core) (v : U64), c.setReg (kS 0) v = c ∧ c.setReg (kA 0) v = c ∧ c.setReg (kP 0) v = c) ∧
  (∀ (ds : BitVec 6) (t : Trig), (Instr.move 4#5 ds t).wf = false) ∧
  (∀ (s : State) (n : BitVec 6), (s.source (.reg 4#5 n)).toNat = (s.me.token n.toNat).toNat) ∧
  (∀ (c : Core) (v : U64) (n : Nat), 1 ≤ n → n < 16 →
    ((c.setReg (kP n) v).pred n = true ↔ v ≠ 0#64) ∧ (c.setReg (kP n) v).reg (kP n) = if v = 0#64 then 0#64 else 1#64) ∧
  (∀ (c : Core) (v : U64) (n : Nat), n < 8 → ((c.setReg (kB n) v).reg (kB n)).toNat = v.toNat % 2 ^ 20) ∧
  (∀ (c : Core) (v : U64) (n : Nat), n < 4 → ((c.setReg (kLc n) v).reg (kLc n)).toNat = v.toNat % 2 ^ 32) ∧
  (∀ (c : Core) (v : U64) (n : Nat), 1 ≤ n → n < 64 → ((c.setReg (kS n) v).reg (kS n)).toNat = v.toNat % 2 ^ 32) ∧
  (∀ (c : Core) (v : U64) (n : Nat), 1 ≤ n → n < 32 → (c.setReg (kA n) v).reg (kA n) = v) ∧
  (∀ (c : Core) (v : U64) (n : Nat), n < 32 → (c.setReg (kH n) v).reg (kH n) = v) ∧
  (∀ (c : Core) (v : U64) (k j : Nat), j ≠ k → (c.setReg k v).reg j = c.reg j)

/-- What a move reads and what an operand port keeps (R29, R81, R83, R113-R115, R123). A port keeps the low bits of a value
up to its width of R114, a later read gives them, and no other port changes; the configuration of `ag.kv` has two names. An
immediate is sign-extended from its 11, 39 or 64 bits. A register, a token, a result port and a control register give
what they hold, zero-extended; `pan.f` gives the slow-path flags and `ver.fr` the fragment register; in handler mode
`sys.csc` gives the boundary that the cluster holds. -/
def Obligations.OperandSources : Prop :=
  (∀ (c : Core) (u p w : Nat) (v : U64), (u, p, w) ∈
      [(0x08, 0, 32), (0x08, 1, 32), (0x09, 0, 32), (0x09, 1, 32), (0x0A, 0, 64), (0x0A, 1, 64), (0x0A, 2, 64), (0x0A, 3, 64),
        (0x0A, 4, 32), (0x0A, 5, 32), (0x0B, 0, 64), (0x0B, 1, 64), (0x0B, 2, 64), (0x0B, 3, 64), (0x0B, 4, 32), (0x0B, 5, 32),
        (0x0C, 0, 64), (0x0C, 1, 64), (0x0C, 2, 4), (0x0C, 3, 5), (0x0D, 0, 32), (0x0E, 0, 64), (0x0E, 1, 8), (0x0F, 0, 64),
        (0x0F, 1, 64), (0x0F, 2, 4), (0x13, 0, 64), (0x14, 0, 24), (0x14, 1, 32), (0x14, 2, 3), (0x16, 0, 7), (0x16, 1, 7),
        (0x16, 2, 5), (0x17, 0, 24)] →
    ((c.setPort u p v).port u p).toNat = v.toNat % 2 ^ w ∧
    (∀ x y, y < 64 → keyOf x y ≠ keyOf u p → ¬(x ∈ [0x0A, 0x0B] ∧ u ∈ [0x0A, 0x0B] ∧ x ≠ u ∧ y = p ∧ 2 ≤ p) →
      (c.setPort u p v).port x y = c.port x y) ∧
    { c.setPort u p v with opnd := c.opnd } = c) ∧
  (∀ (c : Core) (p : Nat), 2 ≤ p → c.port 0x0B p = c.port 0x0A p) ∧
  (∀ (s : State) (l1 l2 : BitVec 28) (low : BitVec 11),
    (s.source (.imm low)).toInt = low.toInt ∧ (s.source (.imm1 l1 low)).toInt = l1.toInt * 2 ^ 11 + low.toNat ∧
    (s.source (.imm2 l1 l2 low)).toNat = l2.toNat % 2 ^ 25 * 2 ^ 39 + l1.toNat * 2 ^ 11 + low.toNat) ∧
  (∀ (s : State) (u : BitVec 5) (n : BitVec 6),
    (u.toNat < 4 → s.source (.reg u n) = s.me.reg (64 * u.toNat + n.toNat)) ∧
    (u = 4#5 → (s.source (.reg u n)).toNat = (s.me.token n.toNat).toNat) ∧
    (5 ≤ u.toNat → u ≠ 0x18#5 → ¬(n = 1#6 ∧ (u = 0x13#5 ∨ u = 0x14#5)) →
      s.source (.reg u n) = sget 0#64 s.me.res (64 * u.toNat + n.toNat)) ∧
    (u = 0x13#5 → n = 1#6 → s.source (.reg u n) = s.me.units.slow) ∧
    (u = 0x14#5 → n = 1#6 → (s.source (.reg u n)).toNat = s.me.units.ver.frag.toNat)) ∧
  (∀ s : State,
    let sys (n : BitVec 6) : U64 := s.source (.reg 0x18#5 n)
    sys 0 = 1#64 ∧ sys 1 = s.myCluster.csc ∧ sys 2 = s.dcc ∧ (sys 3).toNat = s.me.sflag.toNat ∧
    (sys 4).toNat = s.me.fen.toNat ∧ sys 5 = s.me.key ∧ (sys 6).toNat = s.board.jpq.toNat ∧ sys 7 = s.me.tmr ∧
    (sys 8).toNat = s.myCluster.cause.toNat ∧ sys 9 = s.myCluster.tval ∧ sys 10 = s.me.trc)

/-- The end of a cycle (R28 step 5, R38, R123): a write into a register or a control register takes effect on that
register alone; of the sticky flags a written 1 clears its bit, and flags set in the cycle stay set. -/
def Obligations.EndOfCycleWrites : Prop :=
  (∀ (c : Core) (core k : Nat) (v : U64), ¬(208 ≤ k ∧ k < 216) → c.applyW core (.reg k v) = c.setReg k v) ∧
  (∀ (c : Core) (core n : Nat) (v : U64), n < 8 →
    (c.applyW core (.reg (kB n) v)).breg n = v.setWidth 20 ∧ sget 0 (c.applyW core (.reg (kB n) v)).ctl.bwait n = 4 ∧
    ∀ j, j ≠ kB n → (c.applyW core (.reg (kB n) v)).reg j = c.reg j) ∧
  (∀ (c : Core) (core : Nat) (v : U64),
    c.applyW core (.sys 3 v) = { c with sflag := c.sflag &&& ~~~(v.setWidth 32) } ∧
    c.applyW core (.sys 4 v) = { c with fen := v.setWidth 32 &&& 0xFFFF0007#32 } ∧
    c.applyW core (.sys 5 v) = { c with key := v } ∧
    c.applyW core (.sys 7 v) = { c with tmr := v } ∧
    (∀ i < 64, (c.applyW core (.sys 10 v)).trc.getLsbD i = (v.getLsbD i && !(8 ≤ i && i < 16))) ∧
    c.applyW core (.sys 10 v) = { c with trc := (c.applyW core (.sys 10 v)).trc }) ∧
  (∀ (c : Core) (core : Nat) (v : U64), c.pipe.endW = [.sys 3 v] → c.pipe.puts = [] →
    ∀ i < 32, (c.applyAll core).sflag.getLsbD i = ((c.sflag.getLsbD i && !(v.getLsbD i)) || c.pipe.sflagNew.getLsbD i))

/-- Result ports (R30, R305): a delivery that is due puts its value into its port, the later triggered of two winning, sets
its sticky flags, and leaves every other port alone; a value for `ls.f` gives way to the status of a vector form that
was triggered later and completes in the same cycle. One that is not due waits, one cycle less at each end of a cycle. -/
def Obligations.ResultsComplete : Prop :=
  (∀ (s : State) (forms : List Nat) (k : Nat) (v : U64) (f : Flight), s.hasMe → s.me.pipe.flights = [f] → f.left = 0 → f.ids = [] →
    f.need = none → f.puts = [.port k v] →
    s.onlyMe (s.flightsNow forms) ∧ (s.flightsNow forms).me.pipe.flights = [] ∧
    ((k ≠ keyOf 0x0C 1 ∨ ∀ a ∈ forms, f.age ≤ a) → sget 0#64 (s.flightsNow forms).me.res k = v) ∧
    (k = keyOf 0x0C 1 → (∃ a ∈ forms, a < f.age) → (s.flightsNow forms).me.res = s.me.res) ∧
    (∀ j, j ≠ k → sget 0#64 (s.flightsNow forms).me.res j = sget 0#64 s.me.res j)) ∧
  (∀ (s : State) (forms : List Nat) (k : Nat) (v w : U64) (f g : Flight), s.hasMe → s.me.pipe.flights = [f, g] → f.left = 0 →
    g.left = 0 → f.ids = [] → g.ids = [] → f.need = none → g.need = none → f.puts = [.port k v] → g.puts = [.port k w] →
    (k ≠ keyOf 0x0C 1 ∨ ∀ a ∈ forms, g.age ≤ a) → sget 0#64 (s.flightsNow forms).me.res k = w) ∧
  (∀ (s : State) (forms : List Nat) (b : U32) (f : Flight), s.hasMe → s.me.pipe.flights = [f] → f.left = 0 → f.ids = [] →
    f.need = none → f.puts = [.sticky b] →
    (s.flightsNow forms).me.sflag = s.me.sflag ||| b ∧ (s.flightsNow forms).me.res = s.me.res) ∧
  (∀ (s : State) (forms : List Nat), s.hasMe → (∀ f ∈ s.me.pipe.flights, f.left ≠ 0) → (s.flightsNow forms).me = s.me) ∧
  (∀ (c : Core) (lat : Nat) (puts : List Put), 0 < lat →
    (c.deliver lat puts).count.pipe.flights = c.count.pipe.flights ++ [{ left := lat - 1, age := 1, puts := puts }])

/-! ## Control (R144-R156) -/

/-- Transfers of control, taken and not taken, outside delay bundles and loops (R144, R145, R147, R148): where they go and
with what bubble; `ctl.call` pushes the address after its second delay bundle and writes it to b7, `ctl.ret` pops. A
transfer whose condition is false does nothing. -/
def Obligations.Transfers : Prop :=
  (∀ t s, Issues t s → Lands (.ctlPbr t) s (.reg (kB ((s.source t.src).toNat / 2 ^ 20 % 8)) (s.source t.src &&& 0xFFFFF#64))) ∧
  (∀ t s, Issues t s →
    ((s.me.pred ((s.source t.src).toNat / 16 % 16) ^^ (s.source t.src).getLsbD 8) = false →
      Idle (.ctlBr t) s ∧ Idle (.ctlCall t) s ∧ Idle (.ctlRet t) s ∧ Idle (.ctlJt t) s) ∧
    ((s.me.pred ((s.source t.src).toNat / 16 % 16) ^^ (s.source t.src).getLsbD 8) = true → s.me.inDelay = false →
      s.me.ctl.loop.active = false →
      Completes (.ctlBr t) s (fun c => (c.atEnd (.take
        { target := c.breg ((s.source t.src).toNat % 8), slots := 2
          bubble := c.bubble ((s.source t.src).toNat % 8) })).event 1 0#8 ((c.breg ((s.source t.src).toNat % 8)).setWidth 32)) ∧
      (s.me.ctl.stack.length < 32 → Completes (.ctlCall t) s (fun c =>
        let ret := afterBundles s.lineOf 3 c.ctl.pc
        (((c.atEnd (.take { target := c.breg 7, slots := 2, bubble := c.bubble 7 })).event 1 0#8
          ((c.breg 7).setWidth 32)).atEnd (.push ret)).atEnd (.reg (kB 7) (ret.setWidth 64))))) ∧
      (∀ a l, s.me.ctl.stack = a :: l → s.me.inDelay = false → s.me.ctl.loop.active = false →
        (s.me.pred ((s.source t.src).toNat / 16 % 16) ^^ (s.source t.src).getLsbD 8) = true →
        Completes (.ctlRet t) s (fun c =>
          ((c.atEnd (.take { target := a, slots := 2, bubble := 0 })).event 1 0#8 (a.setWidth 32)).atEnd .pop)) ∧
      (let n := (s.source t.src).toNat % 8
       let a := (s.me.breg n).toNat
       let f := s.me.units.ver.frag.toNat
       let target : Addr20 := (imemWord s.myCluster.imem (a + 4 + 4 * f)).setWidth 20
       (f < (imemWord s.myCluster.imem a).toNat → s.me.inDelay = false → s.me.ctl.loop.active = false →
        (s.me.pred ((s.source t.src).toNat / 16 % 16) ^^ (s.source t.src).getLsbD 8) = true →
        Completes (.ctlJt t) s (fun c =>
          (c.atEnd (.take { target := target, slots := 2, bubble := 2 + c.bubble n })).event 1 0#8 (target.setWidth 32))) ∧
       ((imemWord s.myCluster.imem a).toNat ≤ f → Idle (.ctlJt t) s)))

/-- What stops a transfer or a loop (R136, R147, R153, R299): any transfer taken in a delay bundle (SLOT_XFER), or else while
the loop engine runs (LOOP_XFER), or else a call with a full stack (STACK_OVER) or a return with an empty one
(STACK_UNDER), each with the lowest code that applies; and a loop without a body, inside a loop, or in a delay bundle
(LOOP_OPERAND). Nothing else changes. -/
def Obligations.ControlFaults : Prop :=
  ∀ t s, Issues t s →
    let v := s.source t.src
    let taken := s.me.pred (v.toNat / 16 % 16) ^^ v.getLsbD 8
    let pc : U64 := s.me.ctl.pc.setWidth 64
    let entry : Prop := s.me.units.ver.frag.toNat < (imemWord s.myCluster.imem (s.me.breg (v.toNat % 8)).toNat).toNat
    (taken = true → s.me.inDelay = true → Raises (.ctlBr t) s 2 3 pc ∧ Raises (.ctlCall t) s 2 3 pc ∧
      Raises (.ctlRet t) s 2 3 pc ∧ (entry → Raises (.ctlJt t) s 2 3 pc)) ∧
    (taken = true → s.me.inDelay = false → s.me.ctl.loop.active = true → Raises (.ctlBr t) s 2 4 pc ∧ Raises (.ctlCall t) s 2 4 pc ∧
      Raises (.ctlRet t) s 2 4 pc ∧ (entry → Raises (.ctlJt t) s 2 4 pc)) ∧
    (taken = true → s.me.inDelay = false → s.me.ctl.loop.active = false → 32 ≤ s.me.ctl.stack.length → Raises (.ctlCall t) s 2 6 pc) ∧
    (taken = true → s.me.inDelay = false → s.me.ctl.loop.active = false → s.me.ctl.stack = [] → Raises (.ctlRet t) s 2 7 pc) ∧
    (v.toNat / 16 % 65536 = 0 ∨ s.me.ctl.loop.active = true ∨ s.me.inDelay = true → Raises (.ctlLoop t) s 2 5 pc)

/-- Loops, waits, polls, skips and predicates (R149-R155): what each schedules; what the end of its cycle makes of a
transfer, a skip, a call, a return, a loop and a break; what the loop engine does at a pass start (R154) and at its polite
point (R156); and the wait hold in which a stream stands whose token is still pending (R151). -/
def Obligations.ControlSteps : Prop :=
  (∀ t s, Issues t s → (s.source t.src).toNat / 16 % 65536 ≠ 0 → s.me.ctl.loop.active = false → s.me.inDelay = false →
    Lands (.ctlLoop t) s (.loop
      { active := true, b := (s.source t.src).toNat / 16 % 65536, n := (s.source t.src).toNat / 4 % 4
        stages := (s.source t.src).toNat % 4 + 1, start := afterBundles s.lineOf 1 s.me.ctl.pc
        stop := afterBundles s.lineOf ((s.source t.src).toNat / 16 % 65536) (afterBundles s.lineOf 1 s.me.ctl.pc)
        fresh := true })) ∧
  (∀ t s, Issues t s → Completes (.ctlTwait t) s (fun c => { c with pipe := { c.pipe with twait := some ((s.source t.src).toNat % 64) } })) ∧
  (∀ t s, Issues t s → Delivers (.ctlTpoll t) s 1 [.poll ((s.source t.src).toNat % 64)]) ∧
  (∀ t s, Issues t s →
    ((s.me.pred ((s.me.port 0x0D 0).toNat % 16) ^^ (s.me.port 0x0D 0).getLsbD 4) = true →
      Lands (.ctlSkip t) s (.skip ((s.source t.src).toNat % 16))) ∧
    ((s.me.pred ((s.me.port 0x0D 0).toNat % 16) ^^ (s.me.port 0x0D 0).getLsbD 4) = false → Completes (.ctlSkip t) s id)) ∧
  (∀ t s, Issues t s →
    (s.me.ctl.loop.active = true → Lands (.ctlLbrk t) s (.lbrk s.me.ctl.loop.n)) ∧
    (s.me.ctl.loop.active = false → Completes (.ctlLbrk t) s id)) ∧
  (∀ t s, Issues t s →
    let v := (s.source t.src).toNat
    let x := s.me.pred (v / 16 % 16) ^^ (s.source t.src).getLsbD 12
    let y := s.me.pred (v / 256 % 16) ^^ (s.source t.src).getLsbD 13
    let put (b : Bool) (i : Instr) : Prop :=
      if v % 16 = 0 then Completes i s id else Lands i s (.reg (kP (v % 16)) (if b then 1#64 else 0#64))
    put (x && y) (.ctlPand t) ∧ put (x || y) (.ctlPor t) ∧ put (x ^^ y) (.ctlPxor t)) ∧
  (∀ (c : Core) (core n : Nat) (x : Xfer) (a : Addr20) (e : LoopEng),
    c.applyW core (.take x) = { c with ctl := { c.ctl with xfer := some x } } ∧
    c.applyW core (.skip n) = { c with ctl := { c.ctl with skip := n } } ∧
    c.applyW core (.push a) = { c with ctl := { c.ctl with stack := a :: c.ctl.stack } } ∧
    c.applyW core .pop = { c with ctl := { c.ctl with stack := c.ctl.stack.drop 1 } } ∧
    (c.ctl.halted = false → c.applyW core (.loop e) = { c with ctl := { c.ctl with loop := e } }) ∧
    (n < 4 → (c.applyW core (.lbrk n)).lcreg n = 0#32 ∧ (∀ j, j ≠ kLc n → (c.applyW core (.lbrk n)).reg j = c.reg j) ∧
      (c.applyW core (.lbrk n)).ctl = { c.ctl with loop := { c.ctl.loop with cnt := 0#32 } })) ∧
  (∀ (c : Core) (drain : Bool), (c.ctl.loop.active = false ∨ c.ctl.loop.pos ≠ 0 → c.pass drain = c) ∧
    (c.ctl.loop.active = true → c.ctl.loop.pos = 0 → c.ctl.loop.n < 4 → c.ctl.loop.stages ≤ 4 →
      let l := c.ctl.loop
      let left : U32 := if l.fresh then c.lcreg l.n else l.cnt
      let enter : Bool := decide (left ≠ 0#32) && !drain
      let pat := (2 * l.pattern.toNat + if enter then 1 else 0) % 2 ^ l.stages
      let d := c.pass drain
      (∀ i < 4, d.pred (12 + i) = pat.testBit i) ∧ (∀ j, j < 204 ∨ 208 ≤ j → d.reg j = c.reg j) ∧
      d.ctl.pc = (if c.ctl.redirect then c.ctl.pc else if pat = 0 then l.stop else l.start) ∧
      (pat = 0 → d.ctl.loop = {} ∧ d.pipe = c.pipe) ∧
      (pat ≠ 0 → d.ctl.loop = { l with
          cnt := if enter then left - 1 else left, pattern := BitVec.ofNat 4 pat, fresh := false, drained := false } ∧
        d.pipe.endW = c.pipe.endW ++ (if enter then [.lcLoop (kLc l.n) ((left - 1).setWidth 64)] else [])))) ∧
  (∀ c : Core, c.ctl.xfer = none → c.ctl.loop.n < 4 →
    let left : U32 := if c.ctl.loop.fresh then c.lcreg c.ctl.loop.n else c.ctl.loop.cnt
    (∀ i < 4, c.loopStop.pred (12 + i) = false) ∧
    (left = 0#32 → c.loopStop.ctl.loop = {} ∧ c.loopStop.ctl.pc = c.ctl.loop.stop) ∧
    (left ≠ 0#32 → c.loopStop.ctl = { c.ctl with loop := { c.ctl.loop with
      drained := true, cnt := left, pattern := 0#4, pos := 0, fresh := false } })) ∧
  (∀ (s : State) (k : Nat), s.mustHold k = false →
    let u := s.engOver k
    let d := u.deliverDue k
    d.retires k = false → (d.cluster k).stall = false → (d.cluster k).raised = [] → (u.cluster k).saveDue = false →
    (∃ i < (d.cluster k).cores.length, ∃ n, ((d.cluster k).core i).pipe.twait = some n ∧ ((d.cluster k).core i).token n = 1#2) →
    s.boundary k = .next ((u.updCluster k (fun c => { c with asked := (d.cluster k).asked })).holdWait k)) ∧
  (∀ (s : State) (k : Nat), (s.cluster k).handler = true → s.holdWait k = s.updCluster k (fun c => c.held true))

/-! ## The load and store unit (spec/06 R157-R172) -/

/-- When a local access is refused (R159, R40): not while every byte lies in the scratchpad; WIN where a byte lies
outside the scratchpad and the aperture as one range, and for every store that reaches the aperture; PWF for a load
with a byte of the aperture outside the bound part of a window. -/
def Obligations.LocalRefusals : Prop :=
  ∀ (t : Team) (a n : Nat), 0 < n →
    (∀ store, a + n ≤ 0x180000 → localRefusal t store a n = 0#8) ∧
    (∀ store, 0x180000 < a + n → ¬(0xE00000 ≤ a ∧ a + n ≤ 0xF00000) → localRefusal t store a n = 1#8) ∧
    (0xE00000 ≤ a → a + n ≤ 0xF00000 → localRefusal t true a n = 1#8) ∧
    (0xE00000 ≤ a → a + n ≤ 0xF00000 →
      ((∀ i < n, ∃ w, slook t.wins ((a + i - 0xE00000) / 65536) = some w ∧ (a + i - 0xE00000) % 65536 < w.2) →
        localRefusal t false a n = 0#8) ∧
      ((∃ i < n, ∀ w, slook t.wins ((a + i - 0xE00000) / 65536) = some w → w.2 ≤ (a + i - 0xE00000) % 65536) →
        localRefusal t false a n = 2#8))

/-- The descriptor and byte forms of local access (R158, R159, R162): what each delivers four cycles on, from the scratchpad
or from the memory behind a window, what a store schedules for the end of the cycle, and the window fault that WINE makes of
a WIN refusal. What stands behind a window is stated where no error of the patrol waits to be written. -/
def Obligations.LocalAccesses : Prop :=
  (∀ w t s, Issues t s →
    let v := s.source t.src
    let n := 2 ^ w.toNat
    let st := localRefusal s.myCluster.info false v.toNat n
    (st = 0#8 → (0x180000 < v.toNat + n → s.fire.loc = none) → ∃ bs tags, s.LocalHolds s.me v.toNat n bs tags ∧
      CompletesTelling (.lsLd w t) s (fun c => (c.lsEvent w.toNat v).deliver 4 (lsPuts
        (some (if tagStatus tags = 0#8 then BitVec.ofNat 64 (leNat bs) else 0#64)) (tagStatus tags)))) ∧
    (st ≠ 0#8 → (st = 1#8 → s.myCluster.fenOr 0 = false) →
      Completes (.lsLd w t) s (fun c => (c.lsEvent w.toNat v).deliver 4 (lsPuts (some 0#64) st))) ∧
    (st = 1#8 → s.myCluster.fenOr 0 = true → RaisesAfter (.lsLd w t) s (fun c => c.lsEvent w.toNat v) 4 0
      (BitVec.ofNat 64 (firstRefused s.myCluster.info false v.toNat n)))) ∧
  (∀ w t s, Issues t s →
    let v := s.source t.src
    let n := 2 ^ w.toNat
    let st := localRefusal s.myCluster.info true v.toNat n
    (st = 0#8 → exec (.lsSt w t) s = .next ((s.updMe (fun c => (c.lsEvent (0x10 + w.toNat) v).deliver 4 (lsPuts none 0#8))).updMine
      (·.putLocal { prio := 0, core := s.coreOf, addr := v.toNat, bytes := leBytes n (s.me.port 0x0C 0).toNat, cls := s.me.lsClass }))) ∧
    (st ≠ 0#8 → (st = 1#8 → s.myCluster.fenOr 0 = false) →
      Completes (.lsSt w t) s (fun c => (c.lsEvent (0x10 + w.toNat) v).deliver 4 (lsPuts none st))) ∧
    (st = 1#8 → s.myCluster.fenOr 0 = true → RaisesAfter (.lsSt w t) s (fun c => c.lsEvent (0x10 + w.toNat) v) 4 0
      (BitVec.ofNat 64 (firstRefused s.myCluster.info true v.toNat n)))) ∧
  (∀ t s, Issues t s →
    let v := s.source t.src
    let a := v.toNat / 64 * 64
    let st := localRefusal s.myCluster.info false a 64
    let sw := localRefusal s.myCluster.info true a 64
    let first (store : Bool) : U64 := BitVec.ofNat 64 (firstRefused s.myCluster.info store a 64)
    (st = 0#8 → (0x180000 < a + 64 → s.fire.loc = none) → ∃ bs tags, s.LocalHolds s.me a 64 bs tags ∧
      CompletesTelling (.lsLdd t) s (fun c => (c.lsEvent 0x28 v).deliver 4 (lsPuts (some ((tags.headD 0#16).setWidth 64)) 0#8))) ∧
    (st ≠ 0#8 → (st = 1#8 → s.myCluster.fenOr 0 = false) →
      Completes (.lsLdd t) s (fun c => (c.lsEvent 0x28 v).deliver 4 (lsPuts (some 0#64) st))) ∧
    (st = 1#8 → s.myCluster.fenOr 0 = true → RaisesAfter (.lsLdd t) s (fun c => c.lsEvent 0x28 v) 4 0 (first false)) ∧
    (sw = 0#8 → exec (.lsStd t) s = .next ((s.updMe (fun c => (c.lsEvent 0x29 v).deliver 4 (lsPuts none 0#8))).updMine
      (·.putLocal { prio := 0, core := s.coreOf, addr := a, bytes := [], tags := [(a / 64, (s.me.port 0x0C 0).setWidth 16)]
                    cls := s.me.lsClass }))) ∧
    (sw ≠ 0#8 → s.myCluster.fenOr 0 = false → Completes (.lsStd t) s (fun c => (c.lsEvent 0x29 v).deliver 4 (lsPuts none sw))) ∧
    (sw ≠ 0#8 → s.myCluster.fenOr 0 = true → RaisesAfter (.lsStd t) s (fun c => c.lsEvent 0x29 v) 4 0 (first true)))

/-- The scratchpad (R159, R160, R51, R283). A write that is due stands where it says at the end of its cycle; every other byte,
every descriptor that it does not name, and every other core is unchanged, but for the notes of recent stores that an engine
may still read past (log entry 82). Writes of one cycle apply in the order `ls`, `vx0`, `vx1`, verifier, engines, and the
last writer of a byte wins, in whatever order they were made. Local bytes and descriptors that lie in the scratchpad are
those of the core as they stand. -/
def Obligations.ScratchpadWrites : Prop :=
  (∀ (c : Cluster) (w : LocW), c.endLoc = [w] → w.core < c.cores.length →
    (∀ i (h : i < w.bytes.length), (c.applyLocs.core w.core).scratch.rd (w.addr + i) = w.bytes[i]) ∧
    (∀ a, a < w.addr ∨ w.addr + w.bytes.length ≤ a → (c.applyLocs.core w.core).scratch.rd a = (c.core w.core).scratch.rd a) ∧
    (w.tags = [] → (c.applyLocs.core w.core).scratch.tags = (c.core w.core).scratch.tags) ∧
    (∀ l d, w.tags = [(l, d)] → sget dtOn (c.applyLocs.core w.core).scratch.tags l = d ∧
      ∀ j, j ≠ l → sget dtOn (c.applyLocs.core w.core).scratch.tags j = sget dtOn (c.core w.core).scratch.tags j) ∧
    { c.applyLocs.core w.core with scratch := (c.core w.core).scratch, recent := (c.core w.core).recent } = c.core w.core ∧
    (∀ i, i ≠ w.core → { c.applyLocs.core i with recent := (c.core i).recent } = c.core i) ∧ c.applyLocs.endLoc = []) ∧
  (∀ (c : Cluster) (v w : LocW), v.core = w.core → v.core < c.cores.length → v.prio < w.prio → v.tags = [] → w.tags = [] →
    (c.endLoc = [v, w] ∨ c.endLoc = [w, v]) →
    (∀ i (h : i < w.bytes.length), (c.applyLocs.core w.core).scratch.rd (w.addr + i) = w.bytes[i]) ∧
    (∀ i (h : i < v.bytes.length), v.addr + i < w.addr ∨ w.addr + w.bytes.length ≤ v.addr + i →
      (c.applyLocs.core w.core).scratch.rd (v.addr + i) = v.bytes[i])) ∧
  (∀ (s : State) (t : Team) (c : Core) (a n : Nat), a + n ≤ 0x180000 →
    (s.localBytes t c a n).length = n ∧ (s.localTags t c a n).length = n ∧
    ∀ i < n, (s.localBytes t c a n)[i]? = some (c.scratch.rd (a + i)) ∧
      (s.localTags t c a n)[i]? = some (sget dtOn c.scratch.tags ((a + i) / 64)) ∧
      s.localTag t c (a + i) = sget dtOn c.scratch.tags ((a + i) / 64))

/-- Accesses to the Gallery (R163, R164): inside the launch's allocation an access enters the buffers once for each line
that it touches, in the class of `ls.c`; with a byte outside it is a protection fault GAL_RANGE and makes no access. -/
def Obligations.GalleryAccesses : Prop :=
  ∀ (i : Instr) (opc lat : Nat) (store : Bool) (w : BitVec 2) (t : Trig) (s : State),
    (i, opc, lat, store) ∈ [(Instr.lsLdn w t, 0x04, 36, false), (.lsLdf w t, 0x08, 60, false),
      (.lsStn w t, 0x14, 36, true), (.lsStf w t, 0x18, 60, true)] → Issues t s →
    let v := s.source t.src
    let n := 2 ^ w.toNat
    let own := s.myCluster.info
    (own.gbase ≤ v.toNat → v.toNat + n ≤ own.gbase + own.gsize → v.toNat + n ≤ 0x18000000 →
      ScalarAccess i s (opc + w.toNat) lat v .gal v.toNat n (if store then some (leBytes n (s.me.port 0x0C 0).toNat) else none)) ∧
    (v.toNat < own.gbase ∨ own.gbase + own.gsize < v.toNat + n ∨ 0x18000000 < v.toNat + n →
      RaisesAfter i s (fun c => c.lsEvent (opc + w.toNat) v) 6 1 v)

/-- Scalar accesses and metadata accesses through the handle in `ls.h` (R168, R170): refused with RES where the handle is
not valid or not resident or the bytes leave its page; a protection fault PERM without permission, whose `sys.tval` is the
offset of the access in its page (DEDUCED, log entry 49); a store to a migrating page waits; otherwise the access enters
the buffers at the physical address. -/
def Obligations.HandleAccesses : Prop :=
  (∀ (i : Instr) (opc : Nat) (store : Bool) (w : BitVec 2) (t : Trig) (s : State),
    (i, opc, store) ∈ [(Instr.lsLdh w t, 0x0C, false), (.lsSth w t, 0x1C, true)] → Issues t s →
    let v := s.source t.src
    let n := 2 ^ w.toNat
    let h := s.me.port 0x0C 1
    let open' := h.getLsbD 63 = true ∧ h.getLsbD 62 = true ∧ v.toNat + n ≤ hSize h
    let may := h.getLsbD (if store then 59 else 60) = true
    (¬open' → Completes i s (fun c => (c.lsEvent (opc + w.toNat) v).deliver 640 (lsPuts (if store then none else some 0#64) 4#8))) ∧
    (open' → ¬may → RaisesAfter i s (fun c => c.lsEvent (opc + w.toNat) v) 6 2 v) ∧
    (open' → may → (store = true → s.migrating s.myCluster.info.launch h = false) →
      ScalarAccess i s (opc + w.toNat) 640 v .mem (65536 * hFrame h + v.toNat) n
        (if store then some (leBytes n (s.me.port 0x0C 0).toNat) else none)) ∧
    (open' → may → store = true → s.migrating s.myCluster.info.launch h = true →
      exec i s = .next ((s.updMe (fun c => c.lsEvent (opc + w.toNat) v)).updMine (fun c =>
        { c with stall := true, asked := c.asked ++ [(s.coreOf, false)] })))) ∧
  (∀ (i : Instr) (opc : Nat) (store : Bool) (t : Trig) (s : State),
    (i, opc, store) ∈ [(Instr.lsMeta t, 0x26, false), (.lsSetmeta t, 0x27, true)] → Issues t s →
    let v := s.source t.src
    let off := v.toNat / 64 * 64
    let h := s.me.port 0x0C 1
    let open' := h.getLsbD 63 = true ∧ h.getLsbD 62 = true ∧ off + 64 ≤ hSize h
    let may := h.getLsbD (if store then 59 else 60) = true
    (¬open' → Completes i s (fun c => (c.lsEvent opc v).deliver 640 (lsPuts (if store then none else some 0#64) 4#8))) ∧
    (open' → ¬may → RaisesAfter i s (fun c => c.lsEvent opc v) 6 2 (BitVec.ofNat 64 off)) ∧
    (open' → may → store = true → s.migrating s.myCluster.info.launch h = true →
      exec i s = .next ((s.updMe (fun c => c.lsEvent opc v)).updMine (fun c =>
        { c with stall := true, asked := c.asked ++ [(s.coreOf, false)] }))) ∧
    (open' → may → (store = true → s.migrating s.myCluster.info.launch h = false) →
      Queues i s [s.newAccess 0 s.me.lsClass (.mem ((65536 * hFrame h + off) / 64))
          (if store then .storeMeta (s.me.port 0x0C 0) else .loadMeta) true]
        (fun c => let c := c.lsEvent opc v
          { c with pipe := { c.pipe with flights := c.pipe.flights ++
            [{ left := 640, puts := [], ids := [s.nextAcc], need := some (if store then .storeSw else .loadSw) }] } })))

/-- The vector forms of `ls` (R161, R168, R169). In the scratchpad and the aperture the operation goes in flight with the shape,
the register and the mask that the ports name, with the elements refused that R159 refuses, one chunk for each 256 bytes.
Through a handle it makes one access for each block that accepted elements touch, in ascending order; elements of an
invalid or non-resident handle, or with a byte beyond the page, are refused with RES; a permission failure faults for the
whole access, unless no element lies in the page, and its `sys.tval` is the offset of the access in its page (DEDUCED, log
entry 49); a store to a migrating page waits. A shape holds at most 4,096 elements (R205). -/
def Obligations.VectorAccesses : Prop :=
  (∀ (i : Instr) (opc : Nat) (store : Bool) (t : Trig) (s : State),
    (i, opc, store) ∈ [(Instr.lsVld t, 0x20, false), (.lsVst t, 0x21, true)] → Issues t s →
    let v := s.source t.src
    let sh := s.me.vshape
    let refused (e : Nat) : BitVec 8 := localRefusal s.myCluster.info store (v.toNat + e * shWidth sh) (shWidth sh)
    ((∀ e < shRows sh * shCols sh, refused e = 1#8 → s.myCluster.fenOr 0 = false) →
      ∃ x : LsVec, Completes i s (fun c => let c := c.lsEvent opc v
          { c with pipe := { c.pipe with lsv := c.pipe.lsv ++ [x] } }) ∧
        (x.store = store ∧ x.handle = false ∧ x.reg = (s.me.port 0x0C 3).toNat % 32 ∧ x.mask = (s.me.port 0x0C 0).toNat % 8 ∧
          x.addr = v.toNat ∧ x.rows = shRows sh ∧ x.cols = shCols sh ∧ x.width = shWidth sh ∧ x.lat = 4 ∧ x.age = 0 ∧
          x.cls = s.me.lsClass ∧ x.chunks = ceilDiv (shRows sh * shCols sh * shWidth sh) 256) ∧
        (∀ e < 4096, x.refused.getLsbD e = (e < shRows sh * shCols sh && refused e ≠ 0#8)) ∧
        (∀ b < 8, x.status.getLsbD b = (List.range (shRows sh * shCols sh)).any (fun e => (refused e).getLsbD b))) ∧
    (∀ e, e < shRows sh * shCols sh → refused e = 1#8 → (∀ d < e, refused d ≠ 1#8) → s.myCluster.fenOr 0 = true →
      RaisesAfter i s (fun c => c.lsEvent opc v) 4 0
        (BitVec.ofNat 64 (firstRefused s.myCluster.info store (v.toNat + e * shWidth sh) (shWidth sh))))) ∧
  (∀ (i : Instr) (opc : Nat) (store : Bool) (t : Trig) (s : State),
    (i, opc, store) ∈ [(Instr.lsVldh t, 0x22, false), (.lsVsth t, 0x23, true)] → Issues t s →
    let v := s.source t.src
    let sh := s.me.vshape
    let n := shRows sh * shCols sh
    let h := s.me.port 0x0C 1
    let open' := h.getLsbD 63 = true ∧ h.getLsbD 62 = true
    let may := h.getLsbD (if store then 59 else 60) = true
    let fit := min ((hSize h - v.toNat) / shWidth sh) n
    let blocks := handleBlocks v.toNat fit (shWidth sh)
    n ≤ 4096 → (open' → fit ≠ 0 → ¬may → RaisesAfter i s (fun c => c.lsEvent opc v) 6 2 v) ∧
    (open' → fit ≠ 0 → may → store = true → s.migrating s.myCluster.info.launch h = true →
      exec i s = .next ((s.updMe (fun c => c.lsEvent opc v)).updMine (fun c =>
        { c with stall := true, asked := c.asked ++ [(s.coreOf, false)] }))) ∧
    (open' → (fit ≠ 0 → may ∧ (store = true → s.migrating s.myCluster.info.launch h = false)) → ∃ x : LsVec,
      Queues i s (blocks.zipIdx.map (fun b => s.newAccess b.2 s.me.lsClass (.mem ((65536 * hFrame h + b.1.1) / 64))
          (if store then .store [] none else .load) (!store)))
        (fun c => let c := c.lsEvent opc v
          { c with pipe := { c.pipe with lsv := c.pipe.lsv ++ [x] } }) ∧
      x.lat = 640 ∧ x.handle = true ∧ x.store = store ∧ x.addr = v.toNat ∧ x.hand = h ∧
      x.ids.map (·.2.2) = (List.range blocks.length).map (s.nextAcc + ·) ∧
      x.status = (if fit = n then 0#8 else 4#8) ∧
      ∀ e < 4096, x.refused.getLsbD e = (fit ≤ e && e < n)) ∧
    (¬open' → 0 < n → ∃ x : LsVec,
      Completes i s (fun c => let c := c.lsEvent opc v
        { c with pipe := { c.pipe with lsv := c.pipe.lsv ++ [x] } }) ∧
      x.lat = 640 ∧ x.status = 4#8 ∧ x.ids = [] ∧ ∀ e < 4096, x.refused.getLsbD e = (e < n)))

/-- What the replies make of a scalar access (R158, R159, R164, R168, R170, R173): a load delivers its bytes, little-endian
and zero-extended, or zero with POI or FMT where a line is poison or of a reserved format; one that crosses into a second
line takes its bytes from both; a store delivers its status alone; a metadata load the metadata; a bank operation the old
word and its status, with its flags. The status of a metadata form is 0 whatever the block's descriptor is (DESIGN CHOICE,
log entry 73). -/
def Obligations.RepliesBecomeResults : Prop :=
  (∀ (s : State) (f : Flight) (r : Reply), f.ids = [r.id] → f.puts = [] → s.arrivedReply r.id = some r →
    (∀ w off, f.need = some (.load w off) →
      s.flightPuts f = lsPuts (some (if tagStatus [r.tag] = 0#8 then BitVec.ofNat 64 (leNat ((r.bytes.drop off).take w)) else 0#64))
        (tagStatus [r.tag])) ∧
    (f.need = some .store ∨ f.need = some .storeSw → s.flightPuts f = lsPuts none 0#8) ∧
    (f.need = some .loadSw → s.flightPuts f = lsPuts (some r.swMeta) 0#8) ∧
    (f.need = some .atomic → s.flightPuts f =
      [.port (keyOf 0x0F 0) r.old, .port (keyOf 0x0F 1) (r.status.setWidth 64), .sticky r.flags])) ∧
  (∀ (s : State) (f : Flight) (r q : Reply), f.ids = [r.id, q.id] → f.puts = [] → s.arrivedReply r.id = some r →
    s.arrivedReply q.id = some q →
    (∀ w off, f.need = some (.load w off) → r.bytes.length = 64 → off ≤ 64 → 64 - off ≤ w →
      let st := tagStatus [r.tag, q.tag]
      s.flightPuts f = lsPuts (some (if st = 0#8 then
        BitVec.ofNat 64 (leNat (r.bytes.drop off) + leNat (q.bytes.take (w - (64 - off))) * 2 ^ (8 * (64 - off))) else 0#64)) st) ∧
    (f.need = some .store → s.flightPuts f = lsPuts none 0#8)) ∧
  (∀ (s : State) (f : Flight), f.left = 0 → (∃ i ∈ f.ids, s.arrivedReply i = none) → f ∈ s.me.pipe.flights → s.lateHere = true) ∧
  (∀ (tags : List U16) (b : Nat), b < 8 → (tagStatus tags).getLsbD b =
    tags.any (fun d => (b = 3 && (descFmt d = 0x7F || fmtReserved (descFmt d))) || (b = 4 && fmtReserved (descFmt d))))

/-- Translation (R167, R165, R362-R364): `ls.xlat` delivers, six cycles on, the handle of the page that holds the address,
or 0 where there is none or the address is 2^57 or above; a malformed entry on the way is reported to Shiftboss. It is
stated where no error of the patrol waits to be written, which a walk could meet (R357). -/
def Obligations.Translation : Prop :=
  ∀ t s, Issues t s → s.fire.loc = none →
    (2 ^ 57 ≤ (s.source t.src).toNat → Delivers (.lsXlat t) s 6 [.port kLsHr 0#64]) ∧
    (∀ (e : U64) (l : Nat), s.translate s.myCluster.info (s.source t.src).toNat = .leaf e l → 1 ≤ l → l ≤ 3 →
      memNode (entryAddr e) ≠ none → (s.source t.src).toNat < 2 ^ 57 → ∃ h : U64,
      Delivers (.lsXlat t) s 6 [.port kLsHr h] ∧ h.getLsbD 63 = true ∧ h.getLsbD 62 = e.getLsbD 2 ∧ h.getLsbD 61 = e.getLsbD 3 ∧
      h.getLsbD 60 = e.getLsbD 4 ∧ h.getLsbD 59 = e.getLsbD 5 ∧ h.toNat / 2 ^ 57 % 4 = e.toNat / 2 ^ 6 % 4 ∧
      h.toNat / 2 ^ 55 % 4 = 3 - l ∧ some (h.toNat / 2 ^ 53 % 4) = memNode (entryAddr e) ∧
      h.toNat % 2 ^ 53 = entryAddr e / 65536) ∧
    (s.translate s.myCluster.info (s.source t.src).toNat = .unmapped → Delivers (.lsXlat t) s 6 [.port kLsHr 0#64]) ∧
    (∀ pa e, s.translate s.myCluster.info (s.source t.src).toNat = .malformed pa e → exec (.lsXlat t) s = .next
      (({ s with boss := { s.boss with malformed := (s.myCluster.info.launch, pa, e) :: s.boss.malformed } } : State).updMe
        (fun c => c.deliver 6 [.port kLsHr 0#64])))

/-- Page requests of a program (R171, R387): what `ls.preq` answers twelve cycles on, with a tag taken and a request sent only
in the last case, its record with ACC 0 on the route of the page-service queue; a malformed entry is reported; and the
status that `ls.pst` answers, a settled tag freed at the end of the cycle. The request is stated where no error of the patrol
waits to be written. -/
def Obligations.PageRequests : Prop :=
  (∀ t s, Issues t s → s.fire.loc = none →
    let v := s.source t.src
    let x := s.translate s.myCluster.info v.toNat
    let page : U64 := BitVec.ofNat 64 (pageOf x v.toNat)
    let absent := v.toNat < 2 ^ 57 ∧ (∀ pa e, x ≠ .malformed pa e) ∧ ∀ e l, x = .leaf e l → e.getLsbD 2 = false
    let answer (n : Nat) : List Put := [.port (keyOf 0x0C 3) (BitVec.ofNat 64 n)]
    (2 ^ 57 ≤ v.toNat → Delivers (.lsPreq t) s 12 (answer 0x2000FFFF)) ∧
    (v.toNat < 2 ^ 57 → ∀ pa e, x = .malformed pa e → exec (.lsPreq t) s = .next
      (({ s with boss := { s.boss with malformed := (s.myCluster.info.launch, pa, e) :: s.boss.malformed } } : State).updMe
        (fun c => c.deliver 12 (answer 0x2000FFFF)))) ∧
    (v.toNat < 2 ^ 57 → ∀ e l, x = .leaf e l → e.getLsbD 2 = true → Delivers (.lsPreq t) s 12 (answer 0x1000FFFF)) ∧
    (absent → ∀ k p, s.me.units.preq.find? (fun q => q.2.page = page && q.2.st = 0) = some (k, p) →
      Delivers (.lsPreq t) s 12 (answer k)) ∧
    (absent → s.me.units.preq.find? (fun q => q.2.page = page && q.2.st = 0) = none →
      (freeTag s.me.units.preq = none → Delivers (.lsPreq t) s 12 (answer 0x3000FFFF)) ∧
      (∀ k, freeTag s.me.units.preq = some k → ∃ r id, exec (.lsPreq t) s = .next r ∧
        slook r.me.units.preq k = some { page := page, st := 0, id := id } ∧
        (∃ q, r.pages = s.pages ++ [q] ∧ q.id = id ∧ q.va = v ∧ q.write = false ∧ q.launch = s.myCluster.info.launch) ∧
        (((s.launchOf s.myCluster.info.launch).map Launch.pri).getD false = false → r.host.prq = s.host.prq ++
          [(s.host.prqTail.toNat, leBytes 8 id.toNat ++ leBytes 8 v.toNat ++ List.replicate 16 0#8)]) ∧
        r.me.pipe.flights = s.me.pipe.flights ++ [{ left := 12, puts := answer k }] ∧
        r.me.regs = s.me.regs ∧ r.me.opnd = s.me.opnd ∧ r.me.res = s.me.res ∧ r.me.scratch = s.me.scratch ∧
        r.dram = s.dram ∧ r.gal = s.gal ∧ ∀ j, j ≠ s.slotOf → r.cluster j = s.cluster j))) ∧
  (∀ t s, Issues t s →
    let k := (s.source t.src).toNat % 65536
    (16 ≤ k ∨ slook s.me.units.preq k = none → Delivers (.lsPst t) s 4 [.port (keyOf 0x0C 3) 0x4000FFFF#64]) ∧
    (k < 16 → ∀ p, slook s.me.units.preq k = some p →
      (p.st = 0 → Delivers (.lsPst t) s 4 [.port (keyOf 0x0C 3) (BitVec.ofNat 64 k)]) ∧
      (p.st ≠ 0 → Completes (.lsPst t) s (fun c =>
        (c.deliver 4 [.port (keyOf 0x0C 3) (BitVec.ofNat 64 (p.st * 2 ^ 28 + k))]).atEnd (.preg k none))))) ∧
  (∀ (c : Core) (core k j : Nat), slook (c.applyW core (.preg k none)).units.preq k = none ∧
    (j ≠ k → slook (c.applyW core (.preg k none)).units.preq j = slook c.units.preq j))

/-- A fence (R172, R324): it takes its mask, scope and kind, the scopes from 5 up acting as system, and stands after the
accesses of its bundle. Of the accesses that came after, a full fence holds those of its classes back until those before it
of its stream, of its classes, have performed at its scope; a release holds back stores; an acquire waits for loads and bank
operations. -/
def Obligations.Fences : Prop :=
  (∀ t s, Issues t s → Lands (.lsFence t) s (.fence
    { first := s.nextAcc, last := s.nextAcc, mask := (s.source t.src).setWidth 16
      scope := min 4 ((s.source t.src).toNat / 2 ^ 16 % 8), kind := (s.source t.src).toNat / 2 ^ 20 % 4 })) ∧
  (∀ (s : State) (f : Fence), s.hasMe →
    (s.applyLate (.fence f)).me.pipe.fences = s.me.pipe.fences ++ [{ f with last := s.nextAcc }]) ∧
  (∀ (all : List Access) (a : Access) (f : Fence), fenceLets all a f = true ↔
    a.seq < f.last ∨ ((f.kind = 1 → ∀ b ∈ all, b.party = .core → b.stream = a.stream → b.seq < f.first →
        f.mask.getLsbD b.cls.toNat = true → b.reads = false) ∧
      (f.kind = 2 → a.writes = true → ∀ b ∈ all, b.party = .core → b.stream = a.stream → b.seq < f.first →
        f.mask.getLsbD b.cls.toNat = true → b.at f.scope = true) ∧
      (f.kind ≠ 1 → f.kind ≠ 2 → f.mask.getLsbD a.cls.toNat = true → ∀ b ∈ all, b.party = .core → b.stream = a.stream →
        b.seq < f.first → f.mask.getLsbD b.cls.toNat = true → b.at f.scope = true)))

/-! ## Bank operations (spec/06 R173-R177) -/

/-- Issue of a bank operation (R173, R163): an aligned word in the launch's allocation sends one access to its bank with
the operand, the compare value and the key of the core; a misaligned one performs nothing, delivers 0 and sets ALN; one
outside the allocation is a protection fault GAL_RANGE and sends nothing. -/
def Obligations.BankOperationsIssue : Prop :=
  ∀ (t : Trig) (s : State) (i : Instr) (op n lat : Nat), (i, op, n, lat) ∈ gaRows t → Issues t s →
    let v := s.source t.src
    let own := s.myCluster.info
    let note (c : Core) : Core := c.event 4 (BitVec.ofNat 8 (op + if lat = 60 then 0x20 else 0)) (v.setWidth 32)
    let inside := own.gbase ≤ v.toNat ∧ v.toNat + n ≤ own.gbase + own.gsize ∧ v.toNat + n ≤ 0x18000000
    (inside → v.toNat % n = 0 →
      Queues i s [s.newAccess 0 ((s.me.port 0x0F 2).setWidth 4) (.gal (v.toNat / 64))
          (.bank op (v.toNat % 64) (s.me.port 0x0F 0) (s.me.port 0x0F 1) s.me.key) true]
        (fun c => let c := note c
          { c with pipe := { c.pipe with flights := c.pipe.flights ++
            [{ left := lat, puts := [], ids := [s.nextAcc], need := some .atomic }] } })) ∧
    (inside → v.toNat % n ≠ 0 →
      Completes i s (fun c => (note c).deliver lat [.port (keyOf 0x0F 0) 0#64, .port (keyOf 0x0F 1) 1#64])) ∧
    (¬inside → RaisesAfter i s note 6 1 v)

/-- What the bank stores (R175-R177): the new word of each of the twelve operations, and the status and flags that it gives.
`ga.fadd` rounds the exact sum to FP32 to nearest, `ga.fmax` takes the larger number with -0 below +0, `ga.mdraw` merges the
draw pairs by the rule of `MergeRule`, and a releasing `ga.bar` sets REL. -/
def Obligations.BankWords : Prop :=
  (∀ (old o c : U64) (u : U32),
    (bankNew 0 old o c u).1.toNat = (old.toNat + o.toNat) % 2 ^ 64 ∧
    (∀ i < 64, (bankNew 1 old o c u).1.getLsbD i = (old.getLsbD i && o.getLsbD i) ∧
      (bankNew 2 old o c u).1.getLsbD i = (old.getLsbD i || o.getLsbD i) ∧
      (bankNew 3 old o c u).1.getLsbD i = (old.getLsbD i ^^ o.getLsbD i)) ∧
    (bankNew 4 old o c u).1.toInt = max old.toInt o.toInt ∧
    (bankNew 5 old o c u).1.toInt = min old.toInt o.toInt ∧
    (bankNew 6 old o c u).1 = o ∧
    (bankNew 7 old o c u).1 = (if old.toNat = c.toNat then o else old) ∧
    (let n := (old.toNat + 1) % 2 ^ 32
     let gen := old.toNat / 2 ^ 32
     (c.toNat % 2 ^ 32 ≤ n → (bankNew 11 old o c u).1.toNat = (gen + 1) % 2 ^ 32 * 2 ^ 32 ∧ (bankNew 11 old o c u).2.1 = 0x10#8) ∧
     (n < c.toNat % 2 ^ 32 → (bankNew 11 old o c u).1.toNat = gen * 2 ^ 32 + n ∧ (bankNew 11 old o c u).2.1 = 0#8)) ∧
    (∀ op, op ≤ 7 ∨ op = 11 → (bankNew op old o c u).2.2 = 0#32) ∧ ∀ op, op ≤ 9 → (bankNew op old o c u).2.1 = 0#8) ∧
  (∀ (old o c : U64) (u : U32),
    let x := old.toNat % 2 ^ 32
    let y := o.toNat % 2 ^ 32
    let a := ofF32 x
    let b := ofF32 y
    (let sum := vadd false a b
     let r := toF32 sum.1
     (bankNew 8 old o c u).1.toNat = r.1 ∧ (bankNew 8 old o c u).2.2 = sum.2 ||| r.2) ∧
    (a = .nan ∨ b = .nan → (bankNew 9 old o c u).1.toNat = 0x7FC00000) ∧
    (a ≠ .nan → b ≠ .nan → (bankNew 9 old o c u).1.toNat =
      if vlt a b then y else if vlt b a then x else if x.testBit 31 then y else x) ∧
    (bankNew 9 old o c u).2.2 = 0#32) ∧
  (∀ (old o c : U64) (u : U32),
    let m := mergePair old o (c.getLsbD 0) u
    let r := bankNew 10 old o c u
    r.1 = m.1 ∧ r.2.2 = m.2 ∧
    ∀ i < 8, r.2.1.getLsbD i = ((i = 2 && decide (m.2 &&& fEMP ≠ 0#32)) || (i = 3 && decide (m.2 &&& fINV ≠ 0#32))))

/-- The perform step of a bank operation (R173, R175, R176, R325): the reply gives the old word; the new word stands in
its bytes and every other byte of the Gallery and of device memory, and every descriptor, is unchanged; the merge counter
of the bank advances for `ga.mdraw` alone. A poison line is neither read nor written, and the reply says POI; so it is with a
line of a reserved format, with FMT beside (DEDUCED from R52, log entry 45). The line is one in which no error stands. -/
def Obligations.BankPerform : Prop :=
  ∀ (s : State) (a : Access) (l op off : Nat) (o c key : U64), a.loc = .gal l → a.op = .bank op off o c key →
    off + bankSize op ≤ 64 → s.found a.loc .clean = .clean → a.loc ∉ s.bad →
    let p := s.performAt a .clean
    let n := bankSize op
    let old : U64 := BitVec.ofNat 64 (leNat (s.gal.bytes (64 * l + off) n))
    let ctr := sget 0#64 s.bankCtr (galBank l)
    let new := bankNew op old o c ((mix key ctr >>> 32).setWidth 32)
    (descFmt (s.gal.tag dtZero (64 * l)) ≠ 0x7F → fmtReserved (descFmt (s.gal.tag dtZero (64 * l))) = false →
      p.2.old = old ∧ p.2.status = new.2.1 ∧ p.2.flags = new.2.2 ∧ p.2.id = a.id ∧
      p.1.gal.bytes (64 * l + off) n = leBytes n new.1.toNat ∧
      (∀ x, x < 64 * l + off ∨ 64 * l + off + n ≤ x → p.1.gal.rd x = s.gal.rd x) ∧
      p.1.gal.tags = s.gal.tags ∧ p.1.dram = s.dram ∧ p.1.clusters = s.clusters ∧
      sget 0#64 p.1.bankCtr (galBank l) = (if op = 10 then ctr + 1 else ctr) ∧
      ∀ b, b ≠ galBank l → sget 0#64 p.1.bankCtr b = sget 0#64 s.bankCtr b) ∧
    (descFmt (s.gal.tag dtZero (64 * l)) = 0x7F →
      p.1 = s ∧ p.2.old = 0#64 ∧ p.2.status = 2#8 ∧ p.2.flags = fPOI) ∧
    (fmtReserved (descFmt (s.gal.tag dtZero (64 * l))) = true →
      p.1 = s ∧ p.2.old = 0#64 ∧ p.2.status = 2#8 ∧ p.2.flags = fPOI ||| fFMT)

/-! ## Loads and stores at memory (spec/11 R317, spec/02 R51) -/

/-- The perform step of a load, of a store and of a metadata access on a location in which no error stands (R317, R51, R170,
R355): a load changes nothing and its reply holds the line as it stands, with the metadata of its block; a store changes
exactly its bytes, and the descriptor only where it writes the whole line and brings one; a metadata store changes the
metadata of its block alone, cut to 32 bits under grade 1 and to 40 under grade 2, and nothing under grade 0. Other lines of
the same memory, and the other memory, are unchanged. The control line of a collective ring, which keeps some of its
bytes, is a part of `Collectives`. -/
def Obligations.LoadsAndStoresPerform : Prop :=
  (∀ (s : State) (a : Access), a.op = .load → s.found a.loc .clean = .clean →
    (s.performAt a .clean).1 = s ∧ (s.performAt a .clean).2.bytes = s.locBytes a.loc ∧
    (s.performAt a .clean).2.tag = s.locTag a.loc ∧ (s.performAt a .clean).2.id = a.id) ∧
  (∀ (s : State) (a : Access) (l off : Nat) (bs : List Byte), a.loc = .gal l → a.op = .store (bytesAt off bs) none →
    off + bs.length ≤ 64 → s.found a.loc .clean = .clean → a.loc ∉ s.bad →
    let t := (s.performAt a .clean).1
    (∀ i (h : i < bs.length), t.gal.rd (64 * l + off + i) = bs[i]) ∧
    (∀ x, x < 64 * l + off ∨ 64 * l + off + bs.length ≤ x → t.gal.rd x = s.gal.rd x) ∧
    t.gal.tags = s.gal.tags ∧ t.dram = s.dram ∧ t.clusters = s.clusters ∧ t.bankCtr = s.bankCtr) ∧
  (∀ (s : State) (a : Access) (b off : Nat) (bs : List Byte), a.loc = .mem b → a.op = .store (bytesAt off bs) none →
    off + bs.length ≤ 64 → s.found a.loc .clean = .clean → a.loc ∉ s.bad →
    (∀ r ∈ s.rings, ∀ pa, (s.writeLoc a.loc (bytesAt off bs) none).ringPa r = some pa → pa / 64 ≠ b) →
    let t := (s.performAt a .clean).1
    (∀ i (h : i < bs.length), t.dram.mem.rd (64 * b + off + i) = bs[i]) ∧
    (∀ x, x < 64 * b + off ∨ 64 * b + off + bs.length ≤ x → t.dram.mem.rd x = s.dram.mem.rd x) ∧
    t.dram.mem.tags = s.dram.mem.tags ∧ t.dram.swMeta = s.dram.swMeta ∧ t.gal = s.gal ∧ t.bankCtr = s.bankCtr ∧
    ∀ k, (t.cluster k).cores.map Core.regs = (s.cluster k).cores.map Core.regs) ∧
  (∀ (s : State) (a : Access) (b : Nat) (bs : List Byte) (d : U16), a.loc = .mem b → a.op = .store (bytesAt 0 bs) (some d) →
    bs.length = 64 →
    (∀ r ∈ s.rings, ∀ pa, (s.writeLoc a.loc (bytesAt 0 bs) (some d)).ringPa r = some pa → pa / 64 ≠ b) →
    let t := (s.performAt a .clean).1
    t.dram.mem.bytes (64 * b) 64 = bs ∧ t.dram.mem.tag dtZero (64 * b) = d ∧
    (∀ x, x / 64 ≠ b → t.dram.mem.rd x = s.dram.mem.rd x ∧ t.dram.mem.tag dtZero x = s.dram.mem.tag dtZero x) ∧
    t.dram.swMeta = s.dram.swMeta ∧ t.dram.grade = s.dram.grade ∧ t.gal = s.gal ∧ t.bankCtr = s.bankCtr) ∧
  (∀ (s : State) (a : Access) (l : Nat) (bs : List Byte) (d : U16), a.loc = .gal l → a.op = .store (bytesAt 0 bs) (some d) →
    bs.length = 64 →
    let t := (s.performAt a .clean).1
    t.gal.bytes (64 * l) 64 = bs ∧ t.gal.tag dtZero (64 * l) = d ∧
    (∀ x, x / 64 ≠ l → t.gal.rd x = s.gal.rd x ∧ t.gal.tag dtZero x = s.gal.tag dtZero x) ∧
    t.dram = s.dram ∧ t.clusters = s.clusters ∧ t.bankCtr = s.bankCtr) ∧
  (∀ (s : State) (a : Access), a.op = .loadMeta → s.found a.loc .clean = .clean → (s.performAt a .clean).1 = s ∧
    (∀ b, a.loc = .mem b → (s.performAt a .clean).2.swMeta = sget 0#64 s.dram.swMeta b) ∧
    (∀ l, a.loc = .gal l → (s.performAt a .clean).2.swMeta = 0#64)) ∧
  (∀ (s : State) (a : Access) (b : Nat) (v : U64), a.loc = .mem b → a.op = .storeMeta v → s.found a.loc .clean = .clean →
    let t := (s.performAt a .clean).1
    let g := sget 1 s.dram.grade (64 * b / 65536)
    let bits := if g = 1 then 32 else if g = 2 then 40 else 0
    (bits = 0 → t = s) ∧
    (bits ≠ 0 → (sget 0#64 t.dram.swMeta b).toNat = v.toNat % 2 ^ bits ∧
      (∀ j, j ≠ b → sget 0#64 t.dram.swMeta j = sget 0#64 s.dram.swMeta j) ∧
      { t.dram with swMeta := s.dram.swMeta } = s.dram ∧ { t with dram := s.dram, fire := s.fire } = s)) ∧
  (∀ (s : State) (a : Access) (l : Nat) (v : U64), a.loc = .gal l → a.op = .storeMeta v → s.found a.loc .clean = .clean →
    (s.performAt a .clean).1 = s)

/-! ## Cluster exchange (spec/06 R178-R180) -/

/-- `xc` (R178, R179, R180): a send puts its value on the way to the streams named, to arrive six cycles on; in its cycle a
value due reaches a stream that runs and is discarded for one that does not; a receive takes the value that arrives in
its cycle, or zeros; a meeting records its mask. Two values that arrive at one stream in one cycle are XC_COLLIDE; a value
that no receive takes is XC_UNPOSTED; a meeting that some named stream does not join with the same mask, or whose own
stream is not named, is XC_SYNC for its stream and for every stream it names. -/
def Obligations.Exchange : Prop :=
  (∀ t s, Issues t s → exec (.xcSnd t) s = .next (s.updMine (fun c => { c with
    xc := c.xc ++ [{ dst := (s.me.port 0x0E 1).toNat % 8, src := s.coreOf, v := s.me.port 0x0E 0, left := 6 }] }))) ∧
  (∀ t s, Issues t s → ∃ ms : List XcMsg, exec (.xcBcs t) s = .next (s.updMine (fun c => { c with xc := c.xc ++ ms })) ∧
    (∀ d < 8, (∃ m ∈ ms, m.dst = d) ↔ (s.me.port 0x0E 1).getLsbD d = true) ∧ (ms.map XcMsg.dst).Nodup ∧
    ∀ m ∈ ms, m.dst < 8 ∧ m.src = s.coreOf ∧ m.v = s.me.port 0x0E 0 ∧ m.left = 6) ∧
  (∀ t s, Issues t s →
    (∀ m, s.myCluster.here.find? (fun m => m.dst = s.coreOf) = some m →
      Completes (.xcRcv t) s (fun c => ({ c with pipe := { c.pipe with rcv := true } } : Core).deliver 1
        [.port (keyOf 0x0E 0) m.v, .port (keyOf 0x0E 1) (BitVec.ofNat 64 (1 + 2 * m.src))])) ∧
    (s.myCluster.here.find? (fun m => m.dst = s.coreOf) = none →
      Completes (.xcRcv t) s (fun c => ({ c with pipe := { c.pipe with rcv := true } } : Core).deliver 1
        [.port (keyOf 0x0E 0) 0#64, .port (keyOf 0x0E 1) 0#64]))) ∧
  (∀ t s, Issues t s → Completes (.xcSync t) s (fun c =>
    { c with pipe := { c.pipe with sync := some ((s.me.port 0x0E 1).setWidth 8) } })) ∧
  (∀ (c : Cluster) (m : XcMsg), m.dst < 8 → c.xc = [m] →
    (m.left = 0 → c.arrivals.xc = [] ∧ c.arrivals.here = (if c.live.contains m.dst then [m] else []) ∧ c.arrivals.raised = c.raised) ∧
    (m.left ≠ 0 → c.arrivals.xc = [m] ∧ c.arrivals.here = []) ∧
    (c.count).xc = [{ m with left := m.left - 1 }]) ∧
  (∀ (c : Cluster) (m n : XcMsg), c.xc = [m, n] → m.left = 0 → n.left = 0 → m.dst = n.dst → m.dst < 8 →
    c.live.contains m.dst = true →
    c.arrivals.raised = c.raised ++ [{ cls := 2, strm := m.dst, eng := false, code := 9, tval := 0#64 }]) ∧
  (∀ (c : Cluster) (i : Nat), i < c.cores.length →
    ((∃ m ∈ c.here, m.dst = i) ∧ (c.core i).pipe.rcv = false ↔
      ∃ x ∈ c.judge.raised.drop c.raised.length, x.cls = 2 ∧ x.code = 8 ∧ x.strm = i)) ∧
  (∀ (c : Cluster) (i : Nat), i < 8 →
    (i ∈ c.syncFaults ↔ ∃ j < 8, ∃ m, (c.core j).pipe.sync = some m ∧ (i = j ∨ m.getLsbD i = true) ∧
      ¬(m.getLsbD j = true ∧ ∀ k < 8, m.getLsbD k = true → (c.core k).pipe.sync = some m)))

/-! ## Queues and streams (spec/06 R181-R186) -/

/-- Queues and the positions of streams (R183, R186): what each operation schedules and what it does at the end of its cycle,
on its own queue or stream alone. `q.cnt` delivers the bytes that its queue holds at the end of its cycle. A rewind sets the
indices and the count of pops to 0; a binding starts the count at 0, a pop adds one to it, wrapped to 32 bits; `z.pos` delivers
it one cycle on, without a pop of its own cycle (DESIGN CHOICE, log entry 84). -/
def Obligations.QueuesAndPositions : Prop :=
  (∀ t s, Issues t s → Lands (.qCfg t) s (.qCfg ((s.source t.src).toNat % 16) ((s.me.port 0x16 0).setWidth 7)
    ((s.me.port 0x16 1).setWidth 7) ((s.me.port 0x16 2).setWidth 5))) ∧
  (∀ t s, Issues t s → Lands (.qClr t) s (.qClr ((s.source t.src).toNat % 16))) ∧
  (∀ t s, Issues t s → Delivers (.qCnt t) s 1 [.count ((s.source t.src).toNat % 16)]) ∧
  (∀ (c : Core) (f : Flight) (k : Nat), c.pipe.flights = [f] → f.puts = [.count k] →
    c.polls.pipe.flights = [{ f with puts := [.port (keyOf 0x16 0)
      (BitVec.ofNat 64 ((sget {} c.units.q k).lines.map (fun l => l.bytes.length)).sum)] }] ∧
    { c.polls with pipe := { c.polls.pipe with flights := c.pipe.flights } } = c) ∧
  (∀ t s, Issues t s → ∃ k, Lands (.qLink t) s (.qLink ((s.source t.src).toNat % 16) k) ∧
    k = (let stage := s.myCluster.info.team % s.myCluster.info.stages
         if (s.source t.src).toNat / 16 % 4 = 1 ∧ 0 < stage then 1
         else if (s.source t.src).toNat / 16 % 4 = 2 ∧ stage + 1 < s.myCluster.info.stages then 2 else 0)) ∧
  (∀ (c : Core) (core k j : Nat) (fi fo : BitVec 7) (md : BitVec 5) (l : Nat),
    sget {} (c.applyW core (.qCfg k fi fo md)).units.q k = { sget {} c.units.q k with fi := fi, fo := fo, md := md } ∧
    sget {} (c.applyW core (.qClr k)).units.q k = { sget {} c.units.q k with lines := [] } ∧
    sget {} (c.applyW core (.qLink k l)).units.q k = { sget {} c.units.q k with link := l } ∧
    (j ≠ k → sget {} (c.applyW core (.qCfg k fi fo md)).units.q j = sget {} c.units.q j ∧
      sget {} (c.applyW core (.qClr k)).units.q j = sget {} c.units.q j ∧
      sget {} (c.applyW core (.qLink k l)).units.q j = sget {} c.units.q j)) ∧
  (∀ t s, Issues t s → Lands (.zRst t) s (.zRst ((s.source t.src).toNat % 8))) ∧
  (∀ (c : Core) (core k j : Nat),
    (∀ z, slook c.units.z k = some z →
      slook (c.applyW core (.zRst k)).units.z k = some { z with i0 := 0, i1 := 0, i2 := 0, pops := 0#32 }) ∧
    (j ≠ k → slook (c.applyW core (.zRst k)).units.z j = slook c.units.z j)) ∧
  (∀ (d : List Byte) (h : Nat → U64) (g : Nat → U32) (z : ZBind), bindingOf d h g = some z →
    z.pops = 0#32 ∧ z.i0 = 0 ∧ z.i1 = 0 ∧ z.i2 = 0) ∧
  (∀ z : ZBind, z.advance.pops.toNat = (z.pops.toNat + 1) % 2 ^ 32) ∧
  (∀ t s z, Issues t s → slook s.me.units.z ((s.source t.src).toNat % 8) = some z →
    Delivers (.zPos t) s 1 [.port (keyOf 0x17 0) (z.pops.setWidth 64)]) ∧
  (∀ t s, Issues t s → slook s.me.units.z ((s.source t.src).toNat % 8) = none →
    Delivers (.zPos t) s 1 [.port (keyOf 0x17 0) 0#64])

/-- Binding a stream (R184, R185): `z.set` lands at the end of its cycle; the descriptor there leaves the stream unbound
where a count is 0, a reserved field is not, an operator is unknown or KIND is above 1, and otherwise binds it with the
base, the dimensions and, for KIND 1, the handle; a pop advances the innermost index first, and after the last vector
the stream is at (0, 0, 0) again. A byte of the descriptor that is refused reads as 0 (DESIGN CHOICE, log entry 46), and
register numbers are taken modulo the size of their file (log entry 47). -/
def Obligations.StreamBindings : Prop :=
  (∀ t s, Issues t s → Lands (.zSet t) s (.zSet ((s.source t.src).toNat % 8) ((s.me.port 0x17 0).setWidth 24))) ∧
  (∀ (s : State) (k a : Nat), s.hasMe → (0x180000 < a + 64 → s.fire.loc = none) →
    ∃ d : List Byte, d.length = 64 ∧
      (∀ i < 64, (localRefusal s.myCluster.info false (a + i) 1 ≠ 0#8 → d[i]? = some 0#8) ∧
        (a + i < 0x180000 → d[i]? = some (s.me.scratch.rd (a + i))) ∧
        (0x180000 ≤ a + i → localRefusal s.myCluster.info false (a + i) 1 = 0#8 → ∀ pa,
          s.windowAddr s.myCluster.info (a + i) = some pa → d[i]? = some (s.dram.mem.rd pa))) ∧
      slook (s.bindStream k a).me.units.z k = bindingOf d s.me.hreg s.me.sreg ∧
      (∀ j, j ≠ k → slook (s.bindStream k a).me.units.z j = slook s.me.units.z j) ∧
      (s.bindStream k a).me.scratch = s.me.scratch ∧ (s.bindStream k a).me.regs = s.me.regs ∧
      ∀ b < 32, (s.bindStream k a).me.sflag.getLsbD b = (s.me.sflag.getLsbD b || (b < 2 &&
        (List.range 64).any (fun i => (localRefusal s.myCluster.info false (a + i) 1).getLsbD b)))) ∧
  (∀ (d : List Byte) (h : Nat → U64) (g : Nat → U32), d.length = 64 →
    ((bindingOf d h g).isSome = true ↔
      leNat (d.drop 8 |>.take 1) ≤ 1 ∧ leNat (d.drop 10 |>.take 1) ≤ 4 ∧ leNat (d.drop 11 |>.take 5) = 0 ∧
      leNat (d.drop 0x38 |>.take 8) = 0 ∧ (∀ i < 3, leNat (d.drop (0x10 + 8 * i) |>.take 4) ≠ 0) ∧
      ∀ i < leNat (d.drop 10 |>.take 1), leNat (d.drop (0x28 + 4 * i) |>.take 1) ∈ [1, 2, 3, 4])) ∧
  (∀ z : ZBind, ∀ n0 n1 n2 : U32, ∀ d0 d1 d2 : U32, z.dims = [(n0, d0), (n1, d1), (n2, d2)] →
    z.i0 < n0.toNat → z.i1 < n1.toNat → z.i2 < n2.toNat →
    let n := n0.toNat * n1.toNat * n2.toNat
    let at' (z : ZBind) : Nat := z.i0 + n0.toNat * (z.i1 + n1.toNat * z.i2)
    at' z.advance = (at' z + 1) % n ∧ z.advance.dims = z.dims)

/-! ## Panner and verifier, short forms (spec/09 R268-R271, R282-R290) -/

/-- The short operations of the Panner (R282, R270): `pan.merge` and `pan.rand` take one counter value each; `pan.ctr`
delivers the counter; `pan.clrf` clears slow-path flags at the end of the cycle, and a flag stays that a command sets in
that cycle, in which it completes, or set in the cycle before. -/
def Obligations.PannerShort : Prop :=
  (∀ t s, Issues t s →
    let n := s.me.units.drawCtr
    let r := mergePair (s.me.port 0x13 0) (s.source t.src) s.me.units.mergeGreedy ((mix s.me.key n >>> 32).setWidth 32)
    Completes (.panMerge t) s (fun c => ({ c with units := { c.units with drawCtr := n + 1 } } : Core).deliver 4
      [.port (keyOf 0x13 0) r.1, .sticky r.2])) ∧
  (∀ t s, Issues t s → Completes (.panRand t) s (fun c =>
    ({ c with units := { c.units with drawCtr := c.units.drawCtr + 1 } } : Core).deliver 4
      [.port (keyOf 0x13 0) (mix s.me.key s.me.units.drawCtr)])) ∧
  (∀ t s, Issues t s → Delivers (.panCtr t) s 1 [.port (keyOf 0x13 0) s.me.units.drawCtr]) ∧
  (∀ t s, Issues t s → Lands (.panClrf t) s (.clrFlags (s.source t.src))) ∧
  (∀ (c : Core) (core : Nat) (v f : U64), c.pipe.puts = [] →
    (c.pipe.endW = [.clrFlags v] → ∀ i < 64, (c.applyAll core).units.slow.getLsbD i =
      ((c.units.slow.getLsbD i && !(v.getLsbD i)) || c.units.slowKept.getLsbD i)) ∧
    (c.pipe.endW = [.setFlags f, .clrFlags v] ∨ c.pipe.endW = [.clrFlags v, .setFlags f] → ∀ i < 64,
      (c.applyAll core).units.slow.getLsbD i =
        ((c.units.slow.getLsbD i && !(v.getLsbD i)) || f.getLsbD i || c.units.slowKept.getLsbD i)) ∧
    (c.pipe.endW = [.setFlags f] → (c.applyAll core).count.units.slowKept = c.units.slowNew ||| f ∧
      (c.applyAll core).count.units.slowNew = 0#64))

/-- The merge of two draw pairs (R271): an invalid pair gives the empty pair and INV, two empty ones the empty pair and
EMP; an empty pair leaves the other; a greedy merge takes the larger λ, of equal ones the pair with the lower index, and the
first where that is the same; a weighted merge has as λ the rounded logarithm of the sum of the two masses, and takes the index
of the second pair exactly when U lies below π, which is 2^(λb - λ) rounded to FP32. The last rows are those of the table of
R271. -/
def Obligations.MergeRule : Prop :=
  (∀ (a b : U64) (g : Bool) (u : U32),
    ((pairValid g a && pairValid g b) = false → mergePair a b g u = (emptyPair, fINV)) ∧
    ((pairValid g a && pairValid g b) = true →
      (pairZero a = true → pairZero b = true → mergePair a b g u = (emptyPair, fEMP)) ∧
      (pairZero a = false → pairZero b = true → mergePair a b g u = (a, 0#32)) ∧
      (pairZero a = true → pairZero b = false → mergePair a b g u = (b, 0#32)) ∧
      (pairZero a = false → pairZero b = false → g = true →
        let va := ofF32 (pairLam a)
        let vb := ofF32 (pairLam b)
        (vlt va vb = true → mergePair a b g u = (b, 0#32)) ∧
        (veq va vb = true → (pairIdx b).toNat < (pairIdx a).toNat → mergePair a b g u = (b, 0#32)) ∧
        (veq va vb = true → (pairIdx a).toNat ≤ (pairIdx b).toNat → mergePair a b g u = (a, 0#32)) ∧
        (vlt vb va = true → mergePair a b g u = (a, 0#32))) ∧
      (pairZero a = false → pairZero b = false → g = false →
        let va := ofF32 (pairLam a)
        let vb := ofF32 (pairLam b)
        let lam := logMass { sat := true } [va, vb]
        let pi := expR false fp32 rne (vadd false vb (ofF32 lam.1).neg).1
        let r := mergePair a b g u
        pairLam r.1 = lam.1 ∧ r.2 = lam.2 ||| pi.2 ∧
        (vlt (.fin false u.toNat (-32)) (ofF32 pi.1) = true → pairIdx r.1 = pairIdx b) ∧
        (vlt (.fin false u.toNat (-32)) (ofF32 pi.1) = false → pairIdx r.1 = pairIdx a)))) ∧
  (∀ u : U32, mergePair 0x4000000000000005#64 0x4000000000000009#64 false u =
    (if u.toNat < 2 ^ 31 then 0x4040000000000009#64 else 0x4040000000000005#64, 0#32)) ∧
  (mergePair 0x3F80000000000005#64 0x4040000000000009#64 false 0xC0000000#32).1 = 0x40549A7800000009#64 ∧
  (mergePair 0x3F80000000000005#64 0x4040000000000009#64 false 0xD0000000#32).1 = 0x40549A7800000005#64

/-- Issue of the verifier's operations (R283, R285-R290, R130, R270): while it is occupied every one of them is the fault
VER_BUSY; the three long ones occupy it for their latency and `ver.stop` for its own cycle, and they take their random
values from the draw counter; `ver.cfg` and `ver.setf` land at the end of the cycle. What an operation starts with is stated
where no error of the patrol waits to be written. -/
def Obligations.VerifierIssue : Prop :=
  (∀ t s (i : Instr), i ∈ [Instr.verCfg t, .verCand t, .verChk t, .verFin t, .verSetf t, .verStop t] → Issues t s →
    s.me.units.ver.busy ≠ 0 → Raises i s 2 14 (s.me.ctl.pc.setWidth 64)) ∧
  (∀ t s, Issues t s → s.me.units.ver.busy = 0 →
    Lands (.verCfg t) s (.tau ((s.source t.src).setWidth 32)) ∧ Lands (.verSetf t) s (.frag ((s.source t.src).setWidth 16))) ∧
  (∀ t s, Issues t s → s.me.units.ver.busy = 0 → s.fire.loc = none →
    let n := (s.me.port 0x14 1).toNat
    let k := (s.me.port 0x14 2).toNat
    ∀ (i : Instr) (opc lat occ draws : Nat), (i, opc, lat, occ, draws) ∈
      [(Instr.verCand t, 1, 4 + k * ((n + 63) / 64), 4 + k * ((n + 63) / 64), 0),
        (.verChk t, 2, 16 + 4 * k * ((n + 63) / 64), 16 + 4 * k * ((n + 63) / 64), s.me.units.ver.cands.length),
        (.verFin t, 3, 16 + (n + 15) / 16, 16 + (n + 15) / 16, 1), (.verStop t, 5, 4, 1, 0)] →
      ∃ o : VerOp, CompletesTelling i s (fun c => { c with units := { c.units with
          drawCtr := c.units.drawCtr + BitVec.ofNat 64 draws
          ver := { c.units.ver with busy := occ, since := s.myCluster.csc }
          verOps := c.units.verOps ++ [o] } }) ∧
        o.opc = opc ∧ o.left = lat - 1 ∧ o.o = (s.me.port 0x14 0).toNat ∧ o.n = n ∧ o.k = k ∧ o.t = s.source t.src ∧
        o.us = (List.range draws).map (fun j => (mix s.me.key (s.me.units.drawCtr + BitVec.ofNat 64 j) >>> 32).setWidth 32)) ∧
  (∀ (c : Core) (core : Nat) (v : U16) (w : U32),
    (c.applyW core (.frag v)).units.ver = { c.units.ver with frag := v } ∧
    (c.applyW core (.tau w)).units.ver = { c.units.ver with tau := w })

/-- What a decision of the verifier does (R290): J, the run, the valid length of its slot and the fragment register,
for a loaded run and without one. -/
def Obligations.VerifierDecisions : Prop :=
  ∀ (c : Core) (x : U32),
    let v := c.units.ver
    let stop := x ∈ v.stops.take v.nstop.toNat
    let len (j : U16) : EndW := .kvLen v.slot.toNat
      (BitVec.ofNat 32 (min (v.base.toNat + j.toNat) (c.kvSlot v.slot.toNat).1.toNat))
    (v.run = false →
      c.decide 0 x = c.atEnd (.frag 0#16) ∧ c.decide 1 x = c.atEnd (.frag 1#16) ∧ c.decide 2 x = c.atEnd (.frag 2#16) ∧
      c.decide 3 x = c.atEnd (.frag 0xFFFF#16)) ∧
    (v.run = true →
      (¬stop → c.decide 0 x = ({ c with units := { c.units with ver := { v with j := v.j + 1 } } } : Core).atEnd
        (.frag (if (v.j + 1).toNat < v.draft.toNat then v.fchk else v.ffin))) ∧
      (stop → (c.decide 0 x).units.ver = { v with j := v.j + 1, run := false } ∧
        (c.decide 0 x).pipe.endW = c.pipe.endW ++ [len (v.j + 1), .frag v.fend]) ∧
      c.decide 1 x = c.atEnd (.frag v.ffin) ∧
      ((c.decide 2 x).units.ver = { v with j := v.j + 1, run := false } ∧
        (c.decide 2 x).pipe.endW = c.pipe.endW ++ [len (v.j + 1), .frag (if stop then v.fend else v.fcom)]) ∧
      ((c.decide 3 x).units.ver = { v with run := false } ∧
        (c.decide 3 x).pipe.endW = c.pipe.endW ++ [len v.j, .frag v.fend]))

/-! ## The `sys` operations (spec/10 R292, R293) -/

/-- The `sys` operations, in handler mode and outside it (R292, R293, R298, R304, R309, R315): what each schedules or
asks for, with HALT_IN_HANDLER and TRET_OUTSIDE where they stand, and what those that act at the end of the cycle then
do, with the rest of the core unchanged; of `sys.ifence` that is said of the registers. Without a debugger `sys.brk` leaves a
trace event whose INFO is 24, twice the class BREAK (DESIGN CHOICE, log entry 33); with one, BREAK is raised at the boundary
after its bundle (DEDUCED, log entry 32). -/
def Obligations.SysOperations : Prop :=
  (∀ t s, Issues t s →
    let v := s.source t.src
    let h := s.myCluster.handler
    let pc : U64 := s.me.ctl.pc.setWidth 64
    (h = false → Lands (.sysHalt t) s .halt ∧ Raises (.sysTret t) s 2 16 pc ∧
      exec (.sysYield t) s = .next (s.updMine (fun c => { c with polite := true })) ∧
      (s.boss.debugger = true → Completes (.sysBrk t) s (fun c => { c with pipe := { c.pipe with brk := some pc } })) ∧
      (s.boss.debugger = false → Completes (.sysBrk t) s (fun c => c.event 7 24#8 (c.ctl.pc.setWidth 32)))) ∧
    (h = true → Raises (.sysHalt t) s 2 17 pc ∧ Idle (.sysYield t) s ∧ Idle (.sysBrk t) s ∧
      Completes (.sysTret t) s (fun c => { c with pipe := { c.pipe with tret := true } })) ∧
    Completes (.sysTrap t) s (fun c => { c with pipe := { c.pipe with soft := some v } }) ∧
    Completes (.sysTmark t) s (fun c => c.event 8 0#8 (v.setWidth 32)) ∧
    Lands (.sysIfence t) s .ifence ∧ Lands (.sysTarm t) s .tarm ∧ Lands (.sysTfrz t) s .freeze ∧
    Lands (.sysTmrs t) s (.timer true) ∧ Lands (.sysTmrc t) s (.timer false) ∧ Lands (.sysSeed t) s (.seed v) ∧
    Lands (.sysDi t) s (.tie false) ∧ Lands (.sysEi t) s (.tie true)) ∧
  (∀ (c : Core) (core : Nat) (k : U64) (on : Bool),
    ((c.applyW core .halt).ctl.halted = true ∧ { c.applyW core .halt with ctl := c.ctl } = c) ∧
    ((∀ n < 8, sget 0 (c.applyW core .ifence).ctl.bwait n = 4) ∧
      (c.applyW core .ifence).fetch.fenceIn = c.fetch.fenceIn ++ [3] ∧ (c.applyW core .ifence).regs = c.regs) ∧
    (c.applyW core .tarm = { c with trace := { armed := true } } ∧
      c.applyW core .freeze = { c with trace := { c.trace with frozen := true } }) ∧
    c.applyW core (.timer on) = { c with armed := on } ∧
    ((∀ i < 32, (c.applyW core (.tie on)).fen.getLsbD i = if i = 16 then on else c.fen.getLsbD i) ∧
      { c.applyW core (.tie on) with fen := c.fen } = c) ∧
    ((∀ i < 18, sget 0#32 (c.applyW core (.seed k)).units.conv i = seedConv k core i) ∧
      { c.applyW core (.seed k) with units := c.units } = c))

/-! ## Vector words (spec/07 R204-R210) -/

/-- Issue of the vector operations (R31, R204, R205, R207, R210): a trigger into an occupied unit is UNIT_BUSY; a local element
that is refused with WIN is a window fault under WINE, at the first byte refused of A, then B, then D; an operand behind a
handle that lacks the permission is a protection fault, whose `sys.tval` is the offset of its first element in the page
(DEDUCED, log entry 49); a destination in a migrating page waits. Otherwise the operation enters its unit with the shape
and the registers as they stand, and no register, tile, mask or memory changes in that cycle. Where no operand is a stream
or a handle, nothing else changes but the converter of a unit that rounds (a queue gives its bytes up chunk by chunk).
`vx.shape` takes its value at the end of the cycle, or is VSHAPE. -/
def Obligations.VectorIssue : Prop :=
  (∀ (i : Instr) (opc : Nat) (w : VWord) (s : State), vxOf i = some (opc, w) → s.hasMe → s.me.guard w.g w.n = true →
    s.me.vxBusy w.u = true → Raises i s 2 0 (s.me.ctl.pc.setWidth 64)) ∧
  (∀ (i : Instr) (opc : Nat) (w : VWord) (s : State), vxOf i = some (opc, w) → opc ≠ 0x35 → s.hasMe →
    s.me.guard w.g w.n = true → s.me.vxBusy w.u = false →
    let v := s.me.vop opc w
    let win := v.winByte s.myCluster.info
    (∀ a, win = some a → s.myCluster.fenOr 0 = true → Raises i s 4 0 (BitVec.ofNat 64 a)) ∧
    ((win.isSome = true → s.myCluster.fenOr 0 = false) →
      (∀ a, v.permByte = some a → Raises i s 6 2 (BitVec.ofNat 64 a)) ∧
      (v.permByte = none → s.migratingD v = true → exec i s = .next (s.updMine (fun c =>
        { c with stall := true, asked := c.asked ++ [(s.coreOf, false)] }))))) ∧
  (∀ (v : VOp) (t : Team), (v.winByte t).isSome = true ↔
    ∃ (x : OpSrc) (l : Lay) (n : Nat) (store : Bool),
      (x, l, n, store) ∈ [(v.a, v.layA, v.countA, false), (v.b, v.layB, v.countB, false), (v.d, v.layD, v.countD, true)] ∧
      x.spec.space = 4#3 ∧ ∃ e < n, localRefusal t store (x.elemAddr l e) l.width = 1#8) ∧
  (∀ v : VOp, v.a.pop = none → v.b.pop = none → v.d.pop = none → (v.permByte.isSome = true ↔
    ∃ (x : OpSrc) (l : Lay) (n : Nat) (rd wr : Bool),
      (x, l, n, rd, wr) ∈ [(v.a, v.layA, v.countA, true, false), (v.b, v.layB, v.countB, true, false),
        (v.d, v.layD, v.countD, vxReadsD v.opc, true)] ∧
      x.spec.space = 5#3 ∧ ((rd = true ∧ x.hand.getLsbD 60 = false) ∨ (wr = true ∧ x.hand.getLsbD 59 = false)) ∧
      x.hand.getLsbD 63 = true ∧ x.hand.getLsbD 62 = true ∧ ∃ e < n, x.elemAddr l e + l.width ≤ hSize x.hand)) ∧
  (∀ (i : Instr) (opc : Nat) (w : VWord) (s : State), vxOf i = some (opc, w) → opc ≠ 0x35 → s.hasMe →
    s.me.guard w.g w.n = true → s.me.vxBusy w.u = false →
    let v := s.me.vop opc w
    ((v.winByte s.myCluster.info).isSome = true → s.myCluster.fenOr 0 = false) → v.permByte = none → s.migratingD v = false →
    let width := shWidth s.me.vshape
    let sw := if opc = 0x31 then cvtWidth width (s.me.opSrc w.b).splat else width
    let good (x : VOp) : Prop := x.opc = opc ∧ x.word = w ∧ x.age = 0 ∧ x.rows = shRows s.me.vshape ∧ x.cols = shCols s.me.vshape ∧
      x.width = width ∧ x.srcWidth = sw ∧ x.chunks = (x.rows * x.cols * max sw width + 255) / 256
    (∃ t x, exec i s = .next t ∧ good x ∧ t.me.pipe.vops = s.me.pipe.vops ++ [x] ∧ t.me.regs = s.me.regs ∧ t.me.tok = s.me.tok ∧
      t.me.tile = s.me.tile ∧ t.me.masks = s.me.masks ∧ t.me.scratch = s.me.scratch ∧ t.me.vshape = s.me.vshape ∧
      t.gal = s.gal ∧ t.dram = s.dram ∧ (x.lat = vxLat opc ∨ x.lat = vxLat opc + 636)) ∧
    ((∀ o ∈ [w.a, w.b, w.d], o.space.toNat ∉ [3, 5]) → ∃ x m, good x ∧ x.lat = vxLat opc ∧ x.ids = [] ∧ x.stores = [] ∧
      Completes i s (fun c => { c with units := { c.units with conv := m }, pipe := { c.pipe with vops := c.pipe.vops ++ [x] } }) ∧
      (vxRounds opc = false → m = s.me.units.conv))) ∧
  (∀ (w : VWord) (s : State), s.hasMe → s.me.guard w.g w.n = true → s.me.vxBusy w.u = false →
    let v := s.me.sreg w.a.index.toNat
    let rows := v.toNat % 2 ^ 7
    let cols := v.toNat / 2 ^ 8 % 2 ^ 9
    let wc := v.toNat / 2 ^ 17
    let fits := v.getLsbD 7 = false ∧ wc < 3 ∧ 1 ≤ rows ∧ rows ≤ 64 ∧ 1 ≤ cols ∧ cols ≤ 256 ∧ rows * cols * 2 ^ wc ≤ 4096
    (fits → Lands (.vxShape w) s (.vshape v)) ∧ (¬fits → Raises (.vxShape w) s 2 13 (s.me.ctl.pc.setWidth 64))) ∧
  (∀ (c : Core) (core : Nat) (v : U32), c.applyW core (.vshape v) = { c with vshape := v })

/-- The element operations of `vx` on elements that stand in lines (R206, R207, R212-R218). The integer forms on raw lines and
lines of the integer format wrap or saturate the exact integer, with the cases of a zero divisor, and set no flag. The
floating forms bring each element into the working format, round the exact result once into it, and once more where the
destination's format differs; the special functions round to nearest. The bit forms combine the bits and keep the descriptor
of A; the raw compares and `vx.mput` give the bits of the mask, and none from the element count up. -/
def Obligations.VectorResults : Prop :=
  (∀ (v : VOp) (free j lo : Nat), v.width ∈ [1, 2, 4] → v.word.opm ∈ [2#4, 3#4] → v.opc ∈ vxExact →
    (∀ i < (v.chunkElems j).2, ∀ l ∈ [v.ea, v.eb, v.ed], (l.getD ((v.chunkElems j).1 + i) noElem).isWhole v.width) →
    (v.chunkResult free j lo).2 = 0#32 ∧
    ∀ i < (v.chunkElems j).2,
      let n := 8 * v.width
      let e := (v.chunkElems j).1 + i
      let num (l : List Elem) : Int := (BitVec.ofNat n (l.getD e noElem).bits).toInt
      let x := num v.ea
      let y := num v.eb
      let d := num v.ed
      let top : Int := 2 ^ (n - 1)
      ∃ r : BitVec n, (v.chunkResult free j lo).1[i]? = some (e, r.toNat, mkDesc (intFmt v.width) 255) ∧
        (∀ z : Int, (v.opc, z) ∈ [(0x01, x + y), (0x02, x - y), (0x03, x * y), (0x04, x * y), (0x06, min x y), (0x07, max x y),
            (0x08, (x.natAbs : Int)), (0x09, -x), (0x10, x * y + d), (0x11, x * y - d), (0x12, -(x * y) + d),
            (0x36, if d < y then d else min (max x y) d)] ∨ (v.opc = 0x05 ∧ y ≠ 0 ∧ z = Int.tdiv x y) →
          (v.word.opm = 2#4 → (r.toNat : Int) = z % 2 ^ n) ∧ (v.word.opm = 3#4 → r.toInt = max (-top) (min (top - 1) z))) ∧
        (v.opc = 0x05 → y = 0 →
          (v.word.opm = 2#4 → r.toNat = 2 ^ n - 1) ∧
          (v.word.opm = 3#4 → r.toInt = if x = 0 then 0 else if x < 0 then -top else top - 1))) ∧
  (∀ (v : VOp) (free j lo i : Nat), v.width ∈ [2, 4] → v.word.opm ∈ [0#4, 1#4] → v.opc ∈ vxExact ∨ vxSpecial v.opc = true →
    i < (v.chunkElems j).2 →
    let e := (v.chunkElems j).1 + i
    (∀ l ∈ [v.ea, v.eb, v.ed], (l.getD e noElem).isReal v.width) →
    let df := widthFmt v.width
    let wf := if v.word.opm = 0#4 then fp32 else bf16
    let c := v.rcAt v.width e
    let rdn : Bool := c.mode = 3
    let num (l : List Elem) : Val :=
      let y := decFmt (.flt df) (l.getD e noElem).bits 0
      if y = .nan then .nan else decFmt (.flt wf) (rndVal wf c y).1 0
    let x := num v.ea
    let y := num v.eb
    let d := num v.ed
    ∀ r : Nat, (v.opc, r) ∈ [(0x01, (rndVal wf c (vadd rdn x y).1).1), (0x02, (rndVal wf c (vadd rdn x y.neg).1).1),
        (0x03, (rndVal wf c (vmul x y).1).1),
        (0x04, (rndVal wf c (if x.isZero || y.isZero then .fin false 0 0 else (vmul x y).1)).1),
        (0x05, (rndDiv wf c x y).1), (0x06, (rndVal wf c (vmin x y)).1), (0x07, (rndVal wf c (vmax x y)).1),
        (0x08, (rndVal wf c x.abs).1), (0x09, (rndVal wf c x.neg).1),
        (0x10, (rndVal wf c (vadd rdn (vmul x y).1 d).1).1), (0x11, (rndVal wf c (vadd rdn (vmul x y).1 d.neg).1).1),
        (0x12, (rndVal wf c (vadd rdn (vmul x y).1.neg d).1).1),
        (0x36, (rndVal wf c (if x.bad || y.bad || d.bad then .nan else vmin (vmax x y) d)).1)] ∨
        (vxSpecial v.opc = true ∧ r = (special v.opc wf { sat := c.sat } x).1) →
      (v.chunkResult free j lo).1[i]? = some (e,
        (if df = wf then r else (rndVal df c (decFmt (.flt wf) r 0)).1), mkDesc (namedFmt v.width) 255)) ∧
  (∀ wf ∈ [fp32, bf16], ∀ sat : Bool,
    let f (o : Nat) (x : Val) : Nat × U32 := special o wf { sat := sat } x
    let out (x : Val) : Nat := (rndVal wf { sat := sat } x).1
    (∀ o, vxSpecial o = true → f o .nan = (wf.nanCode, 0#32)) ∧
    (∀ x, f 0x1E x = rndDiv wf { sat := sat } (.fin false 1 0) x) ∧
    (∀ o ∈ [0x1C, 0x21], (f o (.inf true)).1 = out (.fin false 0 0) ∧ (f o (.inf false)).1 = out (.inf false) ∧
      ∀ n k, (f o (.fin n 0 k)).1 = out (.fin false 1 0)) ∧
    (∀ o ∈ [0x1D, 0x1F, 0x20], f o (.inf true) = (wf.nanCode, fNV) ∧
      ∀ m k, m ≠ 0 → f o (.fin true m k) = (wf.nanCode, fNV)) ∧
    ((f 0x1D (.inf false)).1 = out (.inf false) ∧ (f 0x1F (.inf false)).1 = out (.fin false 0 0) ∧
      (f 0x20 (.inf false)).1 = out (.inf false)) ∧
    (∀ n k, (f 0x1D (.fin n 0 k)).1 = out (.inf true) ∧ (f 0x1F (.fin n 0 k)).1 = out (.inf n) ∧
      (f 0x20 (.fin n 0 k)).1 = out (.fin n 0 k) ∧ (f 0x22 (.fin n 0 k)).1 = out (.fin n 0 k) ∧
      (f 0x23 (.fin n 0 k)).1 = out (.fin false 1 (-1)) ∧ (f 0x24 (.fin n 0 k)).1 = out (.fin n 0 k) ∧
      (f 0x25 (.fin n 0 k)).1 = out (.fin n 0 k) ∧ (f 0x26 (.fin n 0 k)).1 = out (.fin n 0 k) ∧
      (f 0x27 (.fin n 0 k)).1 = out (.fin false 1 0)) ∧
    (∀ n, (f 0x22 (.inf n)).1 = out (.fin n 1 0) ∧ (f 0x23 (.inf n)).1 = out (.fin false (if n then 0 else 1) 0) ∧
      f 0x26 (.inf n) = (wf.nanCode, fNV) ∧ f 0x27 (.inf n) = (wf.nanCode, fNV)) ∧
    (∀ o ∈ [0x24, 0x25], (f o (.inf true)).1 = out (.fin true 0 0) ∧ (f o (.inf false)).1 = out (.inf false))) ∧
  (∀ (v : VOp) (free j lo i : Nat), v.width ∈ [1, 2, 4] → i < (v.chunkElems j).2 →
    let n := 8 * v.width
    let e := (v.chunkElems j).1 + i
    let x := v.ea.getD e noElem
    let y := v.eb.getD e noElem
    let xb := x.bits % 2 ^ n
    let yb := y.bits % 2 ^ n
    x.kind = .line → y.kind = .line →
    (∀ r, (v.opc, r) ∈ [(0x00, xb), (0x0A, xb &&& yb), (0x0B, xb ||| yb), (0x0C, xb ^^^ yb),
        (0x0D, if n ≤ yb then 0 else xb * 2 ^ yb % 2 ^ n), (0x0E, if n ≤ yb then 0 else xb / 2 ^ yb),
        (0x13, if v.maskIn.getLsbD e != v.word.opm.getLsbD 3 then xb else yb)] →
      (v.chunkResult free j lo).1[i]? = some (e, r, x.tag)) ∧
    (v.opc = 0x0F → ∃ r : BitVec n, (v.chunkResult free j lo).1[i]? = some (e, r.toNat, x.tag) ∧
      r.toInt = (BitVec.ofNat n xb).toInt / 2 ^ min n yb) ∧
    (v.opc = 0x19 → v.word.opm.getLsbD 3 = true → (v.chunkResult free j lo).1[i]? =
      some (e, if v.maskIn.getLsbD e then 1 else 0, mkDesc (intFmt v.width) 255))) ∧
  (∀ (v : VOp) (free : U64), v.width ∈ [1, 2, 4] → v.count ≤ 4096 → v.word.opm.getLsbD 3 = true →
    (∀ e < v.count, ∀ l ∈ [v.ea, v.eb], (l.getD e {}).kind = .line) →
    let raw (l : List Elem) (e : Nat) : BitVec (8 * v.width) := BitVec.ofNat (8 * v.width) (l.getD e {}).bits
    (∀ f : Nat → Bool, (v.opc = 0x14 ∧ (∀ e, f e = (raw v.ea e == raw v.eb e))) ∨
        (v.opc = 0x15 ∧ (∀ e, f e = (raw v.ea e != raw v.eb e))) ∨
        (v.opc = 0x16 ∧ (∀ e, f e = decide ((raw v.ea e).toInt < (raw v.eb e).toInt))) ∨
        (v.opc = 0x17 ∧ (∀ e, f e = decide ((raw v.ea e).toInt ≤ (raw v.eb e).toInt))) ∨
        (v.opc = 0x18 ∧ ∀ e, f e = false) ∨ (v.opc = 0x1A ∧ ∀ e, f e = decide ((raw v.ea e).toNat ≠ 0)) →
      ∀ e < 4096, (v.mask free).1.getLsbD e = (decide (e < v.count) && f e)))

/-- The operations of `vx` that read a whole operand first (R68, R217, R219-R226, R228): the reduction tree splits at the
largest power of two below the number of its elements; the integer reductions and dot lanes take the exact sum, product,
maximum or minimum of a row and wrap or saturate once, the integer scans at every step; the floating sum of a row is the
tree's, rounded at every step; a transpose, a gather and a scatter move the bits of lines; a count of mask bits is a number;
and the bound operations round upward, with NaN and NV for a negative input. -/
def Obligations.VectorWholeResults : Prop :=
  (∀ {σ α : Type} (op : σ → α → α → σ × α) (d : α) (s : σ) (xs : List α) (m : Nat), (∃ k, m = 2 ^ k) → m < xs.length →
    xs.length ≤ 2 * m → xs.length ≤ 2 ^ 16 →
    tree op d 16 s xs = (let l := tree op d 16 s (xs.take m)
      let r := tree op d 16 l.1 (xs.drop m)
      op r.1 l.2 r.2)) ∧
  (∀ {σ α : Type} (op : σ → α → α → σ × α) (d x : α) (s : σ), tree op d 16 s [x] = (s, x)) ∧
  (∀ (v : VOp) (free r : Nat), v.width ∈ [1, 2, 4] → v.word.opm ∈ [2#4, 3#4] → v.opc ∈ [0x28, 0x29, 0x2A, 0x2B, 0x30] → r < v.rows →
    (∀ x ∈ v.ea ++ v.eb, x.isWhole v.width) → v.row v.ea r ≠ [] →
    let n := 8 * v.width
    let top : Int := 2 ^ (n - 1)
    let num (l : List Elem) : List Int := (v.row l r).map (fun x => (BitVec.ofNat n x.bits).toInt)
    let xs := num v.ea
    let put (z : Int) : Prop := ∃ b : BitVec n, (v.wholeResult free).1[r]? = some (r, b.toNat, mkDesc (intFmt v.width) 255) ∧
      (v.word.opm = 2#4 → (b.toNat : Int) = z % 2 ^ n) ∧ (v.word.opm = 3#4 → b.toInt = max (-top) (min (top - 1) z))
    (v.opc = 0x28 → put xs.sum) ∧ (v.opc = 0x30 → put (List.zipWith (· * ·) xs (num v.eb)).sum) ∧
    (v.opc = 0x29 → ∃ z ∈ xs, (∀ y ∈ xs, y ≤ z) ∧ put z) ∧ (v.opc = 0x2A → ∃ z ∈ xs, (∀ y ∈ xs, z ≤ y) ∧ put z) ∧
    (v.opc = 0x2B → ∃ k z, xs[k]? = some z ∧ (∀ y ∈ xs, y ≤ z) ∧ (∀ j < k, xs[j]? ≠ some z) ∧
      (v.wholeResult free).1[r]? = some (r, k, mkDesc (if v.width = 1 then 0x29 else intFmt v.width) 255))) ∧
  (∀ (v : VOp) (free r : Nat), v.width ∈ [1, 2, 4] → v.word.opm ∈ [2#4, 3#4] → v.opc = 0x2C → r < v.rows →
    v.ea.length = v.rows * v.cols → (∀ x ∈ v.ea, x.isWhole v.width) →
    let n := 8 * v.width
    let top : Int := 2 ^ (n - 1)
    let narrow (z : Int) : Int := if v.word.opm = 2#4 then Int.bmod z (2 ^ n) else max (-top) (min (top - 1) z)
    let num (k : Nat) : Int := (BitVec.ofNat n (v.ea.getD (r * v.cols + k) noElem).bits).toInt
    ∃ f : Nat → BitVec n, (0 < v.cols → (f 0).toInt = num 0) ∧
      (∀ k, k + 1 < v.cols → (f (k + 1)).toInt = narrow ((f k).toInt + num (k + 1))) ∧
      ∀ k < v.cols, (v.wholeResult free).1[r * v.cols + k]? =
        some (r * v.cols + k, (f k).toNat, mkDesc (intFmt v.width) 255)) ∧
  (∀ (v : VOp) (free r : Nat), v.width ∈ [2, 4] → v.word.opm ∈ [0#4, 1#4] → v.opc = 0x28 → r < v.rows →
    (∀ x ∈ v.ea, x.isReal v.width) → v.row v.ea r ≠ [] →
    let df := widthFmt v.width
    let wf := if v.word.opm = 0#4 then fp32 else bf16
    let c := v.rcAt v.width r
    let xs : List Val := (v.row v.ea r).map (fun x =>
      let y := decFmt (.flt df) x.bits 0
      if y = .nan then .nan else decFmt (.flt wf) (rndVal wf c y).1 0)
    let add (u : Unit) (x y : Val) : Unit × Val := (u, decFmt (.flt wf) (rndVal wf c (vadd (decide (c.mode = 3)) x y).1).1 0)
    let sum := (rndVal wf c (tree add .nan 16 () xs).2).1
    ∃ q, (v.wholeResult free).1[r]? = some (r, q, mkDesc (namedFmt v.width) 255) ∧
      q = if df = wf then sum else (rndVal df c (decFmt (.flt wf) sum 0)).1) ∧
  (∀ (v : VOp) (free : Nat), v.width ∈ [1, 2, 4] → v.opc ∈ [0x2D, 0x2E, 0x2F] →
    (∀ e < v.count, ∀ l ∈ [v.ea, v.eb, v.ed], (l.getD e {}).kind = .line) →
    let bits (l : List Elem) (e : Nat) : Nat := (l.getD e {}).bits % 2 ^ (8 * v.width)
    let tag (e : Nat) : U16 := (v.ea.getD e {}).tag
    let out := (v.wholeResult free).1
    out.length = v.count ∧ ∀ e < v.count,
      (v.opc = 0x2D → out[e]? = some (e, bits v.ea (e % v.rows * v.cols + e / v.rows), tag 0)) ∧
      (v.opc = 0x2E → out[e]? = some (e, (if bits v.eb e < v.count then bits v.ea (bits v.eb e) else 0), tag e)) ∧
      (v.opc = 0x2F →
        ((∀ k < v.count, bits v.eb k ≠ e) → out[e]? = some (e, bits v.ed e, tag e)) ∧
        ∀ k < v.count, bits v.eb k = e → (∀ j < v.count, k < j → bits v.eb j ≠ e) → out[e]? = some (e, bits v.ea k, tag e))) ∧
  (∀ (v : VOp) (free e : Nat), v.width ∈ [1, 2, 4] → v.opc = 0x1B → v.word.opm.getLsbD 3 = true → e < v.count →
    let ones := ((List.range v.count).filter (fun k => v.maskIn.getLsbD k)).length
    ones < 2 ^ (8 * v.width) →
      (v.wholeResult free).1[e]? = some (e, (if e = 0 then ones else 0), mkDesc (intFmt v.width) 255)) ∧
  (∀ (v : VOp) (free r : Nat), v.opc ∈ [0x32, 0x34] → r < v.rows →
    let x := v.ea.getD r {}
    let y := v.eb.getD r {}
    let a := decFmt (.flt fp32) x.bits 0
    let b := decFmt (.flt fp32) y.bits 0
    let lam := decFmt (.flt fp32) v.b.splat.toNat 0
    let up (z : Val) : Prop := (v.wholeResult free).1[r]? = some (r, (rndVal fp32 { mode := 2 } z).1, 0x44FF#16)
    let nan : Prop := (v.wholeResult free).1[r]? = some (r, 0x7FC00000, 0x44FF#16) ∧ (v.wholeResult free).2 &&& fNV ≠ 0#32
    x.isReal 4 → (v.opc = 0x34 → y.isReal 4) →
      (v.opc = 0x32 → a.isNeg = false → a ≠ .nan → lam.isNeg = false → lam ≠ .nan → up (vmul a lam).1) ∧
      (v.opc = 0x34 → a.isNeg = false → a ≠ .nan → b.isNeg = false → b ≠ .nan → up (vadd false a b).1) ∧
      (a.isNeg = true → a.isZero = false → nan) ∧ (v.opc = 0x32 → lam.isNeg = true → lam.isZero = false → nan) ∧
      (a = .nan → (v.wholeResult free).1[r]? = some (r, 0x7FC00000, 0x44FF#16)))

/-! ## Engine commands (spec/01 R35, R36, spec/06 R190, spec/08 R236, R237) -/

/-- Issue of an engine command (R35, R36, R236, R270): in handler mode it is ENG_IN_HANDLER; a produced token that is
pending is TOKEN_PEND; a full queue asks for a wait hold; otherwise the command is noted for its queue with the
registers that it names as they stand, with a trace event whose INFO is twice the number of its engine (R315; DESIGN CHOICE,
log entry 33). A Panner command takes its counter values at once, and one that draws sets the merge mode. Nothing else
changes. -/
def Obligations.CommandIssue : Prop :=
  ∀ (i : Instr) (k : EngKind) (opc : Nat) (e : EngCommon) (s : State), engWord i = some (k, opc, e) → s.hasMe →
    s.me.guard e.g e.n = true →
    let pc : U64 := s.me.ctl.pc.setWidth 64
    let pend := e.kout ≠ 0#6 ∧ s.me.token e.kout.toNat = 1#2
    let depth := match k with | .mx => 8 | .wz => 96 | .pan => 4
    (s.myCluster.handler = true → Raises i s 2 15 pc) ∧
    (s.myCluster.handler = false → pend → Raises i s 2 2 pc) ∧
    (s.myCluster.handler = false → ¬pend → depth ≤ (s.me.engQ k).length →
      exec i s = .next (s.updMine (fun c => { c with wait := true, asked := c.asked ++ [(s.coreOf, false)] }))) ∧
    (s.myCluster.handler = false → ¬pend → (s.me.engQ k).length < depth → ∃ (m : Cmd) (d : U64) (g : Bool),
      Completes i s (fun c =>
        let c := (c.atEnd (.enq k m)).event 5 (BitVec.ofNat 8 (2 * engCode k)) (e.kout.setWidth 32)
        { c with units := { c.units with drawCtr := c.units.drawCtr + d, mergeGreedy := g } }) ∧
      m.instr = i ∧ m.stamp = e.stamp ∧ m.el = none ∧ m.key = s.me.key ∧ m.ctr = s.me.units.drawCtr ∧
      (panOf i = none → d = 0#64 ∧ g = s.me.units.mergeGreedy) ∧
      (∀ o w, mxOf i = some (o, w) → m.a w.wa = s.me.areg w.wa.toNat ∧ m.s w.es = s.me.sreg w.es.toNat) ∧
      (∀ o w, wzOf i = some (o, w) → m.a w.sa = s.me.areg w.sa.toNat ∧ m.a w.da = s.me.areg w.da.toNat ∧
        m.a w.pa = s.me.areg w.pa.toNat ∧ m.s w.ls = s.me.sreg w.ls.toNat ∧ m.s w.xs = s.me.sreg w.xs.toNat) ∧
      (∀ o w, panOf i = some (o, w) → m.a w.aa = s.me.areg w.aa.toNat ∧ m.a w.da = s.me.areg w.da.toNat ∧
        m.s w.ns = s.me.sreg w.ns.toNat ∧ m.s w.ts = s.me.sreg w.ts.toNat ∧ m.s w.xs = s.me.sreg w.xs.toNat ∧
        d = BitVec.ofNat 64 (if o = 0 ∨ o = 5 then (w.row1.toNat + 1) * ((s.me.sreg w.ns.toNat).toNat - 1) else 0)))

/-- A command in its queue and its token (R35, R36, R190, R237): on entry the queue is one longer and the produced token
pending, and AT counts as passed exactly when it lies half the range or more before the next cycle; when it settles the
token is done or failed and the sixteen bytes of its record hold the fields of R190. No other token, queue or byte
changes; a command without a token writes none. A command that consumes a failed token does not run: it settles at the end
of the cycle in which it would have started, as failed, with the status that began the chain. -/
def Obligations.CommandQueuesAndTokens : Prop :=
  (∀ (s : State) (k : EngKind) (m : Cmd), s.hasMe →
    let n : Cmd := { m with
      seq := s.nextAcc, csc := s.myCluster.csc
      missed := decide (m.stamp ≠ 0#32 ∧ 2 ^ 31 ≤ (m.stamp - (s.myCluster.csc + 1).setWidth 32).toNat) }
    s.onlyMe (s.enter k m) ∧ (s.enter k m).me.engQ k = s.me.engQ k ++ [n] ∧
    (∀ j, j ≠ k → (s.enter k m).me.engQ j = s.me.engQ j) ∧
    (m.kout ≠ 0 → (s.enter k m).me.token m.kout = 1#2) ∧
    (∀ j, j ≠ m.kout ∨ j = 0 → (s.enter k m).me.token j = s.me.token j) ∧
    (s.enter k m).me.regs = s.me.regs) ∧
  (∀ (c : Core) (m : Cmd) (chain : Bool) (status offset : Nat) (ckv : U32),
    m.kout ≠ 0 → status < 256 → offset < 2 ^ 48 → m.opc < 64 →
    let d := c.settle m chain status offset ckv
    let a := 0x17FC00 + 16 * m.kout
    d.token m.kout = (if status = 0 ∧ chain = false then 2#2 else 3#2) ∧ (∀ j, j ≠ m.kout → d.token j = c.token j) ∧
    leNat (d.scratch.bytes a 16) = offset + engCode m.kind * 2 ^ 48 + m.opc * 2 ^ 50 + status * 2 ^ 56 + ckv.toNat * 2 ^ 64 +
      (if chain then 2 ^ 127 else 0) ∧
    (∀ x, x < a ∨ a + 16 ≤ x → d.scratch.rd x = c.scratch.rd x) ∧ d.scratch.tags = c.scratch.tags ∧ d.regs = c.regs) ∧
  (∀ (c : Core) (m : Cmd) (chain : Bool) (status offset : Nat) (ckv : U32), m.kout = 0 →
    (c.settle m chain status offset ckv).tok = c.tok ∧ (c.settle m chain status offset ckv).scratch = c.scratch) ∧
  (∀ (s : State) (k : EngKind) (pos : Nat) (m : Cmd) (t : Nat) (eng : Nat), s.hasMe → s.me.failedIn m = some t →
    (s.startCmd k pos m eng).me = s.me.updCmd k pos (fun m =>
      { m with el := some 0, dur := 1, stamp := 0#32, chain := some (sget 0 s.me.tokWhy t) }) ∧
    (∃ as bs, m.kins = as ++ t :: bs ∧ s.me.token t = 3#2 ∧ ∀ a ∈ as, s.me.token a ≠ 3#2)) ∧
  (∀ (s : State) (m : Cmd) (st : Nat), s.hasMe → m.el = some m.dur → m.dur ≠ 0 → m.chain = some st → s.written m = true →
    (s.me.units.mxq.head? = some m → (s.doneHead .mx).me = (s.me.leave .mx 0).settle m true st 0 0#32) ∧
    (s.me.units.panq.head? = some m → (s.doneHead .pan).me = (s.me.leave .pan 0).settle m true st 0 0#32))

/-! ## Arithmetic and the engines' results -/

/-- Rounding is correct (R42-R47, R53-R58, R69): in every floating format a code stands for the value that its fields give,
and rounding that value gives the code back; a quotient, product or sum rounded in any mode never crosses a number of the
format; the nearest mode gives a nearest number, in a tie the one of even code; the directed modes stay on their side; NX is
set exactly when the result differs from the exact value and OF only beyond every finite number of the format; sums are exact
before they are rounded, in whatever order, and infinities of both signs give NaN with NV. `V` and `Y` are exact values in
units of `2^k`, `V` scaled by the denominator. -/
def Obligations.Rounding : Prop :=
  (∀ f ∈ [fp32, bf16, fp16], ∀ x < 2 ^ f.bits,
    let e : Nat := x / 2 ^ (f.p - 1) % 2 ^ (f.bits - f.p)
    let a : Nat := x % 2 ^ (f.p - 1)
    e + 1 < 2 ^ (f.bits - f.p) → decFmt (.flt f) x 0 = .fin (decide (2 ^ (f.bits - 1) ≤ x))
      (if e = 0 then a else 2 ^ (f.p - 1) + a) (f.emin + (if e = 0 then 0 else (e : Int) - 1))) ∧
  (∀ f : FloatFmt, f ∈ [fp32, bf16, fp16] ∨ (∃ c, 1 ≤ c ∧ c < 0x20 ∧ c % 8 ≠ 0 ∧ f = b8 c) → ∀ c : Rc, c.mode < 8 → c.rn < 2 ^ 16 →
    (∀ x neg m e, x < 2 ^ f.bits → decFmt (.flt f) x 0 = .fin neg m e → rndVal f c (.fin neg m e) = (x, 0#32)) ∧
    (∀ (neg : Bool) (n d : Nat) (e : Int), 0 < d →
      let r := rndRat f c neg n d e
      let k := min e f.emin
      let V := toUnits neg n e k
      let num (x : Nat) (Y : Int) : Prop := x < 2 ^ f.bits ∧ ∃ s m q, decFmt (.flt f) x 0 = .fin s m q ∧ Y = d * toUnits s m q k
      (∀ R, num r.1 R →
        (∀ y Y, num y Y → (V ≤ Y → R ≤ Y) ∧ (Y ≤ V → Y ≤ R)) ∧
        (r.2 &&& fNX = 0#32 ↔ R = V) ∧
        (c.sat = false → (c.mode = 1 → R.natAbs ≤ V.natAbs) ∧ (c.mode = 2 → V ≤ R) ∧ (c.mode = 3 → R ≤ V)) ∧
        (c.mode = 0 → r.2 &&& fOF = 0#32 → (f.uns = true → neg = false ∨ n = 0) → ∀ y Y, num y Y →
          (R - V).natAbs ≤ (Y - V).natAbs ∧ ((R - V).natAbs = (Y - V).natAbs → Y ≠ R → r.1 % 2 = 0))) ∧
      (r.2 &&& fOF ≠ 0#32 → ∀ y Y, num y Y → Y.natAbs < V.natAbs) ∧
      (r.2 &&& fOF ≠ 0#32 → c.sat = true → ∃ R, num r.1 R ∧ ∀ y Y, num y Y → Y.natAbs ≤ R.natAbs))) ∧
  (∀ (ts : List (Bool × Nat × Int)) (k : Int), k ≤ 0 → (∀ t ∈ ts, k ≤ t.2.2) → ∃ neg m e,
    (sumVals (ts.map (fun t => (.fin t.1 t.2.1 t.2.2, 0#32)))).1 = .fin neg m e ∧ k ≤ e ∧
    toUnits neg m e k = (ts.map (fun t => toUnits t.1 t.2.1 t.2.2 k)).sum) ∧
  (∀ vs : List (Val × U32), (∃ v ∈ vs, v.1 = .inf false) → (∃ v ∈ vs, v.1 = .inf true) →
    (sumVals vs).1 = .nan ∧ (sumVals vs).2 &&& fNV = fNV) ∧
  (∀ a b : Val, (vmul a b).1 = .nan ∧ (vmul a b).2 = fNV ↔ (a.isZero = true ∧ ∃ n, b = .inf n) ∨ (b.isZero = true ∧ ∃ n, a = .inf n))

/-- What engine commands leave (R69-R72, R191-R198, R239-R255, R277, R278): `mx.zero`, `mx.cur.get`, `mx.cur.set`, `mx.aset`
and `mx.load` set what their rules name and nothing else of the accumulators; a step or resumption adds each column's sum to
its pair, rounded twice, moves the masses and the cursor and leaves the rows beyond; a drain to FP32 rounds every element
once. Copies and fills from scratchpad to scratchpad write the bytes that their rules give, the descriptors of the lines
that they write whole, and nothing beside; element addresses of a shape are clamped; checksums chain. A greedy draw takes
the largest λ, in a tie the lowest index, and a shortlist the 256 largest. That a copy reads what no free choice lets it
miss is log entry 82. -/
def Obligations.EngineResults : Prop :=
  (∀ (s : State) (m : Cmd) (w : MxWord), s.hasMe → m.data.status = 0 →
    let c := s.me
    let xa := w.xa.toNat
    let t (o : Nat) : Core := (s.mxFinish m o w).me
    let others (d : Core) : Prop := (∀ x < 4, x ≠ xa → (∀ j < 128, ∀ q < 128, d.accPair x j q = c.accPair x j q) ∧ ∀ i < 131, d.ayGet x i = c.ayGet x i) ∧
      d.regs = c.regs ∧ d.tile = c.tile
    (others (t 0x02) ∧ (∀ j < 128, ∀ q < 128, (t 0x02).accPair xa j q = (0#32, 0#32)) ∧ (∀ i < 131, (t 0x02).ayGet xa i = 0#32) ∧
      (t 0x02).curGet w.cur = 0) ∧
    ((t 0x05).xa = c.xa ∧ (t 0x05).ay = c.ay ∧ (t 0x05).cur = c.cur ∧
      (m.kout ≠ 0 → leNat ((t 0x05).scratch.bytes (recordAt m.kout) 8) % 2 ^ 48 = c.curGet w.cur)) ∧
    ((m.s w.es).toNat ≤ 128 → (t 0x06).xa = c.xa ∧ (t 0x06).ay = c.ay ∧ (t 0x06).curGet w.cur = (m.s w.es).toNat ∧
      ∀ n, n ≠ w.cur → (t 0x06).curGet n = c.curGet n) ∧
    (m.data.row.length = 144 → others (t 0x0A) ∧ (t 0x0A).xa = c.xa ∧
      ∀ i < 131, (t 0x0A).ayGet xa i = BitVec.ofNat 32 (m.data.row.getD i {}).bits) ∧
    (w.fmt = 0#7 → m.data.width = 4 → m.data.rows.length ≤ 128 →
      (∀ r ∈ m.data.rows, r.length = 128 ∧ ∀ x ∈ r, x.kind = .line ∧ x.tag = 0x44FF#16 ∧ x.bits < 2 ^ 32 ∧
        ∃ n a e, ofF32 x.bits = .fin n a e) → others (t 0x09) ∧ (t 0x09).ay = c.ay ∧
      ∀ j < 128, ∀ q < 128, (t 0x09).accPair xa j q =
        match m.data.rows[j]? with
        | some r => (BitVec.ofNat 32 (r.getD q {}).bits, 0#32)
        | none => c.accPair xa j q) ∧
    (∀ o ∈ [0, 1], m.data.n ≠ 0 →
      let z := if w.zero then c.zeroXa xa else c
      let spent := (sumVals (m.data.slabs.map (fun x => (csVal x.cs, 0#32)))).1
      let done := BitVec.ofNat 32 (toF32 (vadd false (ofF32 (z.ayGet xa 128).toNat) spent).1).1
      let total := if o = 0 ∨ w.zero = true then BitVec.ofNat 32 (toF32 (vadd false (ofF32 (z.ayGet xa 129).toNat) (headMass m.data.header)).1).1
        else c.ayGet xa 129
      others (t o) ∧ (t o).curGet w.cur = (m.data.i0 + m.data.n) % 256 ∧ (t o).ayGet xa 128 = done ∧ (t o).ayGet xa 129 = total ∧
      (∀ j < 128, ∀ q < 128,
        let x := (vadd false (z.accVal xa j q) (columnSum m.data.slabs (headFmt m.data.header)
          ((m.data.rows.getD j []).map (fun e => (actDec w.fmt m.data.width e).v)) q).1).1
        let h := (toF32 x).1
        (t o).accPair xa j q =
          if w.m1.toNat < j then z.accPair xa j q
          else if x.bad then (BitVec.ofNat 32 nan32, 0#32)
          else if x.isZero then (0#32, 0#32)
          else if ∃ n, ofF32 h = .inf n then (BitVec.ofNat 32 h, 0#32)
          else (BitVec.ofNat 32 h, BitVec.ofNat 32 (toF32 (vadd false x (ofF32 h).neg).1).1)))) ∧
  (∀ (c : Core) (x : OpSrc) (xa j q : Nat) (e : U32), q < 128 → e.toNat % 8 < 4 → (∀ i < 128, c.accVal xa j i ≠ .poison) →
    (128 * j + q, (rndVal fp32 (rcOf (e.toNat % 16)) (c.accVal xa j q)).1, 0x44FF#16) ∈ (c.drainRow x xa 0x22 j e).1) ∧
  (∀ (s : State) (pos : Nat) (m : Cmd) (w : WzWord) (o dc dOff sc sOff : Nat), s.hasMe → s.myCluster.cores.length = 8 →
    (s.me.units.wzq[pos]?).isSome = true →
    (∀ k ∈ s.myCluster.cores, k.recent = []) → m.data.pads = [] → m.data.reads = [] → m.data.wrote = [] → m.data.lost = [] → w.df = 0#7 →
    let b := (m.s w.ls).toNat
    dc < 8 → dOff + b ≤ 0x180000 → (m.a w.da).toNat = 2 ^ 63 + dc * 2 ^ 24 + dOff →
    o = 2 ∨ (o = 0 ∧ (w.ck ≠ 2#2 ∨ b % 4 = 0) ∧ sc < 8 ∧ sOff + b ≤ 0x180000 ∧ (m.a w.sa).toNat = 2 ^ 63 + sc * 2 ^ 24 + sOff) →
    let t := s.wzGoOn pos m o w
    let pad (u : State) (k : Nat) : TMem := (u.myCluster.core k).scratch
    (∀ i < b, (pad t dc).rd (dOff + i) =
      if o = 2 then ((m.s w.xs) >>> (8 * (i % 4))).setWidth 8 else (pad s sc).rd (sOff + i)) ∧
    (∀ k < 8, ∀ y, k ≠ dc ∨ y < dOff ∨ dOff + b ≤ y → (pad t k).rd y = (pad s k).rd y) ∧
    (∀ k < 8, ∀ y, (pad t k).tag dtOn y =
      if k = dc ∧ dOff ≤ y / 64 * 64 ∧ y / 64 * 64 + 64 ≤ dOff + b then
        (if o = 2 then 0x00FF#16 else (pad s sc).tag dtOn (sOff + (y / 64 * 64 - dOff)))
      else (pad s k).tag dtOn y) ∧
    t.gal = s.gal ∧ t.dram = s.dram ∧ t.acc = s.acc ∧
    ∃ n, t.me.units.wzq[pos]? = some n ∧ n.data.phase = 2 ∧ n.data.status = 0 ∧ n.data.n = b) ∧
  (∀ (h : Shape) (base : U64) (i : Nat → Nat), h.counts.length = 4 → h.origins.length = 4 → h.extents.length = 4 → h.strides.length = 4 →
    (∀ k < 4, i k < h.counts.getD k 1 ∧ 0 < h.extents.getD k 1) →
    let c (k : Nat) : Nat := h.counts.getD k 1
    let e := i 0 + c 0 * (i 1 + c 1 * (i 2 + c 2 * i 3))
    let at' (k : Nat) : Int := h.origins.getD k 0 + i k
    let near (k : Nat) : Int := max 0 (min (at' k) ((h.extents.getD k 1 : Int) - 1))
    (h.out e = true ↔ ∃ k < 4, at' k < 0 ∨ (h.extents.getD k 1 : Int) ≤ at' k) ∧
    ((h.addr base.toNat e : Nat) : Int) = ((base.toNat : Int) + near 0 * h.strides.getD 0 0 + near 1 * h.strides.getD 1 0 +
      near 2 * h.strides.getD 2 0 + near 3 * h.strides.getD 3 0) % 2 ^ 64) ∧
  (crc32c 0#32 [0x31#8, 0x32#8, 0x33#8, 0x34#8, 0x35#8, 0x36#8, 0x37#8, 0x38#8, 0x39#8] = 0xE3069283#32 ∧
    (∀ v a b, crc32c (crc32c v a) b = crc32c v (a ++ b)) ∧ ∀ v a b, a.length % 4 = 0 → add32 (add32 v a) b = add32 v (a ++ b)) ∧
  (∀ (key ctr : U64) (ps : List U64), ps.length ≤ 2 ^ 32 → (∀ p ∈ ps, pairValid true p = true) →
    (∃ p ∈ ps, pairZero p = false) →
    let r := (drawRow key true ctr ps).1
    r ∈ ps ∧ pairZero r = false ∧ ∀ p ∈ ps, vlt (ofF32 (pairLam r)) (ofF32 (pairLam p)) = false ∧
      (veq (ofF32 (pairLam r)) (ofF32 (pairLam p)) = true → (pairIdx r).toNat ≤ (pairIdx p).toNat)) ∧
  (∀ lam : List Val, (∀ v ∈ lam, v.bad = false) → (shortlist lam).length = min 256 lam.length ∧
    (∀ p ∈ shortlist lam, lam[p.1]? = some p.2) ∧
    ∀ (i : Nat) (v : Val), lam[i]? = some v → (i, v) ∉ shortlist lam → ∀ p ∈ shortlist lam,
      vlt p.2 v = false ∧ (veq p.2 v = true → p.1 < i))

/-- Packed streams are read back (R199-R201): what `wz.pack` makes of any fewer than 2^32 blocks of 64 bytes is expanded by
`wz.expd` into the same blocks with the same descriptors, without an error and within its length; the stream is whole blocks
of descriptor 0x70FF that begin with the number of blocks. -/
def Obligations.PackedStreams : Prop :=
  ∀ bs : List (List Byte × U16), (∀ b ∈ bs, b.1.length = 64) → bs.length < 2 ^ 32 →
    let src := packStream bs
    src.length % 64 = 0 ∧ leNat ((src.take 4).map SrcByte.b) = bs.length ∧ (∀ x ∈ src, x.tag = 0x70FF#16) ∧
    ∃ off ≤ src.length, expand src = (bs, off, false)

/-! ## Traps (spec/10 R295-R305) -/

/-- Which cause a trap has and where it goes (R296, R299, R303, R308): of the causes raised for one e the one of lowest
CLASS, then STRM, then CODE; in handler mode each is DOUBLE with the class of its fault as its code; a trap in handler
mode, of a class that always does so, or of a cluster whose streams do not all enable their handler stops the team and
goes to Shiftboss. -/
def Obligations.Causes : Prop :=
  (∀ (cs : List Cause) (x : Cause), firstCause cs = some x → x ∈ cs ∧ ∀ y ∈ cs,
    x.cls < y.cls ∨ (x.cls = y.cls ∧ (x.strm < y.strm ∨ (x.strm = y.strm ∧ x.code ≤ y.code)))) ∧
  (∀ cs : List Cause, firstCause cs = none ↔ cs = []) ∧
  (∀ c : Cluster, c.causes = if c.handler then c.raised.map (fun x => { x with cls := 13, code := x.cls }) else c.raised) ∧
  (∀ (c : Cause), c.cls < 16 → c.strm < 8 → c.code < 65536 → c.word.toNat =
    c.cls * 2 ^ 28 + c.strm * 2 ^ 25 + (if c.eng then 2 ^ 24 else 0) + c.code) ∧
  (∀ (s : State) (k : Nat) (x : Cause), (slook s.clusters k).isSome = true → (s.cluster k).cores.length ≤ 8 →
    firstCause (s.cluster k).causes = some x →
    (s.cluster k).handler = true ∨ x.cls ∈ [7, 9, 12, 13] ∨ ((s.cluster k).delivers = false ∧ x.cls ≠ 11) →
    let d := (s.takeTrap k).cluster k
    d.toBoss = some x ∧ d.stopped = true ∧ d.saving = true ∧ d.cause = x.word ∧ d.tval = x.tval ∧ d.csc = (s.cluster k).csc ∧
    d.handler = (s.cluster k).handler ∧ d.frames.length = 8 ∧ sget 0 (s.takeTrap k).boss.slots k = 2 ∧
    (∀ j, j ≠ k → (s.takeTrap k).cluster j = s.cluster j) ∧ (s.takeTrap k).gal = s.gal ∧ (s.takeTrap k).dram = s.dram)

/-- Entry into the handler (R295, R300-R303): the cluster records the cause and holds its CSC; every live stream goes to
HVEC of its own `sys.fen`, with its frame written, raw, and its control state cleared; the registers, tiles, masks, flags,
return stack and every other byte of the scratchpad stay. The entry takes 12 cycles, where R303 says at least 12 (DESIGN
CHOICE, log entry 24); EPC is the address of the bundle that is due (DEDUCED, log entry 32). -/
def Obligations.TrapEntry : Prop :=
  ∀ (s : State) (k : Nat) (x : Cause), (slook s.clusters k).isSome = true → (s.cluster k).cores.length ≤ 8 →
    (s.cluster k).handler = false → (s.cluster k).delivers = true → firstCause (s.cluster k).raised = some x →
    x.cls ∉ [7, 9, 12, 13] →
    let c := s.cluster k
    let d := (s.takeTrap k).cluster k
    d.handler = true ∧ d.cause = x.word ∧ d.tval = x.tval ∧ d.csc = c.csc ∧ d.hc = 0#64 ∧ d.raised = [] ∧ d.trapE = none ∧
    d.pause = 12 ∧ d.xcHid = c.xc ∧ d.xc = [] ∧ (∀ j, j ≠ k → (s.takeTrap k).cluster j = s.cluster j) ∧
    ∀ i ∈ c.live,
      let a := c.core i
      let b := d.core i
      let epc := ({ s with cur := 8 * k + i } : State).dueAddr
      let own := firstCause (c.raised.filter (fun y => y.strm = i))
      b.ctl.pc = ((a.fen >>> 18).setWidth 20) <<< 6 ∧ b.ctl.loop = {} ∧ b.ctl.skip = 0 ∧ b.ctl.xfer = none ∧ b.ctl.bwait = [] ∧
      b.regs = a.regs ∧ b.tok = a.tok ∧ b.tile = a.tile ∧ b.masks = a.masks ∧ b.xa = a.xa ∧ b.sflag = a.sflag ∧ b.fen = a.fen ∧
      b.ctl.stack = a.ctl.stack ∧ b.opnd = a.opnd ∧ b.res = a.res ∧
      leNat (b.scratch.bytes 0x17F800 4) = epc.toNat ∧ leNat (b.scratch.bytes 0x17F804 4) = epc.toNat ∧
      leNat (b.scratch.bytes 0x17F808 4) = ((own.map Cause.word).getD 0#32).toNat ∧
      leNat (b.scratch.bytes 0x17F80C 4) = ((if a.ctl.xfer.any (fun x => x.slots ≠ 0 || x.bubble ≠ 0) then 1 else 0) +
        (if a.ctl.loop.active then 2 else 0) + a.ctl.skip % 16 * 16 + c.records i * 256) % 2 ^ 32 ∧
      b.scratch.tag dtOn 0x17F800 = 0x00FF#16 ∧
      leNat (b.scratch.bytes 0x17F810 8) = ((own.map Cause.tval).getD 0#64).toNat ∧
      leNat (b.scratch.bytes 0x17F818 8) = c.csc.toNat ∧ leNat (b.scratch.bytes 0x17F820 8) = s.dcc.toNat ∧
      ∀ y, y < 0x17F800 ∨ 0x17F840 ≤ y → b.scratch.rd y = a.scratch.rd y

/-- The return of `sys.tret` (R304, R305): each stream gets back what was hidden and goes on at the RPC of its frame; where
that differs from EPC its pending transfer and its skip count are gone; the other registers, `sys.fen`, the scratchpad
and the rest keep what the handler left. The cluster leaves handler mode at the same CSC, and goes on after 4 cycles, where
R304 says at least 4 (DESIGN CHOICE, log entry 24). -/
def Obligations.TrapReturn : Prop :=
  (∀ (c : Core) (h : Hidden) (cls : Nat) (stamp : U64), c.pipe.hidden = some h → h.preds.length = 4 →
    let d := c.unhide true cls stamp
    let rpc : Addr20 := BitVec.ofNat 20 (leNat (c.scratch.bytes 0x17F804 4))
    d.ctl.pc = rpc ∧ d.opnd = h.opnd ∧ d.res = h.res ∧ d.ctl.loop = h.loop ∧ d.ctl.bwait = h.bwait ∧
    (∀ i (hi : i < h.preds.length), d.pred (12 + i) = h.preds[i]) ∧
    (∀ j, j < 204 ∨ 208 ≤ j → d.reg j = c.reg j) ∧
    (rpc = h.epc → d.ctl.xfer = h.xfer ∧ d.ctl.skip = h.skip) ∧ (rpc ≠ h.epc → d.ctl.xfer = none ∧ d.ctl.skip = 0) ∧
    d.ctl.redirect = (rpc ≠ h.epc || h.redirect) ∧ d.pipe.twait = h.twait ∧ d.vres = h.vres ∧
    d.pipe.flights = h.flights ∧ d.pipe.vops = h.vops ∧ d.units.verOps = h.ver ∧ d.pipe.hidden = none ∧ d.pipe.tret = false ∧
    d.fen = c.fen ∧ d.scratch = c.scratch ∧ d.tile = c.tile ∧ d.masks = c.masks ∧ d.tok = c.tok ∧ d.ctl.stack = c.ctl.stack) ∧
  (∀ (s : State) (k : Nat), (slook s.clusters k).isSome = true → (s.cluster k).cores.length ≤ 8 →
    let d := (s.trapReturn k).cluster k
    d.handler = false ∧ d.csc = (s.cluster k).csc ∧ d.pause = 4 ∧ d.xc = (s.cluster k).xcHid ∧ d.cause = (s.cluster k).cause ∧
    ∀ j, j ≠ k → (s.trapReturn k).cluster j = s.cluster j)

/-! ## Steps and bundles (spec/01 R21-R28, spec/03 R73-R76, R92, R93) -/

/-- A step runs its row, and a cycle issues the decoded bundle (R28, R74, R92, R150): the row of the step is the head of the
agenda, and without one a row that the module takes by itself (DESIGN CHOICE, log entry 3), in the state in which the errors
that its reads find have been dealt with (DESIGN CHOICE, log entry 64); a cluster's cycle that nothing holds, stops or
interrupts commits what its attempt made; a stream that issues finds the bundle at its address, and the bundle's words act
as their rows do. A bundle of one legal word is that word, and it runs exactly `exec` of it. -/
def Obligations.StepIssuesTheBundle : Prop :=
  (∀ (s : State) (e : Event) (es : List Event), s.agenda = e :: es →
    step s = exec e.row (({ s with agenda := es, inp := e.inp } : State).findAll e.finds)) ∧
  (∀ (s : State) (e : Event) (es : List Event), s.agenda = e :: es → e.finds = [] →
    step s = exec e.row { s with agenda := es, inp := e.inp, bad := [] }) ∧
  (∀ s : State, s.agenda = [] → s.pick = { row := .bundleIssue, inp := .none } →
    step s = onNext (State.tick { s with inp := .none, bad := [] }) (fun t => .next t.takeAnswers.cutTeams)) ∧
  (∀ (s : State) (k : Nat) (c : Cluster), s.clusters = [(k, c)] → c.info.stages ≤ 1 → c.running = true → c.saving = false →
    c.stopped = false → c.holdLen < s.boss.canary → c.pause = 0 → c.trapE = none → s.mustHold k = false →
    let u := s.engOver k
    let d := u.deliverDue k
    d.retires k = false → (d.cluster k).tokenWait = false → ∀ t, (d.updCluster k Cluster.waited).attempt k = .next t →
      s.tick = .next (u.settle d t k).dccStep) ∧
  (∀ (s d t : State) (k : Nat), (t.cluster k).stall = false → (t.cluster k).wait = false → (t.cluster k).raised = [] →
    (d.cluster k).raised = [] → d.timersDue k = [] → (s.cluster k).saveDue = false → d.loopStops k = [] →
    s.doomed k = false → s.settle d t k = t.commit k) ∧
  (∀ (s : State) (b : Bundle), s.hasMe → s.me.runs = true → s.me.inBubble = false →
    let u := s.updMe (fun c => c.arrive.pass s.draining)
    let pc := u.me.ctl.pc
    let v := u.updMe (fun c => (({ c with ctl := { c.ctl with pc := b.addr } } : Core).holdLines (fetched pc b)).traceAddr b.addr)
    let code := v.me.bundleCode b
    bundleAt u.lineOf pc = some b →
    (code ≠ 0 → s.issue = .next (v.raise 1 code (b.addr.setWidth 64))) ∧
    (code = 0 → v.me.ctl.skip ≠ 0 → s.issue = .next (v.updMe (fun c =>
      ({ c with ctl := { c.ctl with skip := v.me.ctl.skip - 1 } } : Core).after b.next v.me.inDelay))) ∧
    (code = 0 → v.me.ctl.skip = 0 → ∀ i, isWord i = true → b.words = [i] → s.issue =
      onNext (exec i (v.latchOf i)) (fun t => .next (t.updMe (fun c => c.after b.next v.me.inDelay))))) ∧
  (∀ (a : Addr20) (ps : List U32) (i : Instr), decode ps = .ok i → endOf i = true →
    let b := decodeBundle a ps
    b.words = [i] ∧ b.codes = [] ∧ b.addr = a ∧ b.next = a + BitVec.ofNat 20 (4 * (encode i).length)) ∧
  (∀ (i : Instr) (s : State), isWord i = true → runWord i s = exec i s)

/-- A word under a false guard does nothing at all, every word goes on to a next state, and so does every DCC cycle of the
module, which adds one to the DCC (R22, R28): ordinary data never stops the machine. In the middle of a start the step of a
cycle waits for the start to go on (log entry 60). -/
def Obligations.CyclesComplete : Prop :=
  (∀ (i : Instr) (s : State), isWord i = true → s.me.guard (guardOf i).1 (guardOf i).2 = false → exec i s = .next s) ∧
  (∀ (i : Instr) (s : State), isWord i = true → ∃ t, exec i s = .next t ∧ t.dcc = s.dcc) ∧
  (∀ s : State, ((∀ k, s.board.phase ≠ .partway k) ∨ ∀ r, s.inp ≠ .start r) → ∃ t, exec .bundleIssue s = .next t ∧ t.dcc = s.dcc + 1)

/-! ## Encoding (spec/03 R77-R91, spec/04) -/

/-- Decoding what was encoded (R77-R91): for every well-formed instruction that has a word, the decoder reads from its
encoding exactly that instruction, with no code of R93, and leaves the parcels that follow. -/
def Obligations.EncodingRoundTrip : Prop :=
  ∀ (i : Instr) (rest : List U32), i.wf = true → decodeOne [] (encode i ++ rest) = some ({ codes := [], instr := some i }, rest)

/-- What decodes is well formed and has one spelling (R77-R93): an instruction that the decoder accepts is legal by itself,
and the parcels it was read from are exactly its encoding, so no bit of a word is ignored. -/
def Obligations.DecodingIsExact : Prop :=
  ∀ (ps : List U32) (i : Instr), decode ps = .ok i → i.wf = true ∧ encode i = ps.take (encode i).length

/-- Words that the spec lists decode to the instructions that it gives for them (R81, R160, R292, R336). -/
def Obligations.ListedWords : Prop :=
  decode [0x20000800#32] = .ok (.move 8#5 0#6 { g := 0#4, n := false, e := false, src := .reg 0#5 4#6 }) ∧
  decode [0xE0300B04#32] = .ok (.sysTrap { g := 0#4, n := false, e := true, src := .imm 5#11 }) ∧
  decode [0x00008603#32, 0x60400104#32] = .ok (.move 0x18#5 4#6 { g := 0#4, n := false, e := true, src := .imm1 0x860#28 0#11 }) ∧
  decode [0x60708A00#32] = .ok (.move 0x18#5 7#6 { g := 0#4, n := false, e := false, src := .reg 1#5 5#6 }) ∧
  decode [0xE0800004#32] = .ok (.sysTmrs { g := 0#4, n := false, e := true, src := .reg 0#5 0#6 }) ∧
  decode [0xE0B08E04#32] = .ok (.sysSeed { g := 0#4, n := false, e := true, src := .reg 1#5 7#6 }) ∧
  decode [0x000D6001#32, 0x001CC000#32, 0x00000000#32] = .ok (.vxShape
    { g := 0#4, n := false, e := false, u := false, opm := 0#4, rnd := 0#4, cls := 0#4
      a := { space := 7#3, index := 12#6, rs := 0#6, str := 0#6 }
      b := { space := 0#3, index := 0#6, rs := 0#6, str := 0#6 }, d := { space := 0#3, index := 0#6, rs := 0#6, str := 0#6 } }) ∧
  decode [0x3005A205#32, 0x00042001#32, 0x0000038E#32] = .ok (.vxClt
    { g := 0#4, n := false, e := true, u := true, opm := 3#4, rnd := 0#4, cls := 0#4
      a := { space := 1#3, index := 2#6, rs := 0#6, str := 1#6 }
      b := { space := 7#3, index := 7#6, rs := 0#6, str := 0#6 }, d := { space := 0#3, index := 0#6, rs := 0#6, str := 0#6 } })

/-! ## Reset and the invariant (spec/01 R33, spec/20 R414-R415) -/

/-- The module right after reset (R22, R27, R33, R268, R309, R378, R385, R414): the DCC is 0, no register of the host
interface is set, main power has not been applied, no team is bound and no launch is in progress; the limits of Canary,
slices and the escalation window are those of their rules; an empty core holds the values of R33. That no byte of the
Gallery and of device memory is listed before memory is initialised is the model's choice (log entry 2). -/
def Obligations.ResetValues : Prop :=
  State.reset.dcc = 0#64 ∧ State.reset.host.status = 0#64 ∧ State.reset.host.inject = 0#64 ∧ State.reset.clusters = [] ∧
  State.reset.boss.launches = [] ∧ State.reset.board.phase = .off ∧ State.reset.acc = [] ∧ State.reset.rings = [] ∧
  State.reset.gal = {} ∧ State.reset.dram = {} ∧ (∀ x, State.reset.gal.rd x = 0#8 ∧ State.reset.dram.mem.rd x = 0#8) ∧
  ({} : Core).vshape = 0x00044010#32 ∧ ({} : Core).sflag = 0#32 ∧ ({} : Core).fen = 0#32 ∧ (∀ k, ({} : Core).token k = 0#2) ∧
  ({} : Core).pred 0 = true ∧ (∀ n, 1 ≤ n → n < 16 → ({} : Core).pred n = false) ∧ ({} : Core).units.ver.tau = 0x3F800000#32 ∧
  State.reset.boss.canary = 2 ^ 22 ∧ State.reset.boss.slice = 2 ^ 22 ∧ State.reset.boss.window = 50000

/-- The invariant holds after reset. -/
def Obligations.InvariantAtReset : Prop := State.reset.Inv

/-- Every step keeps the invariant: from any state that meets it a step that answers a next state answers one that meets
it, whichever row it is and whatever its input. -/
def Obligations.InvariantKept : Prop := ∀ s t : State, s.Inv → step s = .next t → t.Inv

/-! ## Steps of the device -/

/-- Starts, power, temperature, firmware and attestation (R5, R361, R414-R422): what each row answers where its conditions
hold. A start clears what a reset clears; without a lock of the PLL it waits; it fails at the first step that fails, or
reaches ready with the firmware that the dies accept and the energy factor that step 6 measures, and a warm start with sound
retained memory keeps its contents; after three failures it ends in safe mode, with a report of the failed step. The model's
choices in it: what a reset clears (log entry 59), a start that takes several cycles (60), which launches a trip record names,
and records kept one after another (80), and staged firmware, both dies' fuses and the free failure code (83). -/
def Obligations.StartsAndBoard : Prop :=
  (∀ (s : State) (r : StartRun) (warm : Bool), s.startFails r warm false 1 = none ↔
    r.fwGood = true ∧ (∀ f : Fuse, f = s.board.fuseA ∨ f = s.board.fuseB →
      s.board.nextFw.key = f.key ∧ s.board.nextFw.good = true ∧ f.rollback.toNat ≤ s.board.nextFw.version.toNat) ∧
    r.pcieTrains = true ∧ r.dieLinkTrains = true ∧ (warm = true → s.links.retrains < 3) ∧ r.memTrains = true ∧
    32 ≤ ((List.range 64).filter (fun k => defectCount (r.defects.getD k 0#8) ≤ 1)).length ∧ s.board.jpqGood (jpqOf r) = true) ∧
  (∀ (i : Instr) (s : State) (r : StartRun) (warm : Bool), s.inp = .start r →
    (i = .mainPowerApplied ∧ s.board.phase = .off ∧ warm = false) ∨
      (i = .hostReset ∧ s.board.phase ≠ .off ∧ s.board.phase ≠ .safe ∧ warm = (r.retained && s.board.memReady)) →
    Answers i s (fun t => t.clusters = [] ∧ t.acc = [] ∧ t.boss.launches = [] ∧ t.host.queues = [] ∧ t.host.inject = 0#64 ∧
      t.board.trips = s.board.trips ∧
      (r.pllLocks = false ∨ r.upTo = 0 → t.board.phase = .waitPll ∧ t.dcc = 0#64) ∧
      (r.pllLocks = true → r.upTo ≠ 0 → t.dcc = r.dcc ∧
        (s.board.fails < 3 →
          (∀ k, s.startFails r warm false 1 = some k → k ≤ r.upTo → t.board.phase = .failed k ∧
            t.board.fails = s.board.fails + 1 ∧ t.board.failStep = k ∧ t.gal = s.gal ∧ t.dram = s.dram) ∧
          (s.startFails r warm false 1 = none → r.upTo < 8 → t.board.phase = .partway r.upTo) ∧
          (s.startFails r warm false 1 = none → 8 ≤ r.upTo → t.board.phase = .ready ∧ t.board.fails = 0 ∧ t.host.status = 5#64 ∧
            t.board.jpq = jpqOf r ∧ t.board.readyAt = some r.dcc ∧ t.links.up = r.portsUp ∧ t.links.eth = r.eth ∧
            t.board.fw = s.board.staged.getD s.board.fw ∧ t.board.staged = none ∧
            (∀ v, s.board.raiseTo = some v → t.board.fuseA.rollback.toNat = max s.board.fuseA.rollback.toNat v.toNat ∧
              t.board.fuseB.rollback.toNat = max s.board.fuseB.rollback.toNat v.toNat) ∧
            (if warm && r.gradesGood then t.gal = s.gal ∧ t.dram = s.dram else t.gal = {} ∧ t.dram = {}))) ∧
        (3 ≤ s.board.fails → s.startFails r warm true 1 = none → 3 ≤ r.upTo →
          t.board.phase = .safe ∧ t.host.status = 2#64 ∧ t.host.diag = some (s.board.failStep, s.board.failCode))))) ∧
  (∀ (s : State) (r : StartRun), s.inp = .start r → s.board.phase = .safe → r.pllLocks = true → s.startFails r false false 1 = none →
    8 ≤ r.upTo → Answers .hostReset s (fun t => t.board.phase = .ready ∧ t.board.fails = 0 ∧ t.gal = {} ∧ t.dram = {})) ∧
  (∀ (s : State) (r : StartRun) (k : Nat), s.inp = .start r → s.board.phase = .partway k → k < r.upTo → 8 ≤ r.upTo →
    s.board.fails < 3 → s.startFails r s.board.retained false k = none → Answers .bundleIssue s (fun t =>
      t.board.phase = .ready ∧ t.board.fails = 0 ∧ t.host.status = 5#64 ∧ t.dcc.toNat = max s.dcc.toNat r.dcc.toNat)) ∧
  (∀ s : State, s.board.phase = .waitPll → exec .pllLockTimeout s = .next
    { s with board := { s.board with
      phase := .failed 1, fails := s.board.fails + 1, failStep := 1, failCode := Config.freeWord (s.freeAt 19 1) } }) ∧
  (∀ s : State, s.board.phase ≠ .off → Answers .mainPowerRemoved s (fun t => t.clusters = [] ∧ t.boss.launches = [] ∧
    t.gal = {} ∧ t.dram = {} ∧ t.host = {} ∧ t.dcc = 0#64 ∧ t.board = { s.board with
      phase := .off, hot := false, jpq := 0#32, readyAt := none, memReady := false, retained := false })) ∧
  (∀ s : State, s.board.hot = false → s.isReady = true → Answers .thermalPreempt s (fun t => t.board.hot = true ∧
    (∀ k, (slook s.clusters k).isSome = true → (s.cluster k).drain = none → (s.cluster k).saving = false →
      (t.cluster k).drain = some { since := s.dcc.toNat }) ∧ t.gal = s.gal ∧ t.dram = s.dram)) ∧
  (∀ s : State, s.board.hot = true → exec .thermalRecover s = .next { s with board := { s.board with hot := false } }) ∧
  (∀ (s : State) (b : Bool), s.inp = .die b → s.board.phase ≠ .off → Answers .thermalTrip s (fun t =>
    t.board.phase = .off ∧ t.gal = {} ∧ t.dram = {} ∧ ∃ ls, t.board.trips = s.board.trips ++ [(b, s.dcc, ls)] ∧
      ∀ x, x ∈ ls ↔ ∃ l ∈ s.boss.launches, (l.queue, l.index) = x)) ∧
  (∀ (s : State) (x : Bool × U64 × List (Nat × Nat)) (rest : List (Bool × U64 × List (Nat × Nat))), s.isReady = true →
    s.board.trips = x :: rest → exec .thermalTripRecordRead s = .next { s with board := { s.board with trips := rest } }) ∧
  (∀ (s : State) (f : FwImage), s.inp = .image f → s.board.phase = .safe →
    let ok : Prop := f.good = true ∧ f.key = s.board.fuseA.key ∧ f.key = s.board.fuseB.key ∧
      s.board.fuseA.rollback.toNat ≤ f.version.toNat ∧ s.board.fuseB.rollback.toNat ≤ f.version.toNat
    (ok → exec .firmwareUpdate s = .next { s with board := { s.board with staged := some f, raiseTo := some f.version } }) ∧
    (¬ok → exec .firmwareUpdate s = .next s)) ∧
  (∀ (s : State) (n : BitVec 512), s.inp = .nonce n → s.board.phase = .ready ∨ s.board.phase = .safe → ∃ b : List Byte,
    exec .attestationRequest s = .next { s with board := { s.board with
      reports := s.board.reports ++ [b ++ (leBytes 132 (Config.sign b).toNat).reverse] } } ∧
    b.length = 288 ∧ leNat (b.take 64) = n.toNat ∧ leNat ((b.drop 64).take 64) = Config.romDigest.toNat ∧
    leNat ((b.drop 128).take 64) = s.board.fw.digest.toNat ∧ leNat ((b.drop 192).take 64) = s.board.fw.shadow.toNat ∧
    leNat ((b.drop 256).take 4) = s.board.fw.version.toNat ∧ leNat ((b.drop 260).take 4) = s.board.fuseA.rollback.toNat ∧
    (∀ k < 64, (leNat ((b.drop 264).take 8)).testBit k = (sget 0 s.boss.slots k != 3)) ∧
    leNat ((b.drop 272).take 4) = (if s.board.phase = .safe then 1 else 0))

/-- The host registers and the die link (R370, R371, R377, R383-R385, R390, R393, R415, R421): what a write to each does.
Before ready every register but INJECT discards writes, and a doorbell does so in the cycle that sets ready too. A kill ends
its launch, retires the teams that had retired before it and stops those that no hold keeps. A queue that no launch uses can
be created and destroyed; a record is written when its ring has room; a lost die link clears STATUS bit 2, lets no launch
with a bound team or an allocation bind another team and raises LINK_LOST in the teams with work across it; a retrain waits
for the launches that the loss affected. The model's choices in it: a doorbell value beyond its ring is taken modulo the ring
(log entry 58), what a loss of the link does to launches and to work under way (57), what counts as work across it (4), and
that a kill waits for the end of a hold (66). -/
def Obligations.HostInterface : Prop :=
  (∀ (s : State) (q : BitVec 4) (v : U64), s.inp = .write q v → s.isReady = false →
    exec .doorbellWrite s = .next s ∧ exec .killWrite s = .next s) ∧
  (∀ (s : State) (q : BitVec 4) (v : U64), s.inp = .write q v → s.board.readyAt = some s.dcc → exec .doorbellWrite s = .next s) ∧
  (∀ (s : State) (q : BitVec 4) (v : U64), s.inp = .write q v → s.isReady = true → s.board.readyAt ≠ some s.dcc →
    Answers .doorbellWrite s (fun t =>
    (∀ x, s.queue q.toNat = some x → t.queue q.toNat = some { x with
      tail := BitVec.ofNat 16 (v.toNat % 2 ^ 16 % x.par.entries), chead := BitVec.ofNat 16 (v.toNat / 2 ^ 32 % 2 ^ 16 % x.par.centries) }) ∧
    (∀ j, j ≠ q.toNat → t.queue j = s.queue j) ∧ { t with host := s.host } = s)) ∧
  (∀ (s : State) (q : BitVec 4) (v : U64) (l : Launch) (y : LQueue), s.inp = .write q v → s.isReady = true →
    v.getLsbD 16 = true → s.queue q.toNat = some y → let idx := v.toNat % 2 ^ 16 % y.par.entries
    s.boss.launches.find? (fun l => l.queue = q.toNat && l.index = idx) = some l → l.dead = none →
    (∀ p ∈ s.clusters, p.2.cores.length ≤ 8 ∧ (p.2.info.launch = l.id → p.2.toBoss = none)) → Answers .killWrite s (fun t =>
      (q.toNat, idx) ∈ t.host.kills ∧ (∀ p ∈ t.pages, p.launch ≠ l.id) ∧
      (∀ x ∈ t.boss.launches, x.id = l.id → x.dead = some 8) ∧
      ∀ k ∈ s.slotsOf l.id, (s.retires k = true → slook t.clusters k = none) ∧
        (s.retires k = false → (s.cluster k).inHold = false → (s.cluster k).trapE = none → (t.cluster k).stopped = true))) ∧
  (∀ (s : State) (o : BitVec 16) (v : U64), s.inp = .reg o v →
    exec .injectWrite s = .next { s with host := { s.host with inject := v &&& 0x80000007FFFFFFFF#64, armedAt := s.dcc } } ∧
    (s.isReady = false → exec .killackWrite s = .next s) ∧
    (s.isReady = true → Answers .killackWrite s (fun t => { t with host := s.host } = s ∧
      ∀ p, p ∈ t.host.kills ↔ p ∈ s.host.kills ∧ p ≠ (v.toNat / 2 ^ 16 % 2 ^ 4, v.toNat % 2 ^ 16)))) ∧
  (∀ (s : State) (o : BitVec 16) (v : U64), s.inp = .reg o v →
    (o = 0x2100#16 → exec .bar0RegisterWrite s = .next (s.writeInject v)) ∧
    (o ≠ 0x2100#16 → s.isReady = false → exec .bar0RegisterWrite s = .next s) ∧
    (s.isReady = true →
      (∀ q < 16, o.toNat = 0x1000 + 8 * q → exec .bar0RegisterWrite s = .next (s.writeDoorbell q v)) ∧
      (∀ q < 16, o.toNat = 0x1100 + 8 * q → exec .bar0RegisterWrite s = .next (s.writeKill q v)) ∧
      (o = 0x2000#16 → exec .bar0RegisterWrite s = .next { s with host := { s.host with
        prqHead := BitVec.ofNat 32 (v.toNat % 2 ^ 32 % s.host.service.reqEntries) } }) ∧
      (o = 0x2010#16 → exec .bar0RegisterWrite s = .next { s with host := { s.host with
        rpqTail := BitVec.ofNat 32 (v.toNat % 2 ^ 32 % s.host.service.repEntries) } }) ∧
      (o = 0x2028#16 → exec .bar0RegisterWrite s = .next (s.writeKillack v)))) ∧
  (∀ (s : State) (q : BitVec 4) (p : QueueParams), s.inp = .queueNew q p → queueParamsOk p = true → s.queue q.toNat = none →
    Answers .queueCreate s (fun t => t.queue q.toNat = some { par := p } ∧ (∀ j, j ≠ q.toNat → t.queue j = s.queue j) ∧
      { t with host := s.host } = s)) ∧
  (∀ (s : State) (q : BitVec 4) (x : LQueue), s.inp = .queue q → s.queue q.toNat = some x →
    (x.waiting = [] → (∀ l ∈ s.boss.launches, l.queue ≠ q.toNat) → Answers .queueDestroy s (fun t =>
      t.queue q.toNat = none ∧ (∀ j, j ≠ q.toNat → t.queue j = s.queue j) ∧
      (∀ p, p ∈ t.host.kills ↔ p ∈ s.host.kills ∧ p.1 ≠ q.toNat) ∧ { t with host := s.host } = s)) ∧
    (∀ r rest, x.waiting = r :: rest → x.room = true → Answers .completionRecordWrite s (fun t =>
      t.queue q.toNat = some { x with waiting := rest, ctail := BitVec.ofNat 16 ((x.ctail.toNat + 1) % x.par.centries) } ∧
      t.host.written = s.host.written ++ [r] ∧ t.host.msi = s.host.msi ++ [x.par.vec.toNat] ∧
      (x.par.cdev = false → { t with host := s.host } = s)))) ∧
  (∀ s : State, s.host.status.getLsbD 2 = true → Answers .dieLinkLoss s (fun t =>
    (∀ i < 64, t.host.status.getLsbD i = (s.host.status.getLsbD i && i ≠ 2)) ∧
    ∀ l ∈ s.boss.launches, l.dead = none → l.galUnits ≠ 0 ∨ s.slotsOf l.id ≠ [] →
      ∀ x ∈ t.boss.launches, x.id = l.id → x.dead = some 1)) ∧
  (∀ (s : State) (k : Nat), s.isReady = true → s.host.status.getLsbD 2 = false → (slook s.clusters k).isSome = true →
    s.crossing k = true → ∃ x ∈ (s.cutTeams.cluster k).lateIn, x.cls = 7 ∧ x.eng = false) ∧
  (∀ s : State, s.host.status.getLsbD 2 = false → s.isReady = true → exec .dieLinkRetrainRequest s = .next
    { s with links := { s.links with retrainAsked := true } }) ∧
  (∀ (s : State) (ok : Bool), s.inp = .verdict ok → s.links.retrainAsked = true → s.links.retrains < 3 →
    s.host.status.getLsbD 2 = false → (∀ l ∈ s.boss.launches, l.cut = true → s.slotsOf l.id = []) →
    Answers .dieLinkRetrain s (fun t => t.links.retrainAsked = false ∧
      (ok = true → (∀ i < 64, t.host.status.getLsbD i = (s.host.status.getLsbD i || i = 2)) ∧ t.links.retrains = 0) ∧
      (ok = false → t.host.status = s.host.status ∧ t.links.retrains = s.links.retrains + 1)))

/-- Launches and teams (R14, R15, R33, R34, R304, R308, R309, R315, R371-R378, R382, R418): an entry that is refused gives
its record, one that is accepted a launch; a fresh team is bound with the registers of R34 and its bind record, and started;
slices and windows raise and force drain requests, and the governor may; a save that is complete puts its team away; a team
that retires frees its slot; a debugger goes on, by a return that the trace records, or ends a launch; a gang agrees on its
start within 2^28 cycles or fails. The model's choices in it: how a lost member of a gang is told (log entry 53), the status
of a launch that the debugger ends (54), 4 cycles for the return (24), and the governor's requests and rates as an input
(64). -/
def Obligations.LaunchesAndTeams : Prop :=
  (∀ (s : State) (q : BitVec 4) (given : BitVec 512) (plan : LoadPlan) (x : LQueue), s.inp = .submit q given plan →
    s.queue q.toNat = some x → s.isReady = true → x.head ≠ x.tail → (q.toNat, x.head.toNat) ∉ s.host.kills →
    let u := if x.par.dev then s.met (.mem ((x.par.ring.toNat + 64 * x.head.toNat) / 64)) else s
    let e := u.entryOf x given
    let tag : U64 := BitVec.ofNat 64 (e.toNat / 2 ^ 384 % 2 ^ 64)
    let moved (t : State) : Prop := ∀ y, t.queue q.toNat = some y → y.head.toNat = (x.head.toNat + 1) % x.par.entries % 65536
    (∀ st, u.refusal e (u.imageOf e) = some st → Answers .submissionTake s (fun t => moved t ∧
      t.boss.launches = s.boss.launches ∧ ∃ r : Completion, r.status = st ∧ r.tag = tag ∧ r.queue = q.toNat ∧
        r.index = x.head.toNat ∧ (r ∈ t.host.written ∨ ∃ y, t.queue q.toNat = some y ∧ r ∈ y.waiting))) ∧
    (∀ m, u.refusal e (u.imageOf e) = none → u.imageOf e = some m → u.planOk e m plan = true → Answers .submissionTake s (fun t =>
      moved t ∧ t.boss.launches.length = s.boss.launches.length + 1 ∧ ∃ l ∈ t.boss.launches, l.id = s.boss.nextId ∧
        l.queue = q.toNat ∧ l.index = x.head.toNat ∧ l.tag = tag ∧ l.prio = x.par.prio.toNat ∧ l.next = 0 ∧ l.retired = [] ∧
        l.dead = none ∧ l.info.gbase = plan.gbase * 65536))) ∧
  (∀ (s : State) (b : BitVec 6) (launch team : Nat) (l : Launch), s.inp = .bindTo b launch team → s.launchOf launch = some l →
    s.mayBind b.toNat launch team = true → (∀ x ∈ s.boss.saved, ¬(x.launch = l.id ∧ x.team = team)) →
    Answers .bind s (fun t => ∃ c, slook t.clusters b.toNat = some c ∧ c.running = false ∧ c.csc = 0#64 ∧ c.info.team = team ∧
      c.cores.length = 8 ∧ sget 0 t.boss.slots b.toNat = 1 ∧
      slook t.boss.binds b.toNat = some (l.bindRec team 0#64 false 0#64 (l.startAt.getD 0#64)) ∧ ∀ i < 8,
        let k := c.core i
        (l.info.cores ≤ i → k.ctl.halted = true ∧ k.ctl.started = false) ∧
        (i < l.info.cores → k.ctl.started = true ∧ k.ctl.halted = false ∧ k.key = l.info.key ∧
          k.ctl.pc = (l.entries.getD i 0#32).setWidth 20 ∧ (k.sreg 1).toNat = team % 2 ^ 32 ∧ (k.sreg 2).toNat = i ∧
          (k.sreg 3).toNat = team % l.info.stages % 2 ^ 32 ∧ (k.sreg 4).toNat = l.info.teams % 2 ^ 32 ∧
          (k.sreg 5).toNat = team / l.info.stages % 2 ^ 32 ∧ k.areg 1 = l.args ∧ k.vshape = 0x00044010#32))) ∧
  (∀ (s : State) (b : BitVec 6), s.inp = .slot b → (slook s.clusters b.toNat).isSome = true →
    let k := b.toNat
    let c := s.cluster k
    (c.running = false → c.saving = false → c.start.toNat ≤ s.dcc.toNat → Answers .teamStart s (fun t =>
      (t.cluster k) = { c with running := true } ∧ ∀ j, j ≠ k → t.cluster j = s.cluster j)) ∧
    (c.running = true → c.saving = false → c.stopped = false → c.lastSlice + s.boss.slice ≤ s.dcc.toNat →
      Answers .sliceBoundary s (fun t => (t.cluster k).lastSlice = c.lastSlice + s.boss.slice ∧
        (c.drain = none → (t.cluster k).drain = none ∨ (t.cluster k).drain = some { since := s.dcc.toNat }))) ∧
    (∀ d, c.drain = some d → d.forced = false → d.since + s.boss.window ≤ s.dcc.toNat →
      Answers .escalationWindowExpiry s (fun t => t.cluster k = { c with drain := some { d with forced := true } } ∧
        ∀ j, j ≠ k → t.cluster j = s.cluster j)) ∧
    (∀ l, s.saveReady k = true → s.launchOf c.info.launch = some l → l.dead = none → c.toBoss = none →
      Answers .saveComplete s (fun t => sget 0 t.boss.slots k = 0 ∧ slook t.clusters k = none ∧ ∃ x ∈ t.boss.saved,
        x.launch = c.info.launch ∧ x.team = c.info.team ∧ x.since = s.dcc.toNat ∧ x.ctx.csc = c.csc ∧
        x.ctx.cores.map Core.regs = c.cores.map Core.regs)) ∧
    (s.retires k = true → Answers .teamRetirement s (fun t => sget 0 t.boss.slots k = 0 ∧ slook t.clusters k = none ∧
      ∀ l ∈ t.boss.launches, l.id = c.info.launch → c.info.team ∈ l.retired))) ∧
  (∀ (s : State) (b : BitVec 6) (drain : Bool) (q : Nat) (v : U32) (l : Launch), s.inp = .govern b drain [(q, v)] → q < 16 →
    s.sliceOver b.toNat = true → s.launchOf (s.cluster b.toNat).info.launch = some l → Answers .sliceBoundary s (fun t =>
      sget 0#32 t.host.rates q = v ∧ (t.cluster b.toNat).lastSlice = (s.cluster b.toNat).lastSlice + s.boss.slice ∧
      (drain = true → (s.cluster b.toNat).drain = none → (t.cluster b.toNat).drain = some { since := s.dcc.toNat }))) ∧
  (∀ (s : State) (b : BitVec 6) (go : Bool) (x : Cause), s.inp = .resume b go → (slook s.clusters b.toNat).isSome = true →
    (s.cluster b.toNat).stopped = true → (s.cluster b.toNat).saving = false → (s.cluster b.toNat).toBoss = some x → x.cls = 12 →
    Answers .debuggerResume s (fun t =>
      (go = true → (t.cluster b.toNat).stopped = false ∧ (t.cluster b.toNat).toBoss = none ∧ (t.cluster b.toNat).pause = 4 ∧
        (t.cluster b.toNat).csc = (s.cluster b.toNat).csc ∧ ((s.cluster b.toNat).cores.length ≤ 8 → ∀ i ∈ (s.cluster b.toNat).live,
          (t.cluster b.toNat).core i = ((s.cluster b.toNat).core i).trapNow 12 true
            ({ s with cur := 8 * b.toNat + i } : State).dueAddr (s.cluster b.toNat).stamp)) ∧
      (go = false → ∀ l ∈ t.boss.launches, l.id = (s.cluster b.toNat).info.launch → l.dead = some 2))) ∧
  (∀ (s : State) (tag v : U64) (gsize : Nat) (l : Launch), s.inp = .gang tag gsize v →
    (s.boss.launches.find? (fun l => l.tag = tag && l.gsize = gsize && 1 < l.gsize && l.startAt.isNone && l.dead.isNone &&
        s.dcc.toNat ≤ l.taken + 2 ^ 28) = some l → s.host.status.getLsbD 3 = true → s.dcc.toNat + 2 ^ 16 ≤ v.toNat →
      Answers .gangAgreement s (fun t => ∀ x ∈ t.boss.launches, x.id = l.id → x.startAt = some v)) ∧
    (s.boss.launches.find? (fun l => l.tag = tag && l.gsize = gsize && 1 < l.gsize && l.dead.isNone &&
        (v = 1#64 || (l.startAt.isNone && l.taken + 2 ^ 28 ≤ s.dcc.toNat))) = some l →
      Answers .gangAgreementTimeout s (fun t => ∀ x ∈ t.boss.launches, x.id = l.id → x.dead = some 9)))

/-- Steps of one cluster taken by themselves (R24, R27, R30, R35, R178, R188, R190, R202, R203, R237, R238, R298, R300,
R314): the results due complete, values of `xc` for streams that do not run are discarded, a hold ends, Canary ends a hold, a
trap is taken whose replies have come or that the boundary raises, a timer fires, and commands start and complete: the head
of a matrix or sampling queue; the oldest unstarted command of the Winze queue whose turn the pointer gives, on the least free
engine, after which the pointer stands behind its core; a mark, or a command that consumes a failed token, without an engine
and without the pointer; and a remote copy to an address that it may not name faults. That these steps may also come by
themselves, before their cycle, is the model's choice (DESIGN CHOICE, log entry 3), and so is one start of a queue in a cycle
(log entry 18). -/
def Obligations.ClusterSteps : Prop :=
  (∀ (s : State) (b : BitVec 6), s.inp = .slot b → (s.cluster b.toNat).cores.length ≤ 8 →
    let k := b.toNat
    let c := s.cluster k
    (s.atBoundary k = true → (∃ i < c.cores.length, ∃ f ∈ (c.core i).pipe.flights, f.left = 0) → Answers .resultCompletion s (fun t =>
      ∀ i < c.cores.length, ((t.cluster k).core i).pipe.flights = (c.core i).pipe.flights.filter (fun f => f.left ≠ 0))) ∧
    (s.atBoundary k = true → (∃ m ∈ c.xc, m.left = 0) → Answers .xcArrival s (fun t =>
      t.cluster k = { c with xc := c.xc.filter (fun m => m.left ≠ 0 || c.live.contains m.dst) } ∧
      ∀ j, j ≠ k → t.cluster j = s.cluster j)) ∧
    (∀ t, s.atBoundary k = true → c.stall = true ∨ c.wait = true → s.boundary k = .next t → (t.cluster k).stall = false →
      (t.cluster k).wait = false → Answers .holdEnd s (fun u => (u.cluster k).stall = false ∧ (u.cluster k).wait = false ∧
        (u.cluster k).csc = c.csc ∧ ∀ j, j ≠ k → u.cluster j = s.cluster j)) ∧
    (c.running = true → c.stopped = false → c.saving = false → s.boss.canary ≤ c.holdLen → Answers .canaryExpiry s (fun t =>
      t = s.canary k ∧ (t.cluster k).csc = c.csc ∧ (t.cluster k).holdLen = 0)) ∧
    (c.trapE.isSome = true → c.running = true → c.saving = false → c.stopped = false → s.allArrived (s.awaited k) = true →
      exec .trapEntry s = .next (s.takeTrap k)) ∧
    (∀ t, c.trapE = none → s.atBoundary k = true → s.boundary k = .next t → trapped s t k = true →
      exec .trapEntry s = .next t ∧
      ((∃ i < (t.cluster k).cores.length, (c.core i).armed = true ∧ ((t.cluster k).core i).armed = false) →
        exec .timerFire s = .next t))) ∧
  (∀ (s : State) (b : BitVec 6) (core : BitVec 3) (k : EngKind) (m : Cmd) (rest : List Cmd), s.inp = .engine b core k 0 → k ≠ .wz →
    core.toNat < (s.cluster b.toNat).cores.length → (slook s.clusters b.toNat).isSome = true →
    let c := s.cluster b.toNat
    let u : State := { s with cur := 8 * b.toNat + core.toNat }
    u.me.engQ k = m :: rest → c.running = true → c.handler = false → c.saving = false → c.stopped = false → c.stall = false →
    c.trapE = none → wzOf m.instr = none →
    (u.mayStart k 0 m c.wait = true → u.afterBuffers m = true →
      (u.me.failedIn m = none → Answers .engineCommandStart s (fun t =>
        ((t.cluster b.toNat).core core.toNat).engQ k = { m with el := some 0, stamp := 0#32 } :: rest)) ∧
      (∀ x, u.me.failedIn m = some x → Answers .engineCommandStart s (fun t =>
        ((t.cluster b.toNat).core core.toNat).engQ k =
          { m with el := some 0, dur := 1, stamp := 0#32, chain := some (sget 0 u.me.tokWhy x) } :: rest))) ∧
    ((∃ o e, engWord m.instr = some (k, o, e)) → m.el = some m.dur → m.dur ≠ 0 → u.written m = true →
      Answers .engineCommandComplete s (fun t =>
        let d := (t.cluster b.toNat).core core.toNat
        d.engQ k = rest ∧ (m.kout ≠ 0 → d.token m.kout = 2#2 ∨ d.token m.kout = 3#2)))) ∧
  (∀ (s : State) (b : BitVec 6) (core : BitVec 3) (pos : Nat) (m : Cmd), s.inp = .engine b core .wz pos →
    core.toNat < (s.cluster b.toNat).cores.length → (slook s.clusters b.toNat).isSome = true →
    let c := s.cluster b.toNat
    let u : State := { s with cur := 8 * b.toNat + core.toNat }
    let q (t : State) (j : Nat) : Option Cmd := ((t.cluster b.toNat).core core.toNat).units.wzq[j]?
    c.running = true → c.handler = false → c.stopped = false → c.stall = false → c.trapE = none →
    (c.saving = false → core.toNat ∉ c.took → u.me.wzNext = some (pos, m) → u.mayStart .wz pos m c.wait = true →
      (∀ e o w, u.me.failedIn m = none → wzOf m.instr = some (o, w) → o < 10 → (o = 9 → remoteOk (m.a w.da) = true) →
        c.freeEngine = some e → c.rr < 8 →
        (∀ d < (core.toNat + 8 - c.rr) % 8, s.wzTakes b.toNat ((c.rr + d) % 8) c.wait = false) →
        Answers .engineCommandStart s (fun t => q t pos = some { m with
            el := some 0, eng := e, stamp := 0#32, dur := wzLeast (m.s w.ls).toNat, data := { m.data with carry := u.me.wzStart w } } ∧
          (∀ j, j ≠ pos → q t j = q u j) ∧ (t.cluster b.toNat).rr = (core.toNat + 1) % 8 ∧ core.toNat ∈ (t.cluster b.toNat).took)) ∧
      (∀ e w, u.me.failedIn m = none → wzOf m.instr = some (9, w) → remoteOk (m.a w.da) = false →
        c.freeEngine = some e → c.rr < 8 →
        (∀ d < (core.toNat + 8 - c.rr) % 8, s.wzTakes b.toNat ((c.rr + d) % 8) c.wait = false) →
        Answers .engineCommandStart s (fun t => q t pos = some { m with stamp := 0#32 } ∧ ∃ x ∈ (t.cluster b.toNat).lateIn,
          x.cls = 6 ∧ x.code = 3 ∧ x.eng = true ∧ x.strm = core.toNat ∧ x.tval = m.a w.da)) ∧
      (∀ w, u.me.failedIn m = none → wzOf m.instr = some (0x0A, w) → Answers .engineCommandStart s (fun t =>
        q t pos = some { m with el := some 0, dur := 1, stamp := 0#32 } ∧ (∀ j, j ≠ pos → q t j = q u j) ∧
        (t.cluster b.toNat).rr = c.rr)) ∧
      (∀ x, u.me.failedIn m = some x → Answers .engineCommandStart s (fun t =>
        q t pos = some { m with el := some 0, dur := 1, stamp := 0#32, chain := some (sget 0 u.me.tokWhy x) } ∧
        (∀ j, j ≠ pos → q t j = q u j) ∧ (t.cluster b.toNat).rr = c.rr))) ∧
    (∀ t, q u pos = some m → m.el.isSome = true → u.wzAdvance pos = some t → exec .engineCommandStart s = .next t) ∧
    (∀ t, u.wzComplete pos = some t → exec .engineCommandComplete s = .next t))

/-- The memory system and pages (R322, R331, R332, R351, R359, R386-R389): an access leaves, advances and performs where it
may, a reply arrives, the patrol reads and writes a granule, replies to page requests are noted and, at the end of the
cycle, end the request that they name and no other, as a timeout does, an entry of a page table takes its new value and
revokes handles of its old frames, and a migration sets MIG. The model's choices in it: the order of the patrol (log entry
56), what a read finds as an input (64), which entries and frames may be installed (76), the rings of the page service and a
reply DONE for a page that is not mapped, which is no step (78), the engines that a copy takes (80), the route by the queue
(49), and the stop at an address without memory (62). -/
def Obligations.MemorySteps : Prop :=
  (∀ (s : State) (id : Nat) (a : Access), s.inp = .access id → s.access id = some a →
    (s.mayLeave a = true → exec .accessLeave s = .next (s.forward a)) ∧
    (s.atHead a = true → a.stage ≠ .system → exec .accessAdvance s = .next (s.forward a)) ∧
    (∀ b ∈ (s.forward a).acc, b.id = id → b.stage ≠ .queue) ∧
    { s.forward a with acc := s.acc, nextAcc := s.nextAcc } = s) ∧
  (∀ (s : State) (id : Nat) (f : EccFind) (a : Access), s.inp = .perform id f → s.access id = some a → s.atHead a = true →
    a.stage = .system →
    (a.loc.unmapped = none → Answers .accessPerform s (fun t => (∀ b ∈ t.acc, b.id ≠ id) ∧ (∃ r ∈ t.replies, r.id = id) ∧
      t = s.perform a f)) ∧
    (∀ pa, a.loc.unmapped = some pa → exec .accessPerform s = .fault (.unmapped pa))) ∧
  (∀ (s : State) (id : Nat), s.inp = .access id → (∃ r ∈ s.replies, r.id = id ∧ r.arrived = false) →
    Answers .memoryReplyArrival s (fun t => (s.waitsFor id = true → ∀ r ∈ t.replies, r.id = id → r.arrived = true) ∧
      (s.waitsFor id = false → ∀ r ∈ t.replies, r.id ≠ id) ∧ { t with replies := s.replies } = s)) ∧
  (∀ (s : State) (mem : BitVec 2) (g : Nat) (found : EccFind) (l : Loc), s.inp = .patrol mem g found → granule mem g = some l →
    s.fire.loc = none → l ∉ s.fire.visited → Answers .firebossRead s (fun t => t.dram = s.dram ∧ t.gal = s.gal ∧
      (t.fire.visited = l :: s.fire.visited ∨ t.fire.visited = []) ∧ (found = .clean → t.fire.loc = none) ∧
      (found ≠ .clean → t.fire.loc = some l ∧ t.fire.poison = s.uncorrectable l found ∧ t.fire.cancelled = false))) ∧
  (∀ (s : State) (l : Loc), s.fire.loc = some l → Answers .firebossWrite s (fun t => t.fire.loc = none ∧
    (s.fire.cancelled = true → t.dram = s.dram ∧ t.gal = s.gal) ∧
    (s.fire.cancelled = false → s.fire.poison = true → t.locTag l = 0xFFFF#16 ∧ t.locBytes l = List.replicate 64 0#8) ∧
    (s.fire.cancelled = false → s.fire.poison = false → t.dram = s.dram ∧ t.gal = s.gal))) ∧
  (∀ (s : State) (given : BitVec 128), s.inp = .replyRecord given → s.host.rpqHead ≠ s.host.rpqTail →
    let x := s.host.service
    let u := if x.repDev then s.met (.mem ((x.rep.toNat + 16 * s.host.rpqHead.toNat) / 64)) else s
    let r : BitVec 128 :=
      if x.repDev then BitVec.ofNat 128 (leNat (u.dram.mem.bytes (x.rep.toNat + 16 * s.host.rpqHead.toNat) 16)) else given
    let id : U64 := r.setWidth 64
    let done : Bool := r.toNat / 2 ^ 64 % 256 = 0
    (done = true → u.doneHolds id false = true) → Answers .pageReply s (fun t =>
      t.host.rpqHead = BitVec.ofNat 32 ((s.host.rpqHead + 1).toNat % x.repEntries) ∧ t.pages = s.pages ∧
      t.host.stale = s.host.stale ∧ t.host.answers = s.host.answers ++ [{ id := id, done := done, pri := false, late :=
        (s.pages.find? (fun p => p.id = id && p.pri = false && p.sent)).any (fun p => p.since + s.boss.pageLimit ≤ s.dcc.toNat) }])) ∧
  (∀ (s : State) (a : PageAnswer), s.host.answers = [a] →
    let named : Option PageReq := s.pages.find? (fun p => p.id = a.id && p.pri = a.pri && p.sent)
    let t := s.takeAnswers
    t.host.answers = [] ∧
    (named = none → t = { s with host := { s.host with answers := [], stale := satInc s.host.stale } }) ∧
    (∀ p, named = some p → t.pages = s.pages.filter (fun x => x.id ≠ a.id) ∧
      t.host.stale = (if a.late then satInc s.host.stale else s.host.stale) ∧
      (p.id.getLsbD 8 = false → ∀ c ∈ t.clusters, c.2.info.launch = p.launch → ∀ k ∈ c.2.cores, ∀ x ∈ k.units.preq,
        x.2.id = p.id → x.2.st ≠ 0))) ∧
  (∀ (s : State) (id : U64) (st : Byte), s.inp = .reply id st →
    ((st = 0#8 → s.doneHolds id true = true) → Answers .priResponse s (fun t => t.pages = s.pages ∧
      t.host.stale = s.host.stale ∧ t.host.answers = s.host.answers ++ [{ id := id, done := decide (st = 0#8), pri := true, late :=
        (s.pages.find? (fun p => p.id = id && p.pri = true && p.sent)).any (fun p => p.since + s.boss.pageLimit ≤ s.dcc.toNat) }])) ∧
    (∀ p, s.pages.find? (fun p => p.id = id && s.timedOut p) = some p →
      Answers .pageRequestTimeout s (fun t => t.pages = s.pages.filter (fun x => x.id ≠ id)))) ∧
  (∀ (s : State) (p : PageReq) (g : Nat), s.pages.find? (fun p => p.pri && !p.sent) = some p → s.priGroup = some g →
    Answers .priRequestSend s (fun t => (∀ x ∈ t.pages, x.id = p.id → x.sent = true ∧ x.group = some g) ∧
      t.pages.length = s.pages.length ∧ { t with pages := s.pages, host := s.host } = s)) ∧
  (∀ (s : State) (q : BitVec 4) (pri : Bool) (pasid : BitVec 20), s.inp = .route q pri pasid →
    Answers .pageRequestRouteSelect s (fun t => sget (false, 0#20) t.host.pri q.toNat = (pri, pasid) ∧
      (∀ j, j ≠ q.toNat → sget (false, 0#20) t.host.pri j = sget (false, 0#20) s.host.pri j) ∧ { t with host := s.host } = s)) ∧
  (∀ (s : State) (c : PteChange) (l : Launch) (p : EntryPlace), s.inp = .pte c → s.launchOf c.launch = some l →
    c.va.toNat < 2 ^ 57 → c.level ≤ 3 → s.placeOf l.info c.va.toNat c.level = some p → let old := s.entryNow l.info p
    s.quiet c.level old = true → s.planned c.launch c.va.toNat c.level old c.entry = true →
    s.mayInstall old c.entry c.level = true → Answers .pageTableChange s (fun t =>
      (∀ a, p = .table a → a % 8 = 0 → s.rings = [] → s.bad = [] → s.fire.loc = none → t.physWord a = c.entry) ∧
      (isLeaf old c.level = true → (old ^^^ c.entry) &&& 0xFFFFFFFFFFFFFFF7#64 ≠ 0#64 →
        ∀ k i n, n < 32 → hV (((t.cluster k).core i).hreg n) = true →
          let f := hFrame (((t.cluster k).core i).hreg n)
          f < entryAddr old / 65536 ∨ (entryAddr old + 2 ^ pageBits c.level) / 65536 ≤ f))) ∧
  (∀ (s : State) (id : Nat) (va frame : U64) (l : Launch) (e : U64) (level : Nat) (p : EntryPlace), s.inp = .migrate id va frame →
    s.launchOf id = some l → s.translate l.info va.toNat = .leaf e level → s.placeOf l.info va.toNat level = some p →
    e.getLsbD 3 = false → frame.toNat % 2 ^ pageBits level = 0 → (memNode frame.toNat).isSome = true →
    frame.toNat ≠ entryAddr e → bossMem frame.toNat 1 = false → s.holdsTable frame.toNat (2 ^ pageBits level) = false →
    s.quiet level e = true → level ≠ 1 ∨ 2 ^ 21 ≤ s.boss.canary ∨ s.slotsOf id = [] →
    (s.lend id level (BitVec.ofNat 64 (va.toNat / 2 ^ pageBits level * 2 ^ pageBits level))).isSome = true →
    Answers .migrationStart s (fun t =>
      (∀ a, p = .table a → a % 8 = 0 → s.rings = [] → s.bad = [] → s.fire.loc = none → t.physWord a = e ||| 8#64) ∧
      ∃ m ∈ t.boss.migrating, m.1 = id ∧ m.2.1.toNat / 2 ^ pageBits level = va.toNat / 2 ^ pageBits level ∧
        m.2.2.1 = entryAddr e ∧ m.2.2.2 = frame.toNat))

/-- Links, remote copies, time and sessions (R202, R332, R391-R394, R402, R403): a good flit ends its replays, a bad one is
replayed and the sixteenth takes the port down, as a missing acknowledgement does; a timing message is noted with the port
that brought it; STATUS bit 3 is set when it is due; a payload that arrives is written by accesses of the link and answered
with its checksum when they have performed, or, where it may not be written, answered with RPAGE and nothing written; a
payload that began to arrive before INJECT was armed is not flipped; the answer to a copy ends it; a peer is given a session
only when its signature verifies, its key is allowed and there is room, with keys from both sides' nonces and this module's
own signed greeting sent, and one that fails a check is noted; a session takes new keys; a frame is accepted at most once
and delivered, and frames go out under a nonce of session and counter. The model's choices in it: a good flit as an
acknowledgement, and RPAGE for a payload that may not be written (log entry 79), routes that come with timing messages (52),
and what becomes of refused peers, rekeys and sessions (59). -/
def Obligations.LinksAndSessions : Prop :=
  (∀ (s : State) (port : BitVec 5) (good : Bool), s.inp = .flit port good → s.links.up.getLsbD port.toNat = true →
    Answers .linkFlitReceive s (fun t =>
      (good = true → sget 0 t.links.replays port.toNat = 0 ∧ sget 0 t.links.acked port.toNat = s.dcc.toNat ∧
        t.links.up = s.links.up) ∧
      (good = false → sget 0 s.links.replays port.toNat < 15 →
        sget 0 t.links.replays port.toNat = sget 0 s.links.replays port.toNat + 1 ∧ t.links.up = s.links.up) ∧
      (good = false → 15 ≤ sget 0 s.links.replays port.toNat → t.links.up.getLsbD port.toNat = false ∧
        ∀ r ∈ t.links.routes, r.2 ≠ port)) ∧
    (sget 0 s.links.acked port.toNat + 2 ^ 20 ≤ s.dcc.toNat → Answers .linkAckTimeout s (fun t =>
      (∀ i < 24, t.links.up.getLsbD i = (s.links.up.getLsbD i && i ≠ port.toNat)) ∧ ∀ r ∈ t.links.routes, r.2 ≠ port))) ∧
  (∀ (s : State) (port : BitVec 5) (node : BitVec 20) (offset : Int), s.inp = .timing port node offset →
    s.links.up.getLsbD port.toNat = true → node ≠ s.links.node → Answers .timingMessage s (fun t =>
      (node, port) ∈ t.links.routes ∧ (node, offset) ∈ t.links.seen ∧ (∀ p ∈ t.links.seen, p.1 = node → p.2 = offset) ∧
      (t.host.status.getLsbD 3 = true → s.host.status.getLsbD 3 = true ∧ -8 ≤ t.links.offset ∧ t.links.offset ≤ 8))) ∧
  (∀ s : State, s.isReady = true → s.host.status.getLsbD 3 = false → -8 ≤ s.links.offset → s.links.offset ≤ 8 →
    s.links.steadySince + 2 ^ 20 ≤ s.dcc.toNat →
    exec .dccSynchronised s = .next { s with host := { s.host with status := s.host.status ||| 8#64 } }) ∧
  (∀ (s : State) (p : Payload) (l : Launch), s.inp = .remote (.payload p) → s.launchOf p.launch = some l →
    s.vaMoving l.info p.da.toNat p.bytes.length = false → Answers .remoteCopyPayload s (fun t =>
      (s.host.armedAt.toNat ≤ p.began.toNat → t.host.inject.getLsbD 63 = false) ∧
      (p.began.toNat < s.host.armedAt.toNat → t.host = s.host) ∧ t.dram = s.dram ∧ t.gal = s.gal ∧
      (s.vaOk l.info true p.da.toNat p.bytes.length = false →
        t.links.answered = s.links.answered ++ [{ node := p.node, id := p.id, how := .rpage, sum := 0#32 }] ∧ t.acc = s.acc) ∧
      (s.vaOk l.info true p.da.toNat p.bytes.length = true → s.host.inject.getLsbD 63 = false → p.bytes ≠ [] →
        t.links.answered = s.links.answered ∧ ∃ ids, t.links.inbound = s.links.inbound ++
          [{ node := p.node, id := p.id, writes := ids, sum := wzSumOf p.ck p.start p.bytes }] ∧ ids ≠ [] ∧
          ∀ i ∈ ids, ∃ a ∈ t.acc, a.id = i ∧ a.party = .link ∧ a.stage = .system))) ∧
  (∀ (s : State) (node : BitVec 20) (id : Nat) (b : Inbound), s.inp = .remote (.written node id) →
    s.links.inbound.find? (fun b => b.node = node && b.id = id) = some b → (∀ a ∈ s.acc, a.id ∉ b.writes) →
    Answers .remoteCopyPayload s (fun t =>
      t.links.answered = s.links.answered ++ [{ node := node, id := id, how := .ok, sum := b.sum }] ∧
      (∀ x ∈ t.links.inbound, ¬(x.node = node ∧ x.id = id)) ∧ { t with links := s.links } = s)) ∧
  (∀ (s : State) (id : Nat) (how : RemoteEnd) (sum : U32) (r : Remote), s.inp = .remote (.answer id how sum) →
    s.links.sent.find? (fun r => r.id = id) = some r → Answers .remoteCopyPayload s (fun t =>
      (∀ x ∈ t.links.sent, x.id ≠ id) ∧ ∀ m ∈ ((t.cluster r.slot).core r.core).units.wzq,
        m.data.sent = true → m.data.i0 = id → m.data.remote.isSome = true)) ∧
  (∀ (s : State) (l : List (BitVec 512)), s.inp = .digests l → exec .allowListInstall s = .next { s with allow := l }) ∧
  (∀ (s : State) (p : PeerHello), s.inp = .hello p →
    let number := s.freeAt 20 0
    let own := Config.nonce number
    let sent : List (BitVec 20 × List Byte) := s.links.hellos ++ [(p.node, helloOf number)]
    (p.signed = true → p.keyDigest ∈ s.allow → s.sessions.length < 256 → (∀ x ∈ s.sessions, x.sid ≠ p.sid) →
      Answers .sessionSetup s (fun t => t.links.hellos = sent ∧ p.node ∉ t.links.refused ∧ t.sessions = s.sessions ++ [{
        sid := p.sid, node := p.node, since := s.dcc.toNat
        keys := if p.node.toNat < s.links.node.toNat then
            Config.sessionKeys (Config.ecdh (Config.ephemeral number) p.pub) (p.nonce ++ own) p.node s.links.node
          else Config.sessionKeys (Config.ecdh (Config.ephemeral number) p.pub) (own ++ p.nonce) s.links.node p.node }])) ∧
    (p.signed = false ∨ p.keyDigest ∉ s.allow → Answers .sessionSetup s (fun t =>
      p.node ∈ t.links.refused ∧ t.links.hellos = sent ∧ t.sessions.length = s.sessions.length ∧
      ∀ r x, s.rings = [r] → r.run = some x → p.node ∈ x.neighbours → s.linked p.node = false →
        ∀ q, t.rings[0]? = some q → q.run = none)) ∧
    (p.signed = true → p.keyDigest ∈ s.allow → 256 ≤ s.sessions.length → Answers .sessionSetup s (fun t =>
      t.sessions = s.sessions ∧ t.links.hellos = sent ∧ t.links.refused = s.links.refused))) ∧
  (∀ (s : State) (sid : U32) (pub : BitVec 1056) (nonce : BitVec 256), s.inp = .rekey sid pub nonce →
    (∃ x ∈ s.sessions, x.sid = sid) → Answers .sessionRekey s (fun t => t.sessions.length = s.sessions.length ∧
      ∀ (i : Nat) (x : Session), s.sessions[i]? = some x → t.sessions[i]? = some (if x.sid = sid then
        { x with keys := s.keysFor (s.freeAt 20 0) x.node pub nonce, since := s.dcc.toNat, frames := 0 } else x))) ∧
  (∀ (x : Session) (dcc : Nat) (f : Frame), x.accepts dcc f = true ↔ f.tagGood = true ∧ f.counter ∉ x.seen ∧
    (∀ h, x.high = some h → h.toNat < f.counter.toNat + 64) ∧ x.frames + 1 < 2 ^ 32 ∧ dcc + 1 < x.since + 2 ^ 36) ∧
  (∀ (s : State) (f : Frame), s.inp = .frame f → Answers .sessionFrameReceive s (fun t =>
    t.sessions.length = s.sessions.length ∧ ∀ (i : Nat) (x : Session), s.sessions[i]? = some x →
      (x.sid ≠ f.sid → t.sessions[i]? = some x) ∧
      (x.sid = f.sid → ∃ y : Session, t.sessions[i]? = some y ∧ (∀ d, s.dcc.toNat ≤ d → y.accepts d f = false) ∧
        (x.accepts s.dcc.toNat f = true → y.inbox = x.inbox ++ [f.payload] ∧ y.dropped = x.dropped ∧ f.counter ∈ y.seen) ∧
        (x.accepts s.dcc.toNat f = false → y = { x with dropped := x.dropped + 1 })))) ∧
  (∀ (x : Session) (m : CollMsg), x.send m =
    { x with out := x.out ++ [(x.sid ++ x.sent, m)], sent := x.sent + 1, frames := x.frames + 1 })

/-- Collectives (R395-R400): a ring is mapped once into a launch, on writable pages of grade 1,
with its SIZE in its control line and everything else in it 0; a doorbell store moves TAIL
when it has room, and is discarded with OVF when it has none, and changes nothing else of the control line; a descriptor
that is posted is taken; a message without the collective's table, an abort and an unreachable member end it, with word to
its neighbours; a partial that is waited for is held, or counted as late after the close; a message for a collective that has
not started waits for it, and under QUORUM a partial for one that has ended is late; a quorum closes after its cycle. The
model's choices in it: how members end by a digest, an abort or an unreachable neighbour, and the DCC at which a descriptor
counts as posted (log entry 51), and that a slot is read in one step (81). -/
def Obligations.Collectives : Prop :=
  (∀ (s : State) (launch : Nat) (crb : U64) (size : U32) (pa : Nat), s.inp = .ringMap launch crb size →
    let r : Ring := { launch := launch, crb := crb, size := size }
    let at' (u : State) (i : Nat) : Option Nat := u.vaPa (s.ringTeam r) true (crb.toNat + 64 * i)
    let own (l : Loc) : Prop := ∃ i ≤ size.toNat, ∃ a, at' s i = some a ∧ l = .mem (a / 64)
    (s.launchOf launch).isSome = true → crb.toNat % 65536 = 0 → (∃ i < 9, size.toNat = 2 ^ (i + 4)) →
    (∀ q ∈ s.rings, q.launch ≠ launch) → s.ringPa r = some pa → s.vaOk (s.ringTeam r) true crb.toNat (64 + 64 * size.toNat) = true →
    s.vaFirst (s.ringTeam r) crb.toNat (64 + 64 * size.toNat) = true → Answers .collectiveRingMap s (fun t =>
      (∃ qs, t.rings = qs ++ [r] ∧ qs.length = s.rings.length) ∧
      (s.rings = [] → (∀ i j, i < j → j ≤ size.toNat → at' s i ≠ at' s j) →
        (∀ u : State, u.boss = s.boss → u.dram.grade = s.dram.grade → (∀ l, ¬own l → u.locBytes l = s.locBytes l) →
          ∀ i ≤ size.toNat, at' u i = at' s i) →
        ∀ i ≤ size.toNat, ∀ a, at' s i = some a → t.locBytes (.mem (a / 64)) =
          (if i = 0 then List.replicate 8 0#8 ++ leBytes 4 size.toNat ++ List.replicate 52 0#8 else List.replicate 64 0#8)))) ∧
  (∀ (s : State) (id : Nat) (f : EccFind) (a : Access) (n : Nat) (r : Ring) (pa : Nat) (v : U32), s.inp = .perform id f →
    s.access id = some a → s.atHead a = true → a.stage = .system → a.loc = .mem (pa / 64) → a.loc.unmapped = none →
    a.op = .store (bytesAt 0 (leBytes 4 v.toNat)) none → s.found a.loc f = .clean → a.loc ∉ s.bad → s.rings[n]? = some r → pa % 64 = 0 →
    (∀ u : State, u.boss = s.boss → u.dram.grade = s.dram.grade → (∀ l, l ≠ a.loc → u.locBytes l = s.locBytes l) →
      u.ringPa r = some pa ∧ ∀ (m : Nat) (q : Ring) (pb : Nat), m ≠ n → s.rings[m]? = some q → u.ringPa q = some pb →
        pb / 64 ≠ pa / 64) → Answers .accessPerform s (fun t =>
      let ok : Bool := (v - r.head).toNat ≤ r.size.toNat && (r.tail - r.head).toNat ≤ (v - r.head).toNat
      t.rings[n]? = some (if ok then { r with
        tail := v, posts := r.posts ++ List.replicate (v - r.tail).toNat s.dcc.toNat } else r) ∧ (∀ m, m ≠ n → t.rings[m]? = s.rings[m]?) ∧
      t.readRing r 0 = (if ok then v else r.tail) ∧
      (∀ i < 32, (t.readRing r 12).getLsbD i = (i < 3 && ((s.readRing r 12).getLsbD i || (i = 0 && !ok)))) ∧
      ∀ i, 4 ≤ i → i < 12 ∨ 16 ≤ i → (t.locBytes a.loc)[i]? = (s.locBytes a.loc)[i]?)) ∧
  (∀ (s : State) (n : Nat) (r : Ring), s.inp = .ring n → s.rings[n]? = some r →
    (r.run = none → r.head ≠ r.tail → s.vaOk (s.ringTeam r) false (r.crb.toNat + 0x40 + 64 * (r.head.toNat % r.size.toNat)) 64 = true →
      Answers .collectiveDescriptorTake s (fun t => t.rings.length = s.rings.length ∧ ∀ q, t.rings[n]? = some q →
        q.head = r.head + 1 ∧ (q.tail = r.tail ∨ (q.tail - q.head).toNat ≤ r.size.toNat))) ∧
    (∀ x, r.run = some x → dQuorum x.desc = true → x.forwarded = false → x.close < (s.dcc.toNat : Int) →
      Answers .quorumClose s (fun t => ∀ q y, t.rings[n]? = some q → q.run = some y → y.forwarded = true))) ∧
  (∀ (s : State) (n : Nat) (index : U32) (m : CollMsg) (r : Ring) (x : Run), s.inp = .coll n index m → s.rings[n]? = some r →
    r.run = some x → x.index = index →
    let ends (word : CollMsg) : Prop := Answers .collectiveMessage s (fun t => ∀ q, t.rings[n]? = some q →
      q.run = none ∧ word ∈ q.sent)
    (∀ entry digest mask data descs, m = .part entry digest mask data descs →
      (x.page = true → dQuorum x.desc = true → Answers .collectiveMessage s (fun t => ∀ q, t.rings[n]? = some q →
        q.run = some { x with late := x.late + 1 })) ∧
      (x.page = false ∨ dQuorum x.desc = false → digest ≠ tableDigest x.table → ends .mismatch) ∧
      (x.page = false → digest = tableDigest x.table → entry ∉ x.children ∨ (∃ p ∈ x.parts, p.1 = entry) →
        exec .collectiveMessage s = .next s) ∧
      (x.page = false → digest = tableDigest x.table → entry ∈ x.children → (∀ p ∈ x.parts, p.1 ≠ entry) →
        let y : Run := if dQuorum x.desc = true ∧ (x.forwarded = true ∨ x.close < (s.dcc.toNat : Int)) then { x with late := x.late + 1 }
          else { x with parts := x.parts ++ [(entry, mask, data, descs)] }
        y.complete = false ∨ y.forwarded = true → Answers .collectiveMessage s (fun t =>
          t.rings.length = s.rings.length ∧ ∀ q, t.rings[n]? = some q → q.run = some y))) ∧
    (m = .abort ∨ m = .unreachable → dQuorum x.desc = false → ends m) ∧
    (m = .abort ∨ m = .unreachable → dQuorum x.desc = true → exec .collectiveMessage s = .next s) ∧
    (m = .mismatch → ends .mismatch) ∧
    (∀ digest mask data descs, m = .result digest mask data descs → s.vaMoving (s.ringTeam r) (dDst x.desc) (dLen x.desc) = false →
      Answers .collectiveMessage s (fun t => ∀ q, t.rings[n]? = some q → q.run = none))) ∧
  (∀ (s : State) (n : Nat) (index : U32) (m : CollMsg) (r : Ring), s.inp = .coll n index m → s.rings[n]? = some r →
    (∀ x, r.run = some x → x.index ≠ index) →
    ((index - r.head).toNat < 2 ^ 31 → Answers .collectiveMessage s (fun t =>
      t.rings[n]? = some { r with early := r.early ++ [(index, s.dcc.toNat, m)] } ∧ { t with rings := s.rings } = s)) ∧
    (∀ x entry digest mask data descs, 2 ^ 31 ≤ (index - r.head).toNat → m = .part entry digest mask data descs → r.last = some x →
      x.index = index → dQuorum x.desc = true → Answers .collectiveMessage s (fun t => ∀ q, t.rings[n]? = some q →
        q.last = some { x with late := x.late + 1 }))) ∧
  (∀ (s : State) (r : Ring) (x : Run), s.rings = [r] → r.run = some x → dQuorum x.desc = false →
    (∃ m ∈ x.others, s.linked m = false) → ∀ q, s.cutCollectives.rings[0]? = some q → q.run = none ∧ .unreachable ∈ q.sent)
end

