-- ==== Sys2Proof/Laws/Exec.lean ====
section
/-!
SUPPORT. What `exec` runs for each row: one equation per constructor, so that no later proof unfolds `exec`.
-/
namespace Sys2Proof.Machine

open Sys2Proof

@[simp] theorem exec_move (du : BitVec 5) (ds : BitVec 6) (t : Trig) (s : State) : exec (.move du ds t) s = execMove du ds t s := rfl
@[simp] theorem exec_sflagWrite (t : Trig) (s : State) : exec (.sflagWrite t) s = execSflagWrite t s := rfl
@[simp] theorem exec_iaAdd (u : Bool) (t : Trig) (s : State) : exec (.iaAdd u t) s = execIaAdd u t s := rfl
@[simp] theorem exec_iaSub (u : Bool) (t : Trig) (s : State) : exec (.iaSub u t) s = execIaSub u t s := rfl
@[simp] theorem exec_iaAdds (u : Bool) (t : Trig) (s : State) : exec (.iaAdds u t) s = execIaAdds u t s := rfl
@[simp] theorem exec_iaSubs (u : Bool) (t : Trig) (s : State) : exec (.iaSubs u t) s = execIaSubs u t s := rfl
@[simp] theorem exec_iaAddus (u : Bool) (t : Trig) (s : State) : exec (.iaAddus u t) s = execIaAddus u t s := rfl
@[simp] theorem exec_iaSubus (u : Bool) (t : Trig) (s : State) : exec (.iaSubus u t) s = execIaSubus u t s := rfl
@[simp] theorem exec_iaMin (u : Bool) (t : Trig) (s : State) : exec (.iaMin u t) s = execIaMin u t s := rfl
@[simp] theorem exec_iaMax (u : Bool) (t : Trig) (s : State) : exec (.iaMax u t) s = execIaMax u t s := rfl
@[simp] theorem exec_iaMinu (u : Bool) (t : Trig) (s : State) : exec (.iaMinu u t) s = execIaMinu u t s := rfl
@[simp] theorem exec_iaMaxu (u : Bool) (t : Trig) (s : State) : exec (.iaMaxu u t) s = execIaMaxu u t s := rfl
@[simp] theorem exec_iaAnd (u : Bool) (t : Trig) (s : State) : exec (.iaAnd u t) s = execIaAnd u t s := rfl
@[simp] theorem exec_iaOr (u : Bool) (t : Trig) (s : State) : exec (.iaOr u t) s = execIaOr u t s := rfl
@[simp] theorem exec_iaXor (u : Bool) (t : Trig) (s : State) : exec (.iaXor u t) s = execIaXor u t s := rfl
@[simp] theorem exec_iaShl (u : Bool) (t : Trig) (s : State) : exec (.iaShl u t) s = execIaShl u t s := rfl
@[simp] theorem exec_iaShr (u : Bool) (t : Trig) (s : State) : exec (.iaShr u t) s = execIaShr u t s := rfl
@[simp] theorem exec_iaSar (u : Bool) (t : Trig) (s : State) : exec (.iaSar u t) s = execIaSar u t s := rfl
@[simp] theorem exec_iaRotl (u : Bool) (t : Trig) (s : State) : exec (.iaRotl u t) s = execIaRotl u t s := rfl
@[simp] theorem exec_iaClz (u : Bool) (t : Trig) (s : State) : exec (.iaClz u t) s = execIaClz u t s := rfl
@[simp] theorem exec_iaCtz (u : Bool) (t : Trig) (s : State) : exec (.iaCtz u t) s = execIaCtz u t s := rfl
@[simp] theorem exec_iaPopc (u : Bool) (t : Trig) (s : State) : exec (.iaPopc u t) s = execIaPopc u t s := rfl
@[simp] theorem exec_iaExt (u : Bool) (t : Trig) (s : State) : exec (.iaExt u t) s = execIaExt u t s := rfl
@[simp] theorem exec_iaExtu (u : Bool) (t : Trig) (s : State) : exec (.iaExtu u t) s = execIaExtu u t s := rfl
@[simp] theorem exec_iaIns (u : Bool) (t : Trig) (s : State) : exec (.iaIns u t) s = execIaIns u t s := rfl
@[simp] theorem exec_iaCeq (u : Bool) (t : Trig) (s : State) : exec (.iaCeq u t) s = execIaCeq u t s := rfl
@[simp] theorem exec_iaCne (u : Bool) (t : Trig) (s : State) : exec (.iaCne u t) s = execIaCne u t s := rfl
@[simp] theorem exec_iaClt (u : Bool) (t : Trig) (s : State) : exec (.iaClt u t) s = execIaClt u t s := rfl
@[simp] theorem exec_iaCle (u : Bool) (t : Trig) (s : State) : exec (.iaCle u t) s = execIaCle u t s := rfl
@[simp] theorem exec_iaCltu (u : Bool) (t : Trig) (s : State) : exec (.iaCltu u t) s = execIaCltu u t s := rfl
@[simp] theorem exec_iaCleu (u : Bool) (t : Trig) (s : State) : exec (.iaCleu u t) s = execIaCleu u t s := rfl
@[simp] theorem exec_iaMul (u : Bool) (t : Trig) (s : State) : exec (.iaMul u t) s = execIaMul u t s := rfl
@[simp] theorem exec_iaMulh (u : Bool) (t : Trig) (s : State) : exec (.iaMulh u t) s = execIaMulh u t s := rfl
@[simp] theorem exec_iaMulhu (u : Bool) (t : Trig) (s : State) : exec (.iaMulhu u t) s = execIaMulhu u t s := rfl
@[simp] theorem exec_iaDiv (u : Bool) (t : Trig) (s : State) : exec (.iaDiv u t) s = execIaDiv u t s := rfl
@[simp] theorem exec_iaDivu (u : Bool) (t : Trig) (s : State) : exec (.iaDivu u t) s = execIaDivu u t s := rfl
@[simp] theorem exec_iaRem (u : Bool) (t : Trig) (s : State) : exec (.iaRem u t) s = execIaRem u t s := rfl
@[simp] theorem exec_iaRemu (u : Bool) (t : Trig) (s : State) : exec (.iaRemu u t) s = execIaRemu u t s := rfl
@[simp] theorem exec_agAdd (u : Bool) (t : Trig) (s : State) : exec (.agAdd u t) s = execAgAdd u t s := rfl
@[simp] theorem exec_agSub (u : Bool) (t : Trig) (s : State) : exec (.agSub u t) s = execAgSub u t s := rfl
@[simp] theorem exec_agAddx (u : Bool) (t : Trig) (s : State) : exec (.agAddx u t) s = execAgAddx u t s := rfl
@[simp] theorem exec_agAnd (u : Bool) (t : Trig) (s : State) : exec (.agAnd u t) s = execAgAnd u t s := rfl
@[simp] theorem exec_agLtu (u : Bool) (t : Trig) (s : State) : exec (.agLtu u t) s = execAgLtu u t s := rfl
@[simp] theorem exec_agBnd (u : Bool) (t : Trig) (s : State) : exec (.agBnd u t) s = execAgBnd u t s := rfl
@[simp] theorem exec_agKv (u : Bool) (t : Trig) (s : State) : exec (.agKv u t) s = execAgKv u t s := rfl
@[simp] theorem exec_agKvmax (u : Bool) (t : Trig) (s : State) : exec (.agKvmax u t) s = execAgKvmax u t s := rfl
@[simp] theorem exec_agKvlen (u : Bool) (t : Trig) (s : State) : exec (.agKvlen u t) s = execAgKvlen u t s := rfl
@[simp] theorem exec_agKvget (u : Bool) (t : Trig) (s : State) : exec (.agKvget u t) s = execAgKvget u t s := rfl
@[simp] theorem exec_ctlPbr (t : Trig) (s : State) : exec (.ctlPbr t) s = execCtlPbr t s := rfl
@[simp] theorem exec_ctlBr (t : Trig) (s : State) : exec (.ctlBr t) s = execCtlBr t s := rfl
@[simp] theorem exec_ctlCall (t : Trig) (s : State) : exec (.ctlCall t) s = execCtlCall t s := rfl
@[simp] theorem exec_ctlRet (t : Trig) (s : State) : exec (.ctlRet t) s = execCtlRet t s := rfl
@[simp] theorem exec_ctlLoop (t : Trig) (s : State) : exec (.ctlLoop t) s = execCtlLoop t s := rfl
@[simp] theorem exec_ctlJt (t : Trig) (s : State) : exec (.ctlJt t) s = execCtlJt t s := rfl
@[simp] theorem exec_ctlTwait (t : Trig) (s : State) : exec (.ctlTwait t) s = execCtlTwait t s := rfl
@[simp] theorem exec_ctlTpoll (t : Trig) (s : State) : exec (.ctlTpoll t) s = execCtlTpoll t s := rfl
@[simp] theorem exec_ctlSkip (t : Trig) (s : State) : exec (.ctlSkip t) s = execCtlSkip t s := rfl
@[simp] theorem exec_ctlLbrk (t : Trig) (s : State) : exec (.ctlLbrk t) s = execCtlLbrk t s := rfl
@[simp] theorem exec_ctlPand (t : Trig) (s : State) : exec (.ctlPand t) s = execCtlPand t s := rfl
@[simp] theorem exec_ctlPor (t : Trig) (s : State) : exec (.ctlPor t) s = execCtlPor t s := rfl
@[simp] theorem exec_ctlPxor (t : Trig) (s : State) : exec (.ctlPxor t) s = execCtlPxor t s := rfl
@[simp] theorem exec_lsLd (w : BitVec 2) (t : Trig) (s : State) : exec (.lsLd w t) s = execLsLd w t s := rfl
@[simp] theorem exec_lsLdn (w : BitVec 2) (t : Trig) (s : State) : exec (.lsLdn w t) s = execLsLdn w t s := rfl
@[simp] theorem exec_lsLdf (w : BitVec 2) (t : Trig) (s : State) : exec (.lsLdf w t) s = execLsLdf w t s := rfl
@[simp] theorem exec_lsLdh (w : BitVec 2) (t : Trig) (s : State) : exec (.lsLdh w t) s = execLsLdh w t s := rfl
@[simp] theorem exec_lsSt (w : BitVec 2) (t : Trig) (s : State) : exec (.lsSt w t) s = execLsSt w t s := rfl
@[simp] theorem exec_lsStn (w : BitVec 2) (t : Trig) (s : State) : exec (.lsStn w t) s = execLsStn w t s := rfl
@[simp] theorem exec_lsStf (w : BitVec 2) (t : Trig) (s : State) : exec (.lsStf w t) s = execLsStf w t s := rfl
@[simp] theorem exec_lsSth (w : BitVec 2) (t : Trig) (s : State) : exec (.lsSth w t) s = execLsSth w t s := rfl
@[simp] theorem exec_lsVld (t : Trig) (s : State) : exec (.lsVld t) s = execLsVld t s := rfl
@[simp] theorem exec_lsVst (t : Trig) (s : State) : exec (.lsVst t) s = execLsVst t s := rfl
@[simp] theorem exec_lsVldh (t : Trig) (s : State) : exec (.lsVldh t) s = execLsVldh t s := rfl
@[simp] theorem exec_lsVsth (t : Trig) (s : State) : exec (.lsVsth t) s = execLsVsth t s := rfl
@[simp] theorem exec_lsXlat (t : Trig) (s : State) : exec (.lsXlat t) s = execLsXlat t s := rfl
@[simp] theorem exec_lsPreq (t : Trig) (s : State) : exec (.lsPreq t) s = execLsPreq t s := rfl
@[simp] theorem exec_lsMeta (t : Trig) (s : State) : exec (.lsMeta t) s = execLsMeta t s := rfl
@[simp] theorem exec_lsSetmeta (t : Trig) (s : State) : exec (.lsSetmeta t) s = execLsSetmeta t s := rfl
@[simp] theorem exec_lsLdd (t : Trig) (s : State) : exec (.lsLdd t) s = execLsLdd t s := rfl
@[simp] theorem exec_lsStd (t : Trig) (s : State) : exec (.lsStd t) s = execLsStd t s := rfl
@[simp] theorem exec_lsFence (t : Trig) (s : State) : exec (.lsFence t) s = execLsFence t s := rfl
@[simp] theorem exec_lsPst (t : Trig) (s : State) : exec (.lsPst t) s = execLsPst t s := rfl
@[simp] theorem exec_gaAdd (t : Trig) (s : State) : exec (.gaAdd t) s = execGaAdd t s := rfl
@[simp] theorem exec_gaAnd (t : Trig) (s : State) : exec (.gaAnd t) s = execGaAnd t s := rfl
@[simp] theorem exec_gaOr (t : Trig) (s : State) : exec (.gaOr t) s = execGaOr t s := rfl
@[simp] theorem exec_gaXor (t : Trig) (s : State) : exec (.gaXor t) s = execGaXor t s := rfl
@[simp] theorem exec_gaMaxs (t : Trig) (s : State) : exec (.gaMaxs t) s = execGaMaxs t s := rfl
@[simp] theorem exec_gaMins (t : Trig) (s : State) : exec (.gaMins t) s = execGaMins t s := rfl
@[simp] theorem exec_gaSwap (t : Trig) (s : State) : exec (.gaSwap t) s = execGaSwap t s := rfl
@[simp] theorem exec_gaCas (t : Trig) (s : State) : exec (.gaCas t) s = execGaCas t s := rfl
@[simp] theorem exec_gaFadd (t : Trig) (s : State) : exec (.gaFadd t) s = execGaFadd t s := rfl
@[simp] theorem exec_gaFmax (t : Trig) (s : State) : exec (.gaFmax t) s = execGaFmax t s := rfl
@[simp] theorem exec_gaMdraw (t : Trig) (s : State) : exec (.gaMdraw t) s = execGaMdraw t s := rfl
@[simp] theorem exec_gaBar (t : Trig) (s : State) : exec (.gaBar t) s = execGaBar t s := rfl
@[simp] theorem exec_gaAddFar (t : Trig) (s : State) : exec (.gaAddFar t) s = execGaAddFar t s := rfl
@[simp] theorem exec_gaAndFar (t : Trig) (s : State) : exec (.gaAndFar t) s = execGaAndFar t s := rfl
@[simp] theorem exec_gaOrFar (t : Trig) (s : State) : exec (.gaOrFar t) s = execGaOrFar t s := rfl
@[simp] theorem exec_gaXorFar (t : Trig) (s : State) : exec (.gaXorFar t) s = execGaXorFar t s := rfl
@[simp] theorem exec_gaMaxsFar (t : Trig) (s : State) : exec (.gaMaxsFar t) s = execGaMaxsFar t s := rfl
@[simp] theorem exec_gaMinsFar (t : Trig) (s : State) : exec (.gaMinsFar t) s = execGaMinsFar t s := rfl
@[simp] theorem exec_gaSwapFar (t : Trig) (s : State) : exec (.gaSwapFar t) s = execGaSwapFar t s := rfl
@[simp] theorem exec_gaCasFar (t : Trig) (s : State) : exec (.gaCasFar t) s = execGaCasFar t s := rfl
@[simp] theorem exec_gaFaddFar (t : Trig) (s : State) : exec (.gaFaddFar t) s = execGaFaddFar t s := rfl
@[simp] theorem exec_gaFmaxFar (t : Trig) (s : State) : exec (.gaFmaxFar t) s = execGaFmaxFar t s := rfl
@[simp] theorem exec_gaMdrawFar (t : Trig) (s : State) : exec (.gaMdrawFar t) s = execGaMdrawFar t s := rfl
@[simp] theorem exec_gaBarFar (t : Trig) (s : State) : exec (.gaBarFar t) s = execGaBarFar t s := rfl
@[simp] theorem exec_xcSnd (t : Trig) (s : State) : exec (.xcSnd t) s = execXcSnd t s := rfl
@[simp] theorem exec_xcBcs (t : Trig) (s : State) : exec (.xcBcs t) s = execXcBcs t s := rfl
@[simp] theorem exec_xcRcv (t : Trig) (s : State) : exec (.xcRcv t) s = execXcRcv t s := rfl
@[simp] theorem exec_xcSync (t : Trig) (s : State) : exec (.xcSync t) s = execXcSync t s := rfl
@[simp] theorem exec_qCfg (t : Trig) (s : State) : exec (.qCfg t) s = execQCfg t s := rfl
@[simp] theorem exec_qClr (t : Trig) (s : State) : exec (.qClr t) s = execQClr t s := rfl
@[simp] theorem exec_qCnt (t : Trig) (s : State) : exec (.qCnt t) s = execQCnt t s := rfl
@[simp] theorem exec_qLink (t : Trig) (s : State) : exec (.qLink t) s = execQLink t s := rfl
@[simp] theorem exec_zSet (t : Trig) (s : State) : exec (.zSet t) s = execZSet t s := rfl
@[simp] theorem exec_zRst (t : Trig) (s : State) : exec (.zRst t) s = execZRst t s := rfl
@[simp] theorem exec_zPos (t : Trig) (s : State) : exec (.zPos t) s = execZPos t s := rfl
@[simp] theorem exec_panMerge (t : Trig) (s : State) : exec (.panMerge t) s = execPanMerge t s := rfl
@[simp] theorem exec_panRand (t : Trig) (s : State) : exec (.panRand t) s = execPanRand t s := rfl
@[simp] theorem exec_panCtr (t : Trig) (s : State) : exec (.panCtr t) s = execPanCtr t s := rfl
@[simp] theorem exec_panClrf (t : Trig) (s : State) : exec (.panClrf t) s = execPanClrf t s := rfl
@[simp] theorem exec_verCfg (t : Trig) (s : State) : exec (.verCfg t) s = execVerCfg t s := rfl
@[simp] theorem exec_verCand (t : Trig) (s : State) : exec (.verCand t) s = execVerCand t s := rfl
@[simp] theorem exec_verChk (t : Trig) (s : State) : exec (.verChk t) s = execVerChk t s := rfl
@[simp] theorem exec_verFin (t : Trig) (s : State) : exec (.verFin t) s = execVerFin t s := rfl
@[simp] theorem exec_verSetf (t : Trig) (s : State) : exec (.verSetf t) s = execVerSetf t s := rfl
@[simp] theorem exec_verStop (t : Trig) (s : State) : exec (.verStop t) s = execVerStop t s := rfl
@[simp] theorem exec_sysHalt (t : Trig) (s : State) : exec (.sysHalt t) s = execSysHalt t s := rfl
@[simp] theorem exec_sysTret (t : Trig) (s : State) : exec (.sysTret t) s = execSysTret t s := rfl
@[simp] theorem exec_sysIfence (t : Trig) (s : State) : exec (.sysIfence t) s = execSysIfence t s := rfl
@[simp] theorem exec_sysTrap (t : Trig) (s : State) : exec (.sysTrap t) s = execSysTrap t s := rfl
@[simp] theorem exec_sysBrk (t : Trig) (s : State) : exec (.sysBrk t) s = execSysBrk t s := rfl
@[simp] theorem exec_sysTmark (t : Trig) (s : State) : exec (.sysTmark t) s = execSysTmark t s := rfl
@[simp] theorem exec_sysTarm (t : Trig) (s : State) : exec (.sysTarm t) s = execSysTarm t s := rfl
@[simp] theorem exec_sysTfrz (t : Trig) (s : State) : exec (.sysTfrz t) s = execSysTfrz t s := rfl
@[simp] theorem exec_sysTmrs (t : Trig) (s : State) : exec (.sysTmrs t) s = execSysTmrs t s := rfl
@[simp] theorem exec_sysTmrc (t : Trig) (s : State) : exec (.sysTmrc t) s = execSysTmrc t s := rfl
@[simp] theorem exec_sysYield (t : Trig) (s : State) : exec (.sysYield t) s = execSysYield t s := rfl
@[simp] theorem exec_sysSeed (t : Trig) (s : State) : exec (.sysSeed t) s = execSysSeed t s := rfl
@[simp] theorem exec_sysDi (t : Trig) (s : State) : exec (.sysDi t) s = execSysDi t s := rfl
@[simp] theorem exec_sysEi (t : Trig) (s : State) : exec (.sysEi t) s = execSysEi t s := rfl
@[simp] theorem exec_vxMov (w : VWord) (s : State) : exec (.vxMov w) s = execVxMov w s := rfl
@[simp] theorem exec_vxAdd (w : VWord) (s : State) : exec (.vxAdd w) s = execVxAdd w s := rfl
@[simp] theorem exec_vxSub (w : VWord) (s : State) : exec (.vxSub w) s = execVxSub w s := rfl
@[simp] theorem exec_vxMul (w : VWord) (s : State) : exec (.vxMul w) s = execVxMul w s := rfl
@[simp] theorem exec_vxMulz (w : VWord) (s : State) : exec (.vxMulz w) s = execVxMulz w s := rfl
@[simp] theorem exec_vxDiv (w : VWord) (s : State) : exec (.vxDiv w) s = execVxDiv w s := rfl
@[simp] theorem exec_vxMin (w : VWord) (s : State) : exec (.vxMin w) s = execVxMin w s := rfl
@[simp] theorem exec_vxMax (w : VWord) (s : State) : exec (.vxMax w) s = execVxMax w s := rfl
@[simp] theorem exec_vxAbs (w : VWord) (s : State) : exec (.vxAbs w) s = execVxAbs w s := rfl
@[simp] theorem exec_vxNeg (w : VWord) (s : State) : exec (.vxNeg w) s = execVxNeg w s := rfl
@[simp] theorem exec_vxAnd (w : VWord) (s : State) : exec (.vxAnd w) s = execVxAnd w s := rfl
@[simp] theorem exec_vxOr (w : VWord) (s : State) : exec (.vxOr w) s = execVxOr w s := rfl
@[simp] theorem exec_vxXor (w : VWord) (s : State) : exec (.vxXor w) s = execVxXor w s := rfl
@[simp] theorem exec_vxShl (w : VWord) (s : State) : exec (.vxShl w) s = execVxShl w s := rfl
@[simp] theorem exec_vxShr (w : VWord) (s : State) : exec (.vxShr w) s = execVxShr w s := rfl
@[simp] theorem exec_vxSar (w : VWord) (s : State) : exec (.vxSar w) s = execVxSar w s := rfl
@[simp] theorem exec_vxFma (w : VWord) (s : State) : exec (.vxFma w) s = execVxFma w s := rfl
@[simp] theorem exec_vxFms (w : VWord) (s : State) : exec (.vxFms w) s = execVxFms w s := rfl
@[simp] theorem exec_vxFnma (w : VWord) (s : State) : exec (.vxFnma w) s = execVxFnma w s := rfl
@[simp] theorem exec_vxSel (w : VWord) (s : State) : exec (.vxSel w) s = execVxSel w s := rfl
@[simp] theorem exec_vxCeq (w : VWord) (s : State) : exec (.vxCeq w) s = execVxCeq w s := rfl
@[simp] theorem exec_vxCne (w : VWord) (s : State) : exec (.vxCne w) s = execVxCne w s := rfl
@[simp] theorem exec_vxClt (w : VWord) (s : State) : exec (.vxClt w) s = execVxClt w s := rfl
@[simp] theorem exec_vxCle (w : VWord) (s : State) : exec (.vxCle w) s = execVxCle w s := rfl
@[simp] theorem exec_vxCnan (w : VWord) (s : State) : exec (.vxCnan w) s = execVxCnan w s := rfl
@[simp] theorem exec_vxMget (w : VWord) (s : State) : exec (.vxMget w) s = execVxMget w s := rfl
@[simp] theorem exec_vxMput (w : VWord) (s : State) : exec (.vxMput w) s = execVxMput w s := rfl
@[simp] theorem exec_vxMcnt (w : VWord) (s : State) : exec (.vxMcnt w) s = execVxMcnt w s := rfl
@[simp] theorem exec_vxExp2 (w : VWord) (s : State) : exec (.vxExp2 w) s = execVxExp2 w s := rfl
@[simp] theorem exec_vxLog2 (w : VWord) (s : State) : exec (.vxLog2 w) s = execVxLog2 w s := rfl
@[simp] theorem exec_vxRcp (w : VWord) (s : State) : exec (.vxRcp w) s = execVxRcp w s := rfl
@[simp] theorem exec_vxRsqrt (w : VWord) (s : State) : exec (.vxRsqrt w) s = execVxRsqrt w s := rfl
@[simp] theorem exec_vxSqrt (w : VWord) (s : State) : exec (.vxSqrt w) s = execVxSqrt w s := rfl
@[simp] theorem exec_vxExp (w : VWord) (s : State) : exec (.vxExp w) s = execVxExp w s := rfl
@[simp] theorem exec_vxTanh (w : VWord) (s : State) : exec (.vxTanh w) s = execVxTanh w s := rfl
@[simp] theorem exec_vxSigm (w : VWord) (s : State) : exec (.vxSigm w) s = execVxSigm w s := rfl
@[simp] theorem exec_vxSilu (w : VWord) (s : State) : exec (.vxSilu w) s = execVxSilu w s := rfl
@[simp] theorem exec_vxGelu (w : VWord) (s : State) : exec (.vxGelu w) s = execVxGelu w s := rfl
@[simp] theorem exec_vxSin (w : VWord) (s : State) : exec (.vxSin w) s = execVxSin w s := rfl
@[simp] theorem exec_vxCos (w : VWord) (s : State) : exec (.vxCos w) s = execVxCos w s := rfl
@[simp] theorem exec_vxRsum (w : VWord) (s : State) : exec (.vxRsum w) s = execVxRsum w s := rfl
@[simp] theorem exec_vxRmax (w : VWord) (s : State) : exec (.vxRmax w) s = execVxRmax w s := rfl
@[simp] theorem exec_vxRmin (w : VWord) (s : State) : exec (.vxRmin w) s = execVxRmin w s := rfl
@[simp] theorem exec_vxRmaxi (w : VWord) (s : State) : exec (.vxRmaxi w) s = execVxRmaxi w s := rfl
@[simp] theorem exec_vxScan (w : VWord) (s : State) : exec (.vxScan w) s = execVxScan w s := rfl
@[simp] theorem exec_vxTrn (w : VWord) (s : State) : exec (.vxTrn w) s = execVxTrn w s := rfl
@[simp] theorem exec_vxGth (w : VWord) (s : State) : exec (.vxGth w) s = execVxGth w s := rfl
@[simp] theorem exec_vxSct (w : VWord) (s : State) : exec (.vxSct w) s = execVxSct w s := rfl
@[simp] theorem exec_vxDot (w : VWord) (s : State) : exec (.vxDot w) s = execVxDot w s := rfl
@[simp] theorem exec_vxCvt (w : VWord) (s : State) : exec (.vxCvt w) s = execVxCvt w s := rfl
@[simp] theorem exec_vxBndLip (w : VWord) (s : State) : exec (.vxBndLip w) s = execVxBndLip w s := rfl
@[simp] theorem exec_vxBndCvt (w : VWord) (s : State) : exec (.vxBndCvt w) s = execVxBndCvt w s := rfl
@[simp] theorem exec_vxBndAdd (w : VWord) (s : State) : exec (.vxBndAdd w) s = execVxBndAdd w s := rfl
@[simp] theorem exec_vxShape (w : VWord) (s : State) : exec (.vxShape w) s = execVxShape w s := rfl
@[simp] theorem exec_vxClamp (w : VWord) (s : State) : exec (.vxClamp w) s = execVxClamp w s := rfl
@[simp] theorem exec_mxStep (w : MxWord) (s : State) : exec (.mxStep w) s = execMxStep w s := rfl
@[simp] theorem exec_mxRes (w : MxWord) (s : State) : exec (.mxRes w) s = execMxRes w s := rfl
@[simp] theorem exec_mxZero (w : MxWord) (s : State) : exec (.mxZero w) s = execMxZero w s := rfl
@[simp] theorem exec_mxDrain (w : MxWord) (s : State) : exec (.mxDrain w) s = execMxDrain w s := rfl
@[simp] theorem exec_mxAssay (w : MxWord) (s : State) : exec (.mxAssay w) s = execMxAssay w s := rfl
@[simp] theorem exec_mxCurGet (w : MxWord) (s : State) : exec (.mxCurGet w) s = execMxCurGet w s := rfl
@[simp] theorem exec_mxCurSet (w : MxWord) (s : State) : exec (.mxCurSet w) s = execMxCurSet w s := rfl
@[simp] theorem exec_mxBias (w : MxWord) (s : State) : exec (.mxBias w) s = execMxBias w s := rfl
@[simp] theorem exec_mxSurvey (w : MxWord) (s : State) : exec (.mxSurvey w) s = execMxSurvey w s := rfl
@[simp] theorem exec_mxLoad (w : MxWord) (s : State) : exec (.mxLoad w) s = execMxLoad w s := rfl
@[simp] theorem exec_mxAset (w : MxWord) (s : State) : exec (.mxAset w) s = execMxAset w s := rfl
@[simp] theorem exec_mxMark (w : MxWord) (s : State) : exec (.mxMark w) s = execMxMark w s := rfl
@[simp] theorem exec_panDraw (w : PanWord) (s : State) : exec (.panDraw w) s = execPanDraw w s := rfl
@[simp] theorem exec_panShort (w : PanWord) (s : State) : exec (.panShort w) s = execPanShort w s := rfl
@[simp] theorem exec_panPen (w : PanWord) (s : State) : exec (.panPen w) s = execPanPen w s := rfl
@[simp] theorem exec_panBias (w : PanWord) (s : State) : exec (.panBias w) s = execPanBias w s := rfl
@[simp] theorem exec_panScale (w : PanWord) (s : State) : exec (.panScale w) s = execPanScale w s := rfl
@[simp] theorem exec_panFull (w : PanWord) (s : State) : exec (.panFull w) s = execPanFull w s := rfl
@[simp] theorem exec_panLse (w : PanWord) (s : State) : exec (.panLse w) s = execPanLse w s := rfl
@[simp] theorem exec_wzCopy (w : WzWord) (s : State) : exec (.wzCopy w) s = execWzCopy w s := rfl
@[simp] theorem exec_wzCopyk (w : WzWord) (s : State) : exec (.wzCopyk w) s = execWzCopyk w s := rfl
@[simp] theorem exec_wzFill (w : WzWord) (s : State) : exec (.wzFill w) s = execWzFill w s := rfl
@[simp] theorem exec_wzGat2 (w : WzWord) (s : State) : exec (.wzGat2 w) s = execWzGat2 w s := rfl
@[simp] theorem exec_wzSct2 (w : WzWord) (s : State) : exec (.wzSct2 w) s = execWzSct2 w s := rfl
@[simp] theorem exec_wzGat4 (w : WzWord) (s : State) : exec (.wzGat4 w) s = execWzGat4 w s := rfl
@[simp] theorem exec_wzSct4 (w : WzWord) (s : State) : exec (.wzSct4 w) s = execWzSct4 w s := rfl
@[simp] theorem exec_wzExpd (w : WzWord) (s : State) : exec (.wzExpd w) s = execWzExpd w s := rfl
@[simp] theorem exec_wzPack (w : WzWord) (s : State) : exec (.wzPack w) s = execWzPack w s := rfl
@[simp] theorem exec_wzRcopy (w : WzWord) (s : State) : exec (.wzRcopy w) s = execWzRcopy w s := rfl
@[simp] theorem exec_wzMark (w : WzWord) (s : State) : exec (.wzMark w) s = execWzMark w s := rfl
@[simp] theorem exec_mainPowerApplied (s : State) : exec (.mainPowerApplied) s = execMainPowerApplied s := rfl
@[simp] theorem exec_hostReset (s : State) : exec (.hostReset) s = execHostReset s := rfl
@[simp] theorem exec_pllLockTimeout (s : State) : exec (.pllLockTimeout) s = execPllLockTimeout s := rfl
@[simp] theorem exec_firmwareUpdate (s : State) : exec (.firmwareUpdate) s = execFirmwareUpdate s := rfl
@[simp] theorem exec_thermalPreempt (s : State) : exec (.thermalPreempt) s = execThermalPreempt s := rfl
@[simp] theorem exec_thermalRecover (s : State) : exec (.thermalRecover) s = execThermalRecover s := rfl
@[simp] theorem exec_thermalTrip (s : State) : exec (.thermalTrip) s = execThermalTrip s := rfl
@[simp] theorem exec_thermalTripRecordRead (s : State) : exec (.thermalTripRecordRead) s = execThermalTripRecordRead s := rfl
@[simp] theorem exec_attestationRequest (s : State) : exec (.attestationRequest) s = execAttestationRequest s := rfl
@[simp] theorem exec_dieLinkLoss (s : State) : exec (.dieLinkLoss) s = execDieLinkLoss s := rfl
@[simp] theorem exec_dieLinkRetrainRequest (s : State) : exec (.dieLinkRetrainRequest) s = execDieLinkRetrainRequest s := rfl
@[simp] theorem exec_dieLinkRetrain (s : State) : exec (.dieLinkRetrain) s = execDieLinkRetrain s := rfl
@[simp] theorem exec_queueCreate (s : State) : exec (.queueCreate) s = execQueueCreate s := rfl
@[simp] theorem exec_queueDestroy (s : State) : exec (.queueDestroy) s = execQueueDestroy s := rfl
@[simp] theorem exec_doorbellWrite (s : State) : exec (.doorbellWrite) s = execDoorbellWrite s := rfl
@[simp] theorem exec_submissionTake (s : State) : exec (.submissionTake) s = execSubmissionTake s := rfl
@[simp] theorem exec_killWrite (s : State) : exec (.killWrite) s = execKillWrite s := rfl
@[simp] theorem exec_killackWrite (s : State) : exec (.killackWrite) s = execKillackWrite s := rfl
@[simp] theorem exec_injectWrite (s : State) : exec (.injectWrite) s = execInjectWrite s := rfl
@[simp] theorem exec_bar0RegisterWrite (s : State) : exec (.bar0RegisterWrite) s = execBar0RegisterWrite s := rfl
@[simp] theorem exec_sliceBoundary (s : State) : exec (.sliceBoundary) s = execSliceBoundary s := rfl
@[simp] theorem exec_escalationWindowExpiry (s : State) : exec (.escalationWindowExpiry) s = execEscalationWindowExpiry s := rfl
@[simp] theorem exec_saveComplete (s : State) : exec (.saveComplete) s = execSaveComplete s := rfl
@[simp] theorem exec_bind (s : State) : exec (.bind) s = execBind s := rfl
@[simp] theorem exec_teamStart (s : State) : exec (.teamStart) s = execTeamStart s := rfl
@[simp] theorem exec_gangAgreement (s : State) : exec (.gangAgreement) s = execGangAgreement s := rfl
@[simp] theorem exec_gangAgreementTimeout (s : State) : exec (.gangAgreementTimeout) s = execGangAgreementTimeout s := rfl
@[simp] theorem exec_teamRetirement (s : State) : exec (.teamRetirement) s = execTeamRetirement s := rfl
@[simp] theorem exec_completionRecordWrite (s : State) : exec (.completionRecordWrite) s = execCompletionRecordWrite s := rfl
@[simp] theorem exec_bundleIssue (s : State) : exec (.bundleIssue) s = execBundleIssue s := rfl
@[simp] theorem exec_holdEnd (s : State) : exec (.holdEnd) s = execHoldEnd s := rfl
@[simp] theorem exec_canaryExpiry (s : State) : exec (.canaryExpiry) s = execCanaryExpiry s := rfl
@[simp] theorem exec_memoryReplyArrival (s : State) : exec (.memoryReplyArrival) s = execMemoryReplyArrival s := rfl
@[simp] theorem exec_resultCompletion (s : State) : exec (.resultCompletion) s = execResultCompletion s := rfl
@[simp] theorem exec_xcArrival (s : State) : exec (.xcArrival) s = execXcArrival s := rfl
@[simp] theorem exec_trapEntry (s : State) : exec (.trapEntry) s = execTrapEntry s := rfl
@[simp] theorem exec_timerFire (s : State) : exec (.timerFire) s = execTimerFire s := rfl
@[simp] theorem exec_accessLeave (s : State) : exec (.accessLeave) s = execAccessLeave s := rfl
@[simp] theorem exec_accessAdvance (s : State) : exec (.accessAdvance) s = execAccessAdvance s := rfl
@[simp] theorem exec_accessPerform (s : State) : exec (.accessPerform) s = execAccessPerform s := rfl
@[simp] theorem exec_engineCommandStart (s : State) : exec (.engineCommandStart) s = execEngineCommandStart s := rfl
@[simp] theorem exec_engineCommandComplete (s : State) : exec (.engineCommandComplete) s = execEngineCommandComplete s := rfl
@[simp] theorem exec_remoteCopyPayload (s : State) : exec (.remoteCopyPayload) s = execRemoteCopyPayload s := rfl
@[simp] theorem exec_linkFlitReceive (s : State) : exec (.linkFlitReceive) s = execLinkFlitReceive s := rfl
@[simp] theorem exec_linkAckTimeout (s : State) : exec (.linkAckTimeout) s = execLinkAckTimeout s := rfl
@[simp] theorem exec_timingMessage (s : State) : exec (.timingMessage) s = execTimingMessage s := rfl
@[simp] theorem exec_dccSynchronised (s : State) : exec (.dccSynchronised) s = execDccSynchronised s := rfl
@[simp] theorem exec_pageReply (s : State) : exec (.pageReply) s = execPageReply s := rfl
@[simp] theorem exec_priResponse (s : State) : exec (.priResponse) s = execPriResponse s := rfl
@[simp] theorem exec_priRequestSend (s : State) : exec (.priRequestSend) s = execPriRequestSend s := rfl
@[simp] theorem exec_pageRequestTimeout (s : State) : exec (.pageRequestTimeout) s = execPageRequestTimeout s := rfl
@[simp] theorem exec_pageTableChange (s : State) : exec (.pageTableChange) s = execPageTableChange s := rfl
@[simp] theorem exec_migrationStart (s : State) : exec (.migrationStart) s = execMigrationStart s := rfl
@[simp] theorem exec_firebossRead (s : State) : exec (.firebossRead) s = execFirebossRead s := rfl
@[simp] theorem exec_firebossWrite (s : State) : exec (.firebossWrite) s = execFirebossWrite s := rfl
@[simp] theorem exec_collectiveDescriptorTake (s : State) : exec (.collectiveDescriptorTake) s = execCollectiveDescriptorTake s := rfl
@[simp] theorem exec_collectiveMessage (s : State) : exec (.collectiveMessage) s = execCollectiveMessage s := rfl
@[simp] theorem exec_quorumClose (s : State) : exec (.quorumClose) s = execQuorumClose s := rfl
@[simp] theorem exec_sessionSetup (s : State) : exec (.sessionSetup) s = execSessionSetup s := rfl
@[simp] theorem exec_sessionRekey (s : State) : exec (.sessionRekey) s = execSessionRekey s := rfl
@[simp] theorem exec_sessionFrameReceive (s : State) : exec (.sessionFrameReceive) s = execSessionFrameReceive s := rfl
@[simp] theorem exec_mainPowerRemoved (s : State) : exec (.mainPowerRemoved) s = execMainPowerRemoved s := rfl
@[simp] theorem exec_debuggerResume (s : State) : exec (.debuggerResume) s = execDebuggerResume s := rfl
@[simp] theorem exec_pageRequestRouteSelect (s : State) : exec (.pageRequestRouteSelect) s = execPageRequestRouteSelect s := rfl
@[simp] theorem exec_allowListInstall (s : State) : exec (.allowListInstall) s = execAllowListInstall s := rfl
@[simp] theorem exec_collectiveRingMap (s : State) : exec (.collectiveRingMap) s = execCollectiveRingMap s := rfl

end Sys2Proof.Machine
end

