-- ==== Sys2Proof/Laws/PerInstr.lean ====
section
/-!
SUPPORT. One fact of each constructor of `Instr`: the opcode and the unit that its encoding is written with are those
under which the decoder's tables name it again, and a row without a word has no encoding.
-/
namespace Sys2Proof.Laws

open Sys2Proof Sys2Proof.Machine

theorem four (w : BitVec 2) : w = 0#2 ∨ w = 1#2 ∨ w = 2#2 ∨ w = 3#2 := by revert w; decide

/-- The tables of the encoder and of the decoder agree on an instruction (R78, R85, R88, R116-R131). -/
def Spelled.Statement (i : Instr) : Prop :=
  match shortOf i with
  | some (true, du, ds, t) => trigOf du.toNat ds.toNat t = some i
  | some (false, du, ds, t) => i = .move du ds t ∨ (i = .sflagWrite t ∧ du = 0x18#5 ∧ ds = 3#6)
  | none =>
    match vxOf i with
    | some (opc, w) => vxInstr opc w = some i
    | none =>
      match mxOf i with
      | some (opc, w) => mxInstr opc w = some i
      | none =>
        match wzOf i with
        | some (opc, w) => wzInstr opc w = some i
        | none =>
          match panOf i with
          | some (opc, w) => panInstr opc w = some i
          | none => encode i = [] ∧ isWord i = false

theorem Spelled.move (du : BitVec 5) (ds : BitVec 6) (t : Trig) : Spelled.Statement (.move du ds t) := .inl rfl
theorem Spelled.sflagWrite (t : Trig) : Spelled.Statement (.sflagWrite t) := .inr ⟨rfl, rfl, rfl⟩
theorem Spelled.iaAdd (u : Bool) (t : Trig) : Spelled.Statement (.iaAdd u t) := by cases u <;> rfl
theorem Spelled.iaSub (u : Bool) (t : Trig) : Spelled.Statement (.iaSub u t) := by cases u <;> rfl
theorem Spelled.iaAdds (u : Bool) (t : Trig) : Spelled.Statement (.iaAdds u t) := by cases u <;> rfl
theorem Spelled.iaSubs (u : Bool) (t : Trig) : Spelled.Statement (.iaSubs u t) := by cases u <;> rfl
theorem Spelled.iaAddus (u : Bool) (t : Trig) : Spelled.Statement (.iaAddus u t) := by cases u <;> rfl
theorem Spelled.iaSubus (u : Bool) (t : Trig) : Spelled.Statement (.iaSubus u t) := by cases u <;> rfl
theorem Spelled.iaMin (u : Bool) (t : Trig) : Spelled.Statement (.iaMin u t) := by cases u <;> rfl
theorem Spelled.iaMax (u : Bool) (t : Trig) : Spelled.Statement (.iaMax u t) := by cases u <;> rfl
theorem Spelled.iaMinu (u : Bool) (t : Trig) : Spelled.Statement (.iaMinu u t) := by cases u <;> rfl
theorem Spelled.iaMaxu (u : Bool) (t : Trig) : Spelled.Statement (.iaMaxu u t) := by cases u <;> rfl
theorem Spelled.iaAnd (u : Bool) (t : Trig) : Spelled.Statement (.iaAnd u t) := by cases u <;> rfl
theorem Spelled.iaOr (u : Bool) (t : Trig) : Spelled.Statement (.iaOr u t) := by cases u <;> rfl
theorem Spelled.iaXor (u : Bool) (t : Trig) : Spelled.Statement (.iaXor u t) := by cases u <;> rfl
theorem Spelled.iaShl (u : Bool) (t : Trig) : Spelled.Statement (.iaShl u t) := by cases u <;> rfl
theorem Spelled.iaShr (u : Bool) (t : Trig) : Spelled.Statement (.iaShr u t) := by cases u <;> rfl
theorem Spelled.iaSar (u : Bool) (t : Trig) : Spelled.Statement (.iaSar u t) := by cases u <;> rfl
theorem Spelled.iaRotl (u : Bool) (t : Trig) : Spelled.Statement (.iaRotl u t) := by cases u <;> rfl
theorem Spelled.iaClz (u : Bool) (t : Trig) : Spelled.Statement (.iaClz u t) := by cases u <;> rfl
theorem Spelled.iaCtz (u : Bool) (t : Trig) : Spelled.Statement (.iaCtz u t) := by cases u <;> rfl
theorem Spelled.iaPopc (u : Bool) (t : Trig) : Spelled.Statement (.iaPopc u t) := by cases u <;> rfl
theorem Spelled.iaExt (u : Bool) (t : Trig) : Spelled.Statement (.iaExt u t) := by cases u <;> rfl
theorem Spelled.iaExtu (u : Bool) (t : Trig) : Spelled.Statement (.iaExtu u t) := by cases u <;> rfl
theorem Spelled.iaIns (u : Bool) (t : Trig) : Spelled.Statement (.iaIns u t) := by cases u <;> rfl
theorem Spelled.iaCeq (u : Bool) (t : Trig) : Spelled.Statement (.iaCeq u t) := by cases u <;> rfl
theorem Spelled.iaCne (u : Bool) (t : Trig) : Spelled.Statement (.iaCne u t) := by cases u <;> rfl
theorem Spelled.iaClt (u : Bool) (t : Trig) : Spelled.Statement (.iaClt u t) := by cases u <;> rfl
theorem Spelled.iaCle (u : Bool) (t : Trig) : Spelled.Statement (.iaCle u t) := by cases u <;> rfl
theorem Spelled.iaCltu (u : Bool) (t : Trig) : Spelled.Statement (.iaCltu u t) := by cases u <;> rfl
theorem Spelled.iaCleu (u : Bool) (t : Trig) : Spelled.Statement (.iaCleu u t) := by cases u <;> rfl
theorem Spelled.iaMul (u : Bool) (t : Trig) : Spelled.Statement (.iaMul u t) := by cases u <;> rfl
theorem Spelled.iaMulh (u : Bool) (t : Trig) : Spelled.Statement (.iaMulh u t) := by cases u <;> rfl
theorem Spelled.iaMulhu (u : Bool) (t : Trig) : Spelled.Statement (.iaMulhu u t) := by cases u <;> rfl
theorem Spelled.iaDiv (u : Bool) (t : Trig) : Spelled.Statement (.iaDiv u t) := by cases u <;> rfl
theorem Spelled.iaDivu (u : Bool) (t : Trig) : Spelled.Statement (.iaDivu u t) := by cases u <;> rfl
theorem Spelled.iaRem (u : Bool) (t : Trig) : Spelled.Statement (.iaRem u t) := by cases u <;> rfl
theorem Spelled.iaRemu (u : Bool) (t : Trig) : Spelled.Statement (.iaRemu u t) := by cases u <;> rfl
theorem Spelled.agAdd (u : Bool) (t : Trig) : Spelled.Statement (.agAdd u t) := by cases u <;> rfl
theorem Spelled.agSub (u : Bool) (t : Trig) : Spelled.Statement (.agSub u t) := by cases u <;> rfl
theorem Spelled.agAddx (u : Bool) (t : Trig) : Spelled.Statement (.agAddx u t) := by cases u <;> rfl
theorem Spelled.agAnd (u : Bool) (t : Trig) : Spelled.Statement (.agAnd u t) := by cases u <;> rfl
theorem Spelled.agLtu (u : Bool) (t : Trig) : Spelled.Statement (.agLtu u t) := by cases u <;> rfl
theorem Spelled.agBnd (u : Bool) (t : Trig) : Spelled.Statement (.agBnd u t) := by cases u <;> rfl
theorem Spelled.agKv (u : Bool) (t : Trig) : Spelled.Statement (.agKv u t) := by cases u <;> rfl
theorem Spelled.agKvmax (u : Bool) (t : Trig) : Spelled.Statement (.agKvmax u t) := by cases u <;> rfl
theorem Spelled.agKvlen (u : Bool) (t : Trig) : Spelled.Statement (.agKvlen u t) := by cases u <;> rfl
theorem Spelled.agKvget (u : Bool) (t : Trig) : Spelled.Statement (.agKvget u t) := by cases u <;> rfl
theorem Spelled.ctlPbr (t : Trig) : Spelled.Statement (.ctlPbr t) := rfl
theorem Spelled.ctlBr (t : Trig) : Spelled.Statement (.ctlBr t) := rfl
theorem Spelled.ctlCall (t : Trig) : Spelled.Statement (.ctlCall t) := rfl
theorem Spelled.ctlRet (t : Trig) : Spelled.Statement (.ctlRet t) := rfl
theorem Spelled.ctlLoop (t : Trig) : Spelled.Statement (.ctlLoop t) := rfl
theorem Spelled.ctlJt (t : Trig) : Spelled.Statement (.ctlJt t) := rfl
theorem Spelled.ctlTwait (t : Trig) : Spelled.Statement (.ctlTwait t) := rfl
theorem Spelled.ctlTpoll (t : Trig) : Spelled.Statement (.ctlTpoll t) := rfl
theorem Spelled.ctlSkip (t : Trig) : Spelled.Statement (.ctlSkip t) := rfl
theorem Spelled.ctlLbrk (t : Trig) : Spelled.Statement (.ctlLbrk t) := rfl
theorem Spelled.ctlPand (t : Trig) : Spelled.Statement (.ctlPand t) := rfl
theorem Spelled.ctlPor (t : Trig) : Spelled.Statement (.ctlPor t) := rfl
theorem Spelled.ctlPxor (t : Trig) : Spelled.Statement (.ctlPxor t) := rfl
theorem Spelled.lsLd (w : BitVec 2) (t : Trig) : Spelled.Statement (.lsLd w t) := by obtain rfl | rfl | rfl | rfl := four w <;> rfl
theorem Spelled.lsLdn (w : BitVec 2) (t : Trig) : Spelled.Statement (.lsLdn w t) := by obtain rfl | rfl | rfl | rfl := four w <;> rfl
theorem Spelled.lsLdf (w : BitVec 2) (t : Trig) : Spelled.Statement (.lsLdf w t) := by obtain rfl | rfl | rfl | rfl := four w <;> rfl
theorem Spelled.lsLdh (w : BitVec 2) (t : Trig) : Spelled.Statement (.lsLdh w t) := by obtain rfl | rfl | rfl | rfl := four w <;> rfl
theorem Spelled.lsSt (w : BitVec 2) (t : Trig) : Spelled.Statement (.lsSt w t) := by obtain rfl | rfl | rfl | rfl := four w <;> rfl
theorem Spelled.lsStn (w : BitVec 2) (t : Trig) : Spelled.Statement (.lsStn w t) := by obtain rfl | rfl | rfl | rfl := four w <;> rfl
theorem Spelled.lsStf (w : BitVec 2) (t : Trig) : Spelled.Statement (.lsStf w t) := by obtain rfl | rfl | rfl | rfl := four w <;> rfl
theorem Spelled.lsSth (w : BitVec 2) (t : Trig) : Spelled.Statement (.lsSth w t) := by obtain rfl | rfl | rfl | rfl := four w <;> rfl
theorem Spelled.lsVld (t : Trig) : Spelled.Statement (.lsVld t) := rfl
theorem Spelled.lsVst (t : Trig) : Spelled.Statement (.lsVst t) := rfl
theorem Spelled.lsVldh (t : Trig) : Spelled.Statement (.lsVldh t) := rfl
theorem Spelled.lsVsth (t : Trig) : Spelled.Statement (.lsVsth t) := rfl
theorem Spelled.lsXlat (t : Trig) : Spelled.Statement (.lsXlat t) := rfl
theorem Spelled.lsPreq (t : Trig) : Spelled.Statement (.lsPreq t) := rfl
theorem Spelled.lsMeta (t : Trig) : Spelled.Statement (.lsMeta t) := rfl
theorem Spelled.lsSetmeta (t : Trig) : Spelled.Statement (.lsSetmeta t) := rfl
theorem Spelled.lsLdd (t : Trig) : Spelled.Statement (.lsLdd t) := rfl
theorem Spelled.lsStd (t : Trig) : Spelled.Statement (.lsStd t) := rfl
theorem Spelled.lsFence (t : Trig) : Spelled.Statement (.lsFence t) := rfl
theorem Spelled.lsPst (t : Trig) : Spelled.Statement (.lsPst t) := rfl
theorem Spelled.gaAdd (t : Trig) : Spelled.Statement (.gaAdd t) := rfl
theorem Spelled.gaAnd (t : Trig) : Spelled.Statement (.gaAnd t) := rfl
theorem Spelled.gaOr (t : Trig) : Spelled.Statement (.gaOr t) := rfl
theorem Spelled.gaXor (t : Trig) : Spelled.Statement (.gaXor t) := rfl
theorem Spelled.gaMaxs (t : Trig) : Spelled.Statement (.gaMaxs t) := rfl
theorem Spelled.gaMins (t : Trig) : Spelled.Statement (.gaMins t) := rfl
theorem Spelled.gaSwap (t : Trig) : Spelled.Statement (.gaSwap t) := rfl
theorem Spelled.gaCas (t : Trig) : Spelled.Statement (.gaCas t) := rfl
theorem Spelled.gaFadd (t : Trig) : Spelled.Statement (.gaFadd t) := rfl
theorem Spelled.gaFmax (t : Trig) : Spelled.Statement (.gaFmax t) := rfl
theorem Spelled.gaMdraw (t : Trig) : Spelled.Statement (.gaMdraw t) := rfl
theorem Spelled.gaBar (t : Trig) : Spelled.Statement (.gaBar t) := rfl
theorem Spelled.gaAddFar (t : Trig) : Spelled.Statement (.gaAddFar t) := rfl
theorem Spelled.gaAndFar (t : Trig) : Spelled.Statement (.gaAndFar t) := rfl
theorem Spelled.gaOrFar (t : Trig) : Spelled.Statement (.gaOrFar t) := rfl
theorem Spelled.gaXorFar (t : Trig) : Spelled.Statement (.gaXorFar t) := rfl
theorem Spelled.gaMaxsFar (t : Trig) : Spelled.Statement (.gaMaxsFar t) := rfl
theorem Spelled.gaMinsFar (t : Trig) : Spelled.Statement (.gaMinsFar t) := rfl
theorem Spelled.gaSwapFar (t : Trig) : Spelled.Statement (.gaSwapFar t) := rfl
theorem Spelled.gaCasFar (t : Trig) : Spelled.Statement (.gaCasFar t) := rfl
theorem Spelled.gaFaddFar (t : Trig) : Spelled.Statement (.gaFaddFar t) := rfl
theorem Spelled.gaFmaxFar (t : Trig) : Spelled.Statement (.gaFmaxFar t) := rfl
theorem Spelled.gaMdrawFar (t : Trig) : Spelled.Statement (.gaMdrawFar t) := rfl
theorem Spelled.gaBarFar (t : Trig) : Spelled.Statement (.gaBarFar t) := rfl
theorem Spelled.xcSnd (t : Trig) : Spelled.Statement (.xcSnd t) := rfl
theorem Spelled.xcBcs (t : Trig) : Spelled.Statement (.xcBcs t) := rfl
theorem Spelled.xcRcv (t : Trig) : Spelled.Statement (.xcRcv t) := rfl
theorem Spelled.xcSync (t : Trig) : Spelled.Statement (.xcSync t) := rfl
theorem Spelled.qCfg (t : Trig) : Spelled.Statement (.qCfg t) := rfl
theorem Spelled.qClr (t : Trig) : Spelled.Statement (.qClr t) := rfl
theorem Spelled.qCnt (t : Trig) : Spelled.Statement (.qCnt t) := rfl
theorem Spelled.qLink (t : Trig) : Spelled.Statement (.qLink t) := rfl
theorem Spelled.zSet (t : Trig) : Spelled.Statement (.zSet t) := rfl
theorem Spelled.zRst (t : Trig) : Spelled.Statement (.zRst t) := rfl
theorem Spelled.zPos (t : Trig) : Spelled.Statement (.zPos t) := rfl
theorem Spelled.panMerge (t : Trig) : Spelled.Statement (.panMerge t) := rfl
theorem Spelled.panRand (t : Trig) : Spelled.Statement (.panRand t) := rfl
theorem Spelled.panCtr (t : Trig) : Spelled.Statement (.panCtr t) := rfl
theorem Spelled.panClrf (t : Trig) : Spelled.Statement (.panClrf t) := rfl
theorem Spelled.verCfg (t : Trig) : Spelled.Statement (.verCfg t) := rfl
theorem Spelled.verCand (t : Trig) : Spelled.Statement (.verCand t) := rfl
theorem Spelled.verChk (t : Trig) : Spelled.Statement (.verChk t) := rfl
theorem Spelled.verFin (t : Trig) : Spelled.Statement (.verFin t) := rfl
theorem Spelled.verSetf (t : Trig) : Spelled.Statement (.verSetf t) := rfl
theorem Spelled.verStop (t : Trig) : Spelled.Statement (.verStop t) := rfl
theorem Spelled.sysHalt (t : Trig) : Spelled.Statement (.sysHalt t) := rfl
theorem Spelled.sysTret (t : Trig) : Spelled.Statement (.sysTret t) := rfl
theorem Spelled.sysIfence (t : Trig) : Spelled.Statement (.sysIfence t) := rfl
theorem Spelled.sysTrap (t : Trig) : Spelled.Statement (.sysTrap t) := rfl
theorem Spelled.sysBrk (t : Trig) : Spelled.Statement (.sysBrk t) := rfl
theorem Spelled.sysTmark (t : Trig) : Spelled.Statement (.sysTmark t) := rfl
theorem Spelled.sysTarm (t : Trig) : Spelled.Statement (.sysTarm t) := rfl
theorem Spelled.sysTfrz (t : Trig) : Spelled.Statement (.sysTfrz t) := rfl
theorem Spelled.sysTmrs (t : Trig) : Spelled.Statement (.sysTmrs t) := rfl
theorem Spelled.sysTmrc (t : Trig) : Spelled.Statement (.sysTmrc t) := rfl
theorem Spelled.sysYield (t : Trig) : Spelled.Statement (.sysYield t) := rfl
theorem Spelled.sysSeed (t : Trig) : Spelled.Statement (.sysSeed t) := rfl
theorem Spelled.sysDi (t : Trig) : Spelled.Statement (.sysDi t) := rfl
theorem Spelled.sysEi (t : Trig) : Spelled.Statement (.sysEi t) := rfl
theorem Spelled.vxMov (w : VWord) : Spelled.Statement (.vxMov w) := rfl
theorem Spelled.vxAdd (w : VWord) : Spelled.Statement (.vxAdd w) := rfl
theorem Spelled.vxSub (w : VWord) : Spelled.Statement (.vxSub w) := rfl
theorem Spelled.vxMul (w : VWord) : Spelled.Statement (.vxMul w) := rfl
theorem Spelled.vxMulz (w : VWord) : Spelled.Statement (.vxMulz w) := rfl
theorem Spelled.vxDiv (w : VWord) : Spelled.Statement (.vxDiv w) := rfl
theorem Spelled.vxMin (w : VWord) : Spelled.Statement (.vxMin w) := rfl
theorem Spelled.vxMax (w : VWord) : Spelled.Statement (.vxMax w) := rfl
theorem Spelled.vxAbs (w : VWord) : Spelled.Statement (.vxAbs w) := rfl
theorem Spelled.vxNeg (w : VWord) : Spelled.Statement (.vxNeg w) := rfl
theorem Spelled.vxAnd (w : VWord) : Spelled.Statement (.vxAnd w) := rfl
theorem Spelled.vxOr (w : VWord) : Spelled.Statement (.vxOr w) := rfl
theorem Spelled.vxXor (w : VWord) : Spelled.Statement (.vxXor w) := rfl
theorem Spelled.vxShl (w : VWord) : Spelled.Statement (.vxShl w) := rfl
theorem Spelled.vxShr (w : VWord) : Spelled.Statement (.vxShr w) := rfl
theorem Spelled.vxSar (w : VWord) : Spelled.Statement (.vxSar w) := rfl
theorem Spelled.vxFma (w : VWord) : Spelled.Statement (.vxFma w) := rfl
theorem Spelled.vxFms (w : VWord) : Spelled.Statement (.vxFms w) := rfl
theorem Spelled.vxFnma (w : VWord) : Spelled.Statement (.vxFnma w) := rfl
theorem Spelled.vxSel (w : VWord) : Spelled.Statement (.vxSel w) := rfl
theorem Spelled.vxCeq (w : VWord) : Spelled.Statement (.vxCeq w) := rfl
theorem Spelled.vxCne (w : VWord) : Spelled.Statement (.vxCne w) := rfl
theorem Spelled.vxClt (w : VWord) : Spelled.Statement (.vxClt w) := rfl
theorem Spelled.vxCle (w : VWord) : Spelled.Statement (.vxCle w) := rfl
theorem Spelled.vxCnan (w : VWord) : Spelled.Statement (.vxCnan w) := rfl
theorem Spelled.vxMget (w : VWord) : Spelled.Statement (.vxMget w) := rfl
theorem Spelled.vxMput (w : VWord) : Spelled.Statement (.vxMput w) := rfl
theorem Spelled.vxMcnt (w : VWord) : Spelled.Statement (.vxMcnt w) := rfl
theorem Spelled.vxExp2 (w : VWord) : Spelled.Statement (.vxExp2 w) := rfl
theorem Spelled.vxLog2 (w : VWord) : Spelled.Statement (.vxLog2 w) := rfl
theorem Spelled.vxRcp (w : VWord) : Spelled.Statement (.vxRcp w) := rfl
theorem Spelled.vxRsqrt (w : VWord) : Spelled.Statement (.vxRsqrt w) := rfl
theorem Spelled.vxSqrt (w : VWord) : Spelled.Statement (.vxSqrt w) := rfl
theorem Spelled.vxExp (w : VWord) : Spelled.Statement (.vxExp w) := rfl
theorem Spelled.vxTanh (w : VWord) : Spelled.Statement (.vxTanh w) := rfl
theorem Spelled.vxSigm (w : VWord) : Spelled.Statement (.vxSigm w) := rfl
theorem Spelled.vxSilu (w : VWord) : Spelled.Statement (.vxSilu w) := rfl
theorem Spelled.vxGelu (w : VWord) : Spelled.Statement (.vxGelu w) := rfl
theorem Spelled.vxSin (w : VWord) : Spelled.Statement (.vxSin w) := rfl
theorem Spelled.vxCos (w : VWord) : Spelled.Statement (.vxCos w) := rfl
theorem Spelled.vxRsum (w : VWord) : Spelled.Statement (.vxRsum w) := rfl
theorem Spelled.vxRmax (w : VWord) : Spelled.Statement (.vxRmax w) := rfl
theorem Spelled.vxRmin (w : VWord) : Spelled.Statement (.vxRmin w) := rfl
theorem Spelled.vxRmaxi (w : VWord) : Spelled.Statement (.vxRmaxi w) := rfl
theorem Spelled.vxScan (w : VWord) : Spelled.Statement (.vxScan w) := rfl
theorem Spelled.vxTrn (w : VWord) : Spelled.Statement (.vxTrn w) := rfl
theorem Spelled.vxGth (w : VWord) : Spelled.Statement (.vxGth w) := rfl
theorem Spelled.vxSct (w : VWord) : Spelled.Statement (.vxSct w) := rfl
theorem Spelled.vxDot (w : VWord) : Spelled.Statement (.vxDot w) := rfl
theorem Spelled.vxCvt (w : VWord) : Spelled.Statement (.vxCvt w) := rfl
theorem Spelled.vxBndLip (w : VWord) : Spelled.Statement (.vxBndLip w) := rfl
theorem Spelled.vxBndCvt (w : VWord) : Spelled.Statement (.vxBndCvt w) := rfl
theorem Spelled.vxBndAdd (w : VWord) : Spelled.Statement (.vxBndAdd w) := rfl
theorem Spelled.vxShape (w : VWord) : Spelled.Statement (.vxShape w) := rfl
theorem Spelled.vxClamp (w : VWord) : Spelled.Statement (.vxClamp w) := rfl
theorem Spelled.mxStep (w : MxWord) : Spelled.Statement (.mxStep w) := rfl
theorem Spelled.mxRes (w : MxWord) : Spelled.Statement (.mxRes w) := rfl
theorem Spelled.mxZero (w : MxWord) : Spelled.Statement (.mxZero w) := rfl
theorem Spelled.mxDrain (w : MxWord) : Spelled.Statement (.mxDrain w) := rfl
theorem Spelled.mxAssay (w : MxWord) : Spelled.Statement (.mxAssay w) := rfl
theorem Spelled.mxCurGet (w : MxWord) : Spelled.Statement (.mxCurGet w) := rfl
theorem Spelled.mxCurSet (w : MxWord) : Spelled.Statement (.mxCurSet w) := rfl
theorem Spelled.mxBias (w : MxWord) : Spelled.Statement (.mxBias w) := rfl
theorem Spelled.mxSurvey (w : MxWord) : Spelled.Statement (.mxSurvey w) := rfl
theorem Spelled.mxLoad (w : MxWord) : Spelled.Statement (.mxLoad w) := rfl
theorem Spelled.mxAset (w : MxWord) : Spelled.Statement (.mxAset w) := rfl
theorem Spelled.mxMark (w : MxWord) : Spelled.Statement (.mxMark w) := rfl
theorem Spelled.panDraw (w : PanWord) : Spelled.Statement (.panDraw w) := rfl
theorem Spelled.panShort (w : PanWord) : Spelled.Statement (.panShort w) := rfl
theorem Spelled.panPen (w : PanWord) : Spelled.Statement (.panPen w) := rfl
theorem Spelled.panBias (w : PanWord) : Spelled.Statement (.panBias w) := rfl
theorem Spelled.panScale (w : PanWord) : Spelled.Statement (.panScale w) := rfl
theorem Spelled.panFull (w : PanWord) : Spelled.Statement (.panFull w) := rfl
theorem Spelled.panLse (w : PanWord) : Spelled.Statement (.panLse w) := rfl
theorem Spelled.wzCopy (w : WzWord) : Spelled.Statement (.wzCopy w) := rfl
theorem Spelled.wzCopyk (w : WzWord) : Spelled.Statement (.wzCopyk w) := rfl
theorem Spelled.wzFill (w : WzWord) : Spelled.Statement (.wzFill w) := rfl
theorem Spelled.wzGat2 (w : WzWord) : Spelled.Statement (.wzGat2 w) := rfl
theorem Spelled.wzSct2 (w : WzWord) : Spelled.Statement (.wzSct2 w) := rfl
theorem Spelled.wzGat4 (w : WzWord) : Spelled.Statement (.wzGat4 w) := rfl
theorem Spelled.wzSct4 (w : WzWord) : Spelled.Statement (.wzSct4 w) := rfl
theorem Spelled.wzExpd (w : WzWord) : Spelled.Statement (.wzExpd w) := rfl
theorem Spelled.wzPack (w : WzWord) : Spelled.Statement (.wzPack w) := rfl
theorem Spelled.wzRcopy (w : WzWord) : Spelled.Statement (.wzRcopy w) := rfl
theorem Spelled.wzMark (w : WzWord) : Spelled.Statement (.wzMark w) := rfl
theorem Spelled.mainPowerApplied : Spelled.Statement .mainPowerApplied := ⟨rfl, rfl⟩
theorem Spelled.hostReset : Spelled.Statement .hostReset := ⟨rfl, rfl⟩
theorem Spelled.pllLockTimeout : Spelled.Statement .pllLockTimeout := ⟨rfl, rfl⟩
theorem Spelled.firmwareUpdate : Spelled.Statement .firmwareUpdate := ⟨rfl, rfl⟩
theorem Spelled.thermalPreempt : Spelled.Statement .thermalPreempt := ⟨rfl, rfl⟩
theorem Spelled.thermalRecover : Spelled.Statement .thermalRecover := ⟨rfl, rfl⟩
theorem Spelled.thermalTrip : Spelled.Statement .thermalTrip := ⟨rfl, rfl⟩
theorem Spelled.thermalTripRecordRead : Spelled.Statement .thermalTripRecordRead := ⟨rfl, rfl⟩
theorem Spelled.attestationRequest : Spelled.Statement .attestationRequest := ⟨rfl, rfl⟩
theorem Spelled.dieLinkLoss : Spelled.Statement .dieLinkLoss := ⟨rfl, rfl⟩
theorem Spelled.dieLinkRetrainRequest : Spelled.Statement .dieLinkRetrainRequest := ⟨rfl, rfl⟩
theorem Spelled.dieLinkRetrain : Spelled.Statement .dieLinkRetrain := ⟨rfl, rfl⟩
theorem Spelled.queueCreate : Spelled.Statement .queueCreate := ⟨rfl, rfl⟩
theorem Spelled.queueDestroy : Spelled.Statement .queueDestroy := ⟨rfl, rfl⟩
theorem Spelled.doorbellWrite : Spelled.Statement .doorbellWrite := ⟨rfl, rfl⟩
theorem Spelled.submissionTake : Spelled.Statement .submissionTake := ⟨rfl, rfl⟩
theorem Spelled.killWrite : Spelled.Statement .killWrite := ⟨rfl, rfl⟩
theorem Spelled.killackWrite : Spelled.Statement .killackWrite := ⟨rfl, rfl⟩
theorem Spelled.injectWrite : Spelled.Statement .injectWrite := ⟨rfl, rfl⟩
theorem Spelled.bar0RegisterWrite : Spelled.Statement .bar0RegisterWrite := ⟨rfl, rfl⟩
theorem Spelled.sliceBoundary : Spelled.Statement .sliceBoundary := ⟨rfl, rfl⟩
theorem Spelled.escalationWindowExpiry : Spelled.Statement .escalationWindowExpiry := ⟨rfl, rfl⟩
theorem Spelled.saveComplete : Spelled.Statement .saveComplete := ⟨rfl, rfl⟩
theorem Spelled.bind : Spelled.Statement .bind := ⟨rfl, rfl⟩
theorem Spelled.teamStart : Spelled.Statement .teamStart := ⟨rfl, rfl⟩
theorem Spelled.gangAgreement : Spelled.Statement .gangAgreement := ⟨rfl, rfl⟩
theorem Spelled.gangAgreementTimeout : Spelled.Statement .gangAgreementTimeout := ⟨rfl, rfl⟩
theorem Spelled.teamRetirement : Spelled.Statement .teamRetirement := ⟨rfl, rfl⟩
theorem Spelled.completionRecordWrite : Spelled.Statement .completionRecordWrite := ⟨rfl, rfl⟩
theorem Spelled.bundleIssue : Spelled.Statement .bundleIssue := ⟨rfl, rfl⟩
theorem Spelled.holdEnd : Spelled.Statement .holdEnd := ⟨rfl, rfl⟩
theorem Spelled.canaryExpiry : Spelled.Statement .canaryExpiry := ⟨rfl, rfl⟩
theorem Spelled.memoryReplyArrival : Spelled.Statement .memoryReplyArrival := ⟨rfl, rfl⟩
theorem Spelled.resultCompletion : Spelled.Statement .resultCompletion := ⟨rfl, rfl⟩
theorem Spelled.xcArrival : Spelled.Statement .xcArrival := ⟨rfl, rfl⟩
theorem Spelled.trapEntry : Spelled.Statement .trapEntry := ⟨rfl, rfl⟩
theorem Spelled.timerFire : Spelled.Statement .timerFire := ⟨rfl, rfl⟩
theorem Spelled.accessLeave : Spelled.Statement .accessLeave := ⟨rfl, rfl⟩
theorem Spelled.accessAdvance : Spelled.Statement .accessAdvance := ⟨rfl, rfl⟩
theorem Spelled.accessPerform : Spelled.Statement .accessPerform := ⟨rfl, rfl⟩
theorem Spelled.engineCommandStart : Spelled.Statement .engineCommandStart := ⟨rfl, rfl⟩
theorem Spelled.engineCommandComplete : Spelled.Statement .engineCommandComplete := ⟨rfl, rfl⟩
theorem Spelled.remoteCopyPayload : Spelled.Statement .remoteCopyPayload := ⟨rfl, rfl⟩
theorem Spelled.linkFlitReceive : Spelled.Statement .linkFlitReceive := ⟨rfl, rfl⟩
theorem Spelled.linkAckTimeout : Spelled.Statement .linkAckTimeout := ⟨rfl, rfl⟩
theorem Spelled.timingMessage : Spelled.Statement .timingMessage := ⟨rfl, rfl⟩
theorem Spelled.dccSynchronised : Spelled.Statement .dccSynchronised := ⟨rfl, rfl⟩
theorem Spelled.pageReply : Spelled.Statement .pageReply := ⟨rfl, rfl⟩
theorem Spelled.priResponse : Spelled.Statement .priResponse := ⟨rfl, rfl⟩
theorem Spelled.priRequestSend : Spelled.Statement .priRequestSend := ⟨rfl, rfl⟩
theorem Spelled.pageRequestTimeout : Spelled.Statement .pageRequestTimeout := ⟨rfl, rfl⟩
theorem Spelled.pageTableChange : Spelled.Statement .pageTableChange := ⟨rfl, rfl⟩
theorem Spelled.migrationStart : Spelled.Statement .migrationStart := ⟨rfl, rfl⟩
theorem Spelled.firebossRead : Spelled.Statement .firebossRead := ⟨rfl, rfl⟩
theorem Spelled.firebossWrite : Spelled.Statement .firebossWrite := ⟨rfl, rfl⟩
theorem Spelled.collectiveDescriptorTake : Spelled.Statement .collectiveDescriptorTake := ⟨rfl, rfl⟩
theorem Spelled.collectiveMessage : Spelled.Statement .collectiveMessage := ⟨rfl, rfl⟩
theorem Spelled.quorumClose : Spelled.Statement .quorumClose := ⟨rfl, rfl⟩
theorem Spelled.sessionSetup : Spelled.Statement .sessionSetup := ⟨rfl, rfl⟩
theorem Spelled.sessionRekey : Spelled.Statement .sessionRekey := ⟨rfl, rfl⟩
theorem Spelled.sessionFrameReceive : Spelled.Statement .sessionFrameReceive := ⟨rfl, rfl⟩
theorem Spelled.mainPowerRemoved : Spelled.Statement .mainPowerRemoved := ⟨rfl, rfl⟩
theorem Spelled.debuggerResume : Spelled.Statement .debuggerResume := ⟨rfl, rfl⟩
theorem Spelled.pageRequestRouteSelect : Spelled.Statement .pageRequestRouteSelect := ⟨rfl, rfl⟩
theorem Spelled.allowListInstall : Spelled.Statement .allowListInstall := ⟨rfl, rfl⟩
theorem Spelled.collectiveRingMap : Spelled.Statement .collectiveRingMap := ⟨rfl, rfl⟩

/-- Every instruction has its fact. -/
theorem spelled (i : Instr) : Spelled.Statement i := by
  cases i with
  | move du ds t => exact Spelled.move du ds t
  | sflagWrite t => exact Spelled.sflagWrite t
  | iaAdd u t => exact Spelled.iaAdd u t
  | iaSub u t => exact Spelled.iaSub u t
  | iaAdds u t => exact Spelled.iaAdds u t
  | iaSubs u t => exact Spelled.iaSubs u t
  | iaAddus u t => exact Spelled.iaAddus u t
  | iaSubus u t => exact Spelled.iaSubus u t
  | iaMin u t => exact Spelled.iaMin u t
  | iaMax u t => exact Spelled.iaMax u t
  | iaMinu u t => exact Spelled.iaMinu u t
  | iaMaxu u t => exact Spelled.iaMaxu u t
  | iaAnd u t => exact Spelled.iaAnd u t
  | iaOr u t => exact Spelled.iaOr u t
  | iaXor u t => exact Spelled.iaXor u t
  | iaShl u t => exact Spelled.iaShl u t
  | iaShr u t => exact Spelled.iaShr u t
  | iaSar u t => exact Spelled.iaSar u t
  | iaRotl u t => exact Spelled.iaRotl u t
  | iaClz u t => exact Spelled.iaClz u t
  | iaCtz u t => exact Spelled.iaCtz u t
  | iaPopc u t => exact Spelled.iaPopc u t
  | iaExt u t => exact Spelled.iaExt u t
  | iaExtu u t => exact Spelled.iaExtu u t
  | iaIns u t => exact Spelled.iaIns u t
  | iaCeq u t => exact Spelled.iaCeq u t
  | iaCne u t => exact Spelled.iaCne u t
  | iaClt u t => exact Spelled.iaClt u t
  | iaCle u t => exact Spelled.iaCle u t
  | iaCltu u t => exact Spelled.iaCltu u t
  | iaCleu u t => exact Spelled.iaCleu u t
  | iaMul u t => exact Spelled.iaMul u t
  | iaMulh u t => exact Spelled.iaMulh u t
  | iaMulhu u t => exact Spelled.iaMulhu u t
  | iaDiv u t => exact Spelled.iaDiv u t
  | iaDivu u t => exact Spelled.iaDivu u t
  | iaRem u t => exact Spelled.iaRem u t
  | iaRemu u t => exact Spelled.iaRemu u t
  | agAdd u t => exact Spelled.agAdd u t
  | agSub u t => exact Spelled.agSub u t
  | agAddx u t => exact Spelled.agAddx u t
  | agAnd u t => exact Spelled.agAnd u t
  | agLtu u t => exact Spelled.agLtu u t
  | agBnd u t => exact Spelled.agBnd u t
  | agKv u t => exact Spelled.agKv u t
  | agKvmax u t => exact Spelled.agKvmax u t
  | agKvlen u t => exact Spelled.agKvlen u t
  | agKvget u t => exact Spelled.agKvget u t
  | ctlPbr t => exact Spelled.ctlPbr t
  | ctlBr t => exact Spelled.ctlBr t
  | ctlCall t => exact Spelled.ctlCall t
  | ctlRet t => exact Spelled.ctlRet t
  | ctlLoop t => exact Spelled.ctlLoop t
  | ctlJt t => exact Spelled.ctlJt t
  | ctlTwait t => exact Spelled.ctlTwait t
  | ctlTpoll t => exact Spelled.ctlTpoll t
  | ctlSkip t => exact Spelled.ctlSkip t
  | ctlLbrk t => exact Spelled.ctlLbrk t
  | ctlPand t => exact Spelled.ctlPand t
  | ctlPor t => exact Spelled.ctlPor t
  | ctlPxor t => exact Spelled.ctlPxor t
  | lsLd w t => exact Spelled.lsLd w t
  | lsLdn w t => exact Spelled.lsLdn w t
  | lsLdf w t => exact Spelled.lsLdf w t
  | lsLdh w t => exact Spelled.lsLdh w t
  | lsSt w t => exact Spelled.lsSt w t
  | lsStn w t => exact Spelled.lsStn w t
  | lsStf w t => exact Spelled.lsStf w t
  | lsSth w t => exact Spelled.lsSth w t
  | lsVld t => exact Spelled.lsVld t
  | lsVst t => exact Spelled.lsVst t
  | lsVldh t => exact Spelled.lsVldh t
  | lsVsth t => exact Spelled.lsVsth t
  | lsXlat t => exact Spelled.lsXlat t
  | lsPreq t => exact Spelled.lsPreq t
  | lsMeta t => exact Spelled.lsMeta t
  | lsSetmeta t => exact Spelled.lsSetmeta t
  | lsLdd t => exact Spelled.lsLdd t
  | lsStd t => exact Spelled.lsStd t
  | lsFence t => exact Spelled.lsFence t
  | lsPst t => exact Spelled.lsPst t
  | gaAdd t => exact Spelled.gaAdd t
  | gaAnd t => exact Spelled.gaAnd t
  | gaOr t => exact Spelled.gaOr t
  | gaXor t => exact Spelled.gaXor t
  | gaMaxs t => exact Spelled.gaMaxs t
  | gaMins t => exact Spelled.gaMins t
  | gaSwap t => exact Spelled.gaSwap t
  | gaCas t => exact Spelled.gaCas t
  | gaFadd t => exact Spelled.gaFadd t
  | gaFmax t => exact Spelled.gaFmax t
  | gaMdraw t => exact Spelled.gaMdraw t
  | gaBar t => exact Spelled.gaBar t
  | gaAddFar t => exact Spelled.gaAddFar t
  | gaAndFar t => exact Spelled.gaAndFar t
  | gaOrFar t => exact Spelled.gaOrFar t
  | gaXorFar t => exact Spelled.gaXorFar t
  | gaMaxsFar t => exact Spelled.gaMaxsFar t
  | gaMinsFar t => exact Spelled.gaMinsFar t
  | gaSwapFar t => exact Spelled.gaSwapFar t
  | gaCasFar t => exact Spelled.gaCasFar t
  | gaFaddFar t => exact Spelled.gaFaddFar t
  | gaFmaxFar t => exact Spelled.gaFmaxFar t
  | gaMdrawFar t => exact Spelled.gaMdrawFar t
  | gaBarFar t => exact Spelled.gaBarFar t
  | xcSnd t => exact Spelled.xcSnd t
  | xcBcs t => exact Spelled.xcBcs t
  | xcRcv t => exact Spelled.xcRcv t
  | xcSync t => exact Spelled.xcSync t
  | qCfg t => exact Spelled.qCfg t
  | qClr t => exact Spelled.qClr t
  | qCnt t => exact Spelled.qCnt t
  | qLink t => exact Spelled.qLink t
  | zSet t => exact Spelled.zSet t
  | zRst t => exact Spelled.zRst t
  | zPos t => exact Spelled.zPos t
  | panMerge t => exact Spelled.panMerge t
  | panRand t => exact Spelled.panRand t
  | panCtr t => exact Spelled.panCtr t
  | panClrf t => exact Spelled.panClrf t
  | verCfg t => exact Spelled.verCfg t
  | verCand t => exact Spelled.verCand t
  | verChk t => exact Spelled.verChk t
  | verFin t => exact Spelled.verFin t
  | verSetf t => exact Spelled.verSetf t
  | verStop t => exact Spelled.verStop t
  | sysHalt t => exact Spelled.sysHalt t
  | sysTret t => exact Spelled.sysTret t
  | sysIfence t => exact Spelled.sysIfence t
  | sysTrap t => exact Spelled.sysTrap t
  | sysBrk t => exact Spelled.sysBrk t
  | sysTmark t => exact Spelled.sysTmark t
  | sysTarm t => exact Spelled.sysTarm t
  | sysTfrz t => exact Spelled.sysTfrz t
  | sysTmrs t => exact Spelled.sysTmrs t
  | sysTmrc t => exact Spelled.sysTmrc t
  | sysYield t => exact Spelled.sysYield t
  | sysSeed t => exact Spelled.sysSeed t
  | sysDi t => exact Spelled.sysDi t
  | sysEi t => exact Spelled.sysEi t
  | vxMov w => exact Spelled.vxMov w
  | vxAdd w => exact Spelled.vxAdd w
  | vxSub w => exact Spelled.vxSub w
  | vxMul w => exact Spelled.vxMul w
  | vxMulz w => exact Spelled.vxMulz w
  | vxDiv w => exact Spelled.vxDiv w
  | vxMin w => exact Spelled.vxMin w
  | vxMax w => exact Spelled.vxMax w
  | vxAbs w => exact Spelled.vxAbs w
  | vxNeg w => exact Spelled.vxNeg w
  | vxAnd w => exact Spelled.vxAnd w
  | vxOr w => exact Spelled.vxOr w
  | vxXor w => exact Spelled.vxXor w
  | vxShl w => exact Spelled.vxShl w
  | vxShr w => exact Spelled.vxShr w
  | vxSar w => exact Spelled.vxSar w
  | vxFma w => exact Spelled.vxFma w
  | vxFms w => exact Spelled.vxFms w
  | vxFnma w => exact Spelled.vxFnma w
  | vxSel w => exact Spelled.vxSel w
  | vxCeq w => exact Spelled.vxCeq w
  | vxCne w => exact Spelled.vxCne w
  | vxClt w => exact Spelled.vxClt w
  | vxCle w => exact Spelled.vxCle w
  | vxCnan w => exact Spelled.vxCnan w
  | vxMget w => exact Spelled.vxMget w
  | vxMput w => exact Spelled.vxMput w
  | vxMcnt w => exact Spelled.vxMcnt w
  | vxExp2 w => exact Spelled.vxExp2 w
  | vxLog2 w => exact Spelled.vxLog2 w
  | vxRcp w => exact Spelled.vxRcp w
  | vxRsqrt w => exact Spelled.vxRsqrt w
  | vxSqrt w => exact Spelled.vxSqrt w
  | vxExp w => exact Spelled.vxExp w
  | vxTanh w => exact Spelled.vxTanh w
  | vxSigm w => exact Spelled.vxSigm w
  | vxSilu w => exact Spelled.vxSilu w
  | vxGelu w => exact Spelled.vxGelu w
  | vxSin w => exact Spelled.vxSin w
  | vxCos w => exact Spelled.vxCos w
  | vxRsum w => exact Spelled.vxRsum w
  | vxRmax w => exact Spelled.vxRmax w
  | vxRmin w => exact Spelled.vxRmin w
  | vxRmaxi w => exact Spelled.vxRmaxi w
  | vxScan w => exact Spelled.vxScan w
  | vxTrn w => exact Spelled.vxTrn w
  | vxGth w => exact Spelled.vxGth w
  | vxSct w => exact Spelled.vxSct w
  | vxDot w => exact Spelled.vxDot w
  | vxCvt w => exact Spelled.vxCvt w
  | vxBndLip w => exact Spelled.vxBndLip w
  | vxBndCvt w => exact Spelled.vxBndCvt w
  | vxBndAdd w => exact Spelled.vxBndAdd w
  | vxShape w => exact Spelled.vxShape w
  | vxClamp w => exact Spelled.vxClamp w
  | mxStep w => exact Spelled.mxStep w
  | mxRes w => exact Spelled.mxRes w
  | mxZero w => exact Spelled.mxZero w
  | mxDrain w => exact Spelled.mxDrain w
  | mxAssay w => exact Spelled.mxAssay w
  | mxCurGet w => exact Spelled.mxCurGet w
  | mxCurSet w => exact Spelled.mxCurSet w
  | mxBias w => exact Spelled.mxBias w
  | mxSurvey w => exact Spelled.mxSurvey w
  | mxLoad w => exact Spelled.mxLoad w
  | mxAset w => exact Spelled.mxAset w
  | mxMark w => exact Spelled.mxMark w
  | panDraw w => exact Spelled.panDraw w
  | panShort w => exact Spelled.panShort w
  | panPen w => exact Spelled.panPen w
  | panBias w => exact Spelled.panBias w
  | panScale w => exact Spelled.panScale w
  | panFull w => exact Spelled.panFull w
  | panLse w => exact Spelled.panLse w
  | wzCopy w => exact Spelled.wzCopy w
  | wzCopyk w => exact Spelled.wzCopyk w
  | wzFill w => exact Spelled.wzFill w
  | wzGat2 w => exact Spelled.wzGat2 w
  | wzSct2 w => exact Spelled.wzSct2 w
  | wzGat4 w => exact Spelled.wzGat4 w
  | wzSct4 w => exact Spelled.wzSct4 w
  | wzExpd w => exact Spelled.wzExpd w
  | wzPack w => exact Spelled.wzPack w
  | wzRcopy w => exact Spelled.wzRcopy w
  | wzMark w => exact Spelled.wzMark w
  | mainPowerApplied => exact Spelled.mainPowerApplied
  | hostReset => exact Spelled.hostReset
  | pllLockTimeout => exact Spelled.pllLockTimeout
  | firmwareUpdate => exact Spelled.firmwareUpdate
  | thermalPreempt => exact Spelled.thermalPreempt
  | thermalRecover => exact Spelled.thermalRecover
  | thermalTrip => exact Spelled.thermalTrip
  | thermalTripRecordRead => exact Spelled.thermalTripRecordRead
  | attestationRequest => exact Spelled.attestationRequest
  | dieLinkLoss => exact Spelled.dieLinkLoss
  | dieLinkRetrainRequest => exact Spelled.dieLinkRetrainRequest
  | dieLinkRetrain => exact Spelled.dieLinkRetrain
  | queueCreate => exact Spelled.queueCreate
  | queueDestroy => exact Spelled.queueDestroy
  | doorbellWrite => exact Spelled.doorbellWrite
  | submissionTake => exact Spelled.submissionTake
  | killWrite => exact Spelled.killWrite
  | killackWrite => exact Spelled.killackWrite
  | injectWrite => exact Spelled.injectWrite
  | bar0RegisterWrite => exact Spelled.bar0RegisterWrite
  | sliceBoundary => exact Spelled.sliceBoundary
  | escalationWindowExpiry => exact Spelled.escalationWindowExpiry
  | saveComplete => exact Spelled.saveComplete
  | bind => exact Spelled.bind
  | teamStart => exact Spelled.teamStart
  | gangAgreement => exact Spelled.gangAgreement
  | gangAgreementTimeout => exact Spelled.gangAgreementTimeout
  | teamRetirement => exact Spelled.teamRetirement
  | completionRecordWrite => exact Spelled.completionRecordWrite
  | bundleIssue => exact Spelled.bundleIssue
  | holdEnd => exact Spelled.holdEnd
  | canaryExpiry => exact Spelled.canaryExpiry
  | memoryReplyArrival => exact Spelled.memoryReplyArrival
  | resultCompletion => exact Spelled.resultCompletion
  | xcArrival => exact Spelled.xcArrival
  | trapEntry => exact Spelled.trapEntry
  | timerFire => exact Spelled.timerFire
  | accessLeave => exact Spelled.accessLeave
  | accessAdvance => exact Spelled.accessAdvance
  | accessPerform => exact Spelled.accessPerform
  | engineCommandStart => exact Spelled.engineCommandStart
  | engineCommandComplete => exact Spelled.engineCommandComplete
  | remoteCopyPayload => exact Spelled.remoteCopyPayload
  | linkFlitReceive => exact Spelled.linkFlitReceive
  | linkAckTimeout => exact Spelled.linkAckTimeout
  | timingMessage => exact Spelled.timingMessage
  | dccSynchronised => exact Spelled.dccSynchronised
  | pageReply => exact Spelled.pageReply
  | priResponse => exact Spelled.priResponse
  | priRequestSend => exact Spelled.priRequestSend
  | pageRequestTimeout => exact Spelled.pageRequestTimeout
  | pageTableChange => exact Spelled.pageTableChange
  | migrationStart => exact Spelled.migrationStart
  | firebossRead => exact Spelled.firebossRead
  | firebossWrite => exact Spelled.firebossWrite
  | collectiveDescriptorTake => exact Spelled.collectiveDescriptorTake
  | collectiveMessage => exact Spelled.collectiveMessage
  | quorumClose => exact Spelled.quorumClose
  | sessionSetup => exact Spelled.sessionSetup
  | sessionRekey => exact Spelled.sessionRekey
  | sessionFrameReceive => exact Spelled.sessionFrameReceive
  | mainPowerRemoved => exact Spelled.mainPowerRemoved
  | debuggerResume => exact Spelled.debuggerResume
  | pageRequestRouteSelect => exact Spelled.pageRequestRouteSelect
  | allowListInstall => exact Spelled.allowListInstall
  | collectiveRingMap => exact Spelled.collectiveRingMap

end Sys2Proof.Laws
end

