-- ==== Sys2Proof/Laws/State.lean ====
section
/-!
SUPPORT. What an update of the state leaves as it stands, field by field, and what reading after an update gives.
-/
namespace Sys2Proof.Machine

open Sys2Proof

/-! ## The module's fields under a change of one cluster, of the issuing cluster and of the issuing stream -/

@[simp] theorem updCluster_agenda (s : State) (k : Nat) (g : Cluster → Cluster) : (s.updCluster k g).agenda = s.agenda := rfl
@[simp] theorem updCluster_inp (s : State) (k : Nat) (g : Cluster → Cluster) : (s.updCluster k g).inp = s.inp := rfl
@[simp] theorem updCluster_bad (s : State) (k : Nat) (g : Cluster → Cluster) : (s.updCluster k g).bad = s.bad := rfl
@[simp] theorem updCluster_cur (s : State) (k : Nat) (g : Cluster → Cluster) : (s.updCluster k g).cur = s.cur := rfl
@[simp] theorem updCluster_freeCtr (s : State) (k : Nat) (g : Cluster → Cluster) : (s.updCluster k g).freeCtr = s.freeCtr := rfl
@[simp] theorem updCluster_dcc (s : State) (k : Nat) (g : Cluster → Cluster) : (s.updCluster k g).dcc = s.dcc := rfl
@[simp] theorem updCluster_gal (s : State) (k : Nat) (g : Cluster → Cluster) : (s.updCluster k g).gal = s.gal := rfl
@[simp] theorem updCluster_bankCtr (s : State) (k : Nat) (g : Cluster → Cluster) : (s.updCluster k g).bankCtr = s.bankCtr := rfl
@[simp] theorem updCluster_dram (s : State) (k : Nat) (g : Cluster → Cluster) : (s.updCluster k g).dram = s.dram := rfl
@[simp] theorem updCluster_acc (s : State) (k : Nat) (g : Cluster → Cluster) : (s.updCluster k g).acc = s.acc := rfl
@[simp] theorem updCluster_nextAcc (s : State) (k : Nat) (g : Cluster → Cluster) : (s.updCluster k g).nextAcc = s.nextAcc := rfl
@[simp] theorem updCluster_replies (s : State) (k : Nat) (g : Cluster → Cluster) : (s.updCluster k g).replies = s.replies := rfl
@[simp] theorem updCluster_errs (s : State) (k : Nat) (g : Cluster → Cluster) : (s.updCluster k g).errs = s.errs := rfl
@[simp] theorem updCluster_fire (s : State) (k : Nat) (g : Cluster → Cluster) : (s.updCluster k g).fire = s.fire := rfl
@[simp] theorem updCluster_host (s : State) (k : Nat) (g : Cluster → Cluster) : (s.updCluster k g).host = s.host := rfl
@[simp] theorem updCluster_pages (s : State) (k : Nat) (g : Cluster → Cluster) : (s.updCluster k g).pages = s.pages := rfl
@[simp] theorem updCluster_boss (s : State) (k : Nat) (g : Cluster → Cluster) : (s.updCluster k g).boss = s.boss := rfl
@[simp] theorem updCluster_links (s : State) (k : Nat) (g : Cluster → Cluster) : (s.updCluster k g).links = s.links := rfl
@[simp] theorem updCluster_rings (s : State) (k : Nat) (g : Cluster → Cluster) : (s.updCluster k g).rings = s.rings := rfl
@[simp] theorem updCluster_sessions (s : State) (k : Nat) (g : Cluster → Cluster) : (s.updCluster k g).sessions = s.sessions := rfl
@[simp] theorem updCluster_allow (s : State) (k : Nat) (g : Cluster → Cluster) : (s.updCluster k g).allow = s.allow := rfl
@[simp] theorem updCluster_board (s : State) (k : Nat) (g : Cluster → Cluster) : (s.updCluster k g).board = s.board := rfl
@[simp] theorem updMine_agenda (s : State) (g : Cluster → Cluster) : (s.updMine g).agenda = s.agenda := rfl
@[simp] theorem updMine_inp (s : State) (g : Cluster → Cluster) : (s.updMine g).inp = s.inp := rfl
@[simp] theorem updMine_bad (s : State) (g : Cluster → Cluster) : (s.updMine g).bad = s.bad := rfl
@[simp] theorem updMine_cur (s : State) (g : Cluster → Cluster) : (s.updMine g).cur = s.cur := rfl
@[simp] theorem updMine_freeCtr (s : State) (g : Cluster → Cluster) : (s.updMine g).freeCtr = s.freeCtr := rfl
@[simp] theorem updMine_dcc (s : State) (g : Cluster → Cluster) : (s.updMine g).dcc = s.dcc := rfl
@[simp] theorem updMine_gal (s : State) (g : Cluster → Cluster) : (s.updMine g).gal = s.gal := rfl
@[simp] theorem updMine_bankCtr (s : State) (g : Cluster → Cluster) : (s.updMine g).bankCtr = s.bankCtr := rfl
@[simp] theorem updMine_dram (s : State) (g : Cluster → Cluster) : (s.updMine g).dram = s.dram := rfl
@[simp] theorem updMine_acc (s : State) (g : Cluster → Cluster) : (s.updMine g).acc = s.acc := rfl
@[simp] theorem updMine_nextAcc (s : State) (g : Cluster → Cluster) : (s.updMine g).nextAcc = s.nextAcc := rfl
@[simp] theorem updMine_replies (s : State) (g : Cluster → Cluster) : (s.updMine g).replies = s.replies := rfl
@[simp] theorem updMine_errs (s : State) (g : Cluster → Cluster) : (s.updMine g).errs = s.errs := rfl
@[simp] theorem updMine_fire (s : State) (g : Cluster → Cluster) : (s.updMine g).fire = s.fire := rfl
@[simp] theorem updMine_host (s : State) (g : Cluster → Cluster) : (s.updMine g).host = s.host := rfl
@[simp] theorem updMine_pages (s : State) (g : Cluster → Cluster) : (s.updMine g).pages = s.pages := rfl
@[simp] theorem updMine_boss (s : State) (g : Cluster → Cluster) : (s.updMine g).boss = s.boss := rfl
@[simp] theorem updMine_links (s : State) (g : Cluster → Cluster) : (s.updMine g).links = s.links := rfl
@[simp] theorem updMine_rings (s : State) (g : Cluster → Cluster) : (s.updMine g).rings = s.rings := rfl
@[simp] theorem updMine_sessions (s : State) (g : Cluster → Cluster) : (s.updMine g).sessions = s.sessions := rfl
@[simp] theorem updMine_allow (s : State) (g : Cluster → Cluster) : (s.updMine g).allow = s.allow := rfl
@[simp] theorem updMine_board (s : State) (g : Cluster → Cluster) : (s.updMine g).board = s.board := rfl
@[simp] theorem updMe_agenda (s : State) (g : Core → Core) : (s.updMe g).agenda = s.agenda := rfl
@[simp] theorem updMe_inp (s : State) (g : Core → Core) : (s.updMe g).inp = s.inp := rfl
@[simp] theorem updMe_bad (s : State) (g : Core → Core) : (s.updMe g).bad = s.bad := rfl
@[simp] theorem updMe_cur (s : State) (g : Core → Core) : (s.updMe g).cur = s.cur := rfl
@[simp] theorem updMe_freeCtr (s : State) (g : Core → Core) : (s.updMe g).freeCtr = s.freeCtr := rfl
@[simp] theorem updMe_dcc (s : State) (g : Core → Core) : (s.updMe g).dcc = s.dcc := rfl
@[simp] theorem updMe_gal (s : State) (g : Core → Core) : (s.updMe g).gal = s.gal := rfl
@[simp] theorem updMe_bankCtr (s : State) (g : Core → Core) : (s.updMe g).bankCtr = s.bankCtr := rfl
@[simp] theorem updMe_dram (s : State) (g : Core → Core) : (s.updMe g).dram = s.dram := rfl
@[simp] theorem updMe_acc (s : State) (g : Core → Core) : (s.updMe g).acc = s.acc := rfl
@[simp] theorem updMe_nextAcc (s : State) (g : Core → Core) : (s.updMe g).nextAcc = s.nextAcc := rfl
@[simp] theorem updMe_replies (s : State) (g : Core → Core) : (s.updMe g).replies = s.replies := rfl
@[simp] theorem updMe_errs (s : State) (g : Core → Core) : (s.updMe g).errs = s.errs := rfl
@[simp] theorem updMe_fire (s : State) (g : Core → Core) : (s.updMe g).fire = s.fire := rfl
@[simp] theorem updMe_host (s : State) (g : Core → Core) : (s.updMe g).host = s.host := rfl
@[simp] theorem updMe_pages (s : State) (g : Core → Core) : (s.updMe g).pages = s.pages := rfl
@[simp] theorem updMe_boss (s : State) (g : Core → Core) : (s.updMe g).boss = s.boss := rfl
@[simp] theorem updMe_links (s : State) (g : Core → Core) : (s.updMe g).links = s.links := rfl
@[simp] theorem updMe_rings (s : State) (g : Core → Core) : (s.updMe g).rings = s.rings := rfl
@[simp] theorem updMe_sessions (s : State) (g : Core → Core) : (s.updMe g).sessions = s.sessions := rfl
@[simp] theorem updMe_allow (s : State) (g : Core → Core) : (s.updMe g).allow = s.allow := rfl
@[simp] theorem updMe_board (s : State) (g : Core → Core) : (s.updMe g).board = s.board := rfl

/-! ## A cluster's fields under a change of one core -/

@[simp] theorem updCore_info (c : Cluster) (i : Nat) (g : Core → Core) : (c.updCore i g).info = c.info := rfl
@[simp] theorem updCore_csc (c : Cluster) (i : Nat) (g : Core → Core) : (c.updCore i g).csc = c.csc := rfl
@[simp] theorem updCore_running (c : Cluster) (i : Nat) (g : Core → Core) : (c.updCore i g).running = c.running := rfl
@[simp] theorem updCore_start (c : Cluster) (i : Nat) (g : Core → Core) : (c.updCore i g).start = c.start := rfl
@[simp] theorem updCore_imem (c : Cluster) (i : Nat) (g : Core → Core) : (c.updCore i g).imem = c.imem := rfl
@[simp] theorem updCore_imemTag (c : Cluster) (i : Nat) (g : Core → Core) : (c.updCore i g).imemTag = c.imemTag := rfl
@[simp] theorem updCore_reload (c : Cluster) (i : Nat) (g : Core → Core) : (c.updCore i g).reload = c.reload := rfl
@[simp] theorem updCore_handler (c : Cluster) (i : Nat) (g : Core → Core) : (c.updCore i g).handler = c.handler := rfl
@[simp] theorem updCore_hc (c : Cluster) (i : Nat) (g : Core → Core) : (c.updCore i g).hc = c.hc := rfl
@[simp] theorem updCore_raised (c : Cluster) (i : Nat) (g : Core → Core) : (c.updCore i g).raised = c.raised := rfl
@[simp] theorem updCore_lateIn (c : Cluster) (i : Nat) (g : Core → Core) : (c.updCore i g).lateIn = c.lateIn := rfl
@[simp] theorem updCore_cause (c : Cluster) (i : Nat) (g : Core → Core) : (c.updCore i g).cause = c.cause := rfl
@[simp] theorem updCore_tval (c : Cluster) (i : Nat) (g : Core → Core) : (c.updCore i g).tval = c.tval := rfl
@[simp] theorem updCore_trapE (c : Cluster) (i : Nat) (g : Core → Core) : (c.updCore i g).trapE = c.trapE := rfl
@[simp] theorem updCore_holdLen (c : Cluster) (i : Nat) (g : Core → Core) : (c.updCore i g).holdLen = c.holdLen := rfl
@[simp] theorem updCore_stall (c : Cluster) (i : Nat) (g : Core → Core) : (c.updCore i g).stall = c.stall := rfl
@[simp] theorem updCore_wait (c : Cluster) (i : Nat) (g : Core → Core) : (c.updCore i g).wait = c.wait := rfl
@[simp] theorem updCore_asked (c : Cluster) (i : Nat) (g : Core → Core) : (c.updCore i g).asked = c.asked := rfl
@[simp] theorem updCore_hold (c : Cluster) (i : Nat) (g : Core → Core) : (c.updCore i g).hold = c.hold := rfl
@[simp] theorem updCore_drain (c : Cluster) (i : Nat) (g : Core → Core) : (c.updCore i g).drain = c.drain := rfl
@[simp] theorem updCore_polite (c : Cluster) (i : Nat) (g : Core → Core) : (c.updCore i g).polite = c.polite := rfl
@[simp] theorem updCore_saving (c : Cluster) (i : Nat) (g : Core → Core) : (c.updCore i g).saving = c.saving := rfl
@[simp] theorem updCore_toBoss (c : Cluster) (i : Nat) (g : Core → Core) : (c.updCore i g).toBoss = c.toBoss := rfl
@[simp] theorem updCore_stopped (c : Cluster) (i : Nat) (g : Core → Core) : (c.updCore i g).stopped = c.stopped := rfl
@[simp] theorem updCore_pause (c : Cluster) (i : Nat) (g : Core → Core) : (c.updCore i g).pause = c.pause := rfl
@[simp] theorem updCore_xc (c : Cluster) (i : Nat) (g : Core → Core) : (c.updCore i g).xc = c.xc := rfl
@[simp] theorem updCore_here (c : Cluster) (i : Nat) (g : Core → Core) : (c.updCore i g).here = c.here := rfl
@[simp] theorem updCore_xcHid (c : Cluster) (i : Nat) (g : Core → Core) : (c.updCore i g).xcHid = c.xcHid := rfl
@[simp] theorem updCore_endLoc (c : Cluster) (i : Nat) (g : Core → Core) : (c.updCore i g).endLoc = c.endLoc := rfl
@[simp] theorem updCore_rr (c : Cluster) (i : Nat) (g : Core → Core) : (c.updCore i g).rr = c.rr := rfl
@[simp] theorem updCore_took (c : Cluster) (i : Nat) (g : Core → Core) : (c.updCore i g).took = c.took := rfl
@[simp] theorem updCore_lastSlice (c : Cluster) (i : Nat) (g : Core → Core) : (c.updCore i g).lastSlice = c.lastSlice := rfl
@[simp] theorem updCore_canaryAt (c : Cluster) (i : Nat) (g : Core → Core) : (c.updCore i g).canaryAt = c.canaryAt := rfl
@[simp] theorem updCore_landed (c : Cluster) (i : Nat) (g : Core → Core) : (c.updCore i g).landed = c.landed := rfl
@[simp] theorem updCore_frames (c : Cluster) (i : Nat) (g : Core → Core) : (c.updCore i g).frames = c.frames := rfl
@[simp] theorem updCore_wzGen (c : Cluster) (i : Nat) (g : Core → Core) : (c.updCore i g).wzGen = c.wzGen := rfl
@[simp] theorem updCore_lent (c : Cluster) (i : Nat) (g : Core → Core) : (c.updCore i g).lent = c.lent := rfl

/-! ## A core's fields under a scheduled write, a scheduled result, and writes of ports -/

@[simp] theorem atEnd_ctl (c : Core) (w : EndW) : (c.atEnd w).ctl = c.ctl := rfl
@[simp] theorem atEnd_regs (c : Core) (w : EndW) : (c.atEnd w).regs = c.regs := rfl
@[simp] theorem atEnd_tok (c : Core) (w : EndW) : (c.atEnd w).tok = c.tok := rfl
@[simp] theorem atEnd_tokWhy (c : Core) (w : EndW) : (c.atEnd w).tokWhy = c.tokWhy := rfl
@[simp] theorem atEnd_opnd (c : Core) (w : EndW) : (c.atEnd w).opnd = c.opnd := rfl
@[simp] theorem atEnd_res (c : Core) (w : EndW) : (c.atEnd w).res = c.res := rfl
@[simp] theorem atEnd_vres (c : Core) (w : EndW) : (c.atEnd w).vres = c.vres := rfl
@[simp] theorem atEnd_latch (c : Core) (w : EndW) : (c.atEnd w).latch = c.latch := rfl
@[simp] theorem atEnd_vshape (c : Core) (w : EndW) : (c.atEnd w).vshape = c.vshape := rfl
@[simp] theorem atEnd_tile (c : Core) (w : EndW) : (c.atEnd w).tile = c.tile := rfl
@[simp] theorem atEnd_masks (c : Core) (w : EndW) : (c.atEnd w).masks = c.masks := rfl
@[simp] theorem atEnd_xa (c : Core) (w : EndW) : (c.atEnd w).xa = c.xa := rfl
@[simp] theorem atEnd_xaTag (c : Core) (w : EndW) : (c.atEnd w).xaTag = c.xaTag := rfl
@[simp] theorem atEnd_ay (c : Core) (w : EndW) : (c.atEnd w).ay = c.ay := rfl
@[simp] theorem atEnd_cur (c : Core) (w : EndW) : (c.atEnd w).cur = c.cur := rfl
@[simp] theorem atEnd_scratch (c : Core) (w : EndW) : (c.atEnd w).scratch = c.scratch := rfl
@[simp] theorem atEnd_recent (c : Core) (w : EndW) : (c.atEnd w).recent = c.recent := rfl
@[simp] theorem atEnd_sflag (c : Core) (w : EndW) : (c.atEnd w).sflag = c.sflag := rfl
@[simp] theorem atEnd_fen (c : Core) (w : EndW) : (c.atEnd w).fen = c.fen := rfl
@[simp] theorem atEnd_key (c : Core) (w : EndW) : (c.atEnd w).key = c.key := rfl
@[simp] theorem atEnd_tmr (c : Core) (w : EndW) : (c.atEnd w).tmr = c.tmr := rfl
@[simp] theorem atEnd_trc (c : Core) (w : EndW) : (c.atEnd w).trc = c.trc := rfl
@[simp] theorem atEnd_armed (c : Core) (w : EndW) : (c.atEnd w).armed = c.armed := rfl
@[simp] theorem atEnd_trace (c : Core) (w : EndW) : (c.atEnd w).trace = c.trace := rfl
@[simp] theorem atEnd_units (c : Core) (w : EndW) : (c.atEnd w).units = c.units := rfl
@[simp] theorem atEnd_fetch (c : Core) (w : EndW) : (c.atEnd w).fetch = c.fetch := rfl
@[simp] theorem deliver_ctl (c : Core) (n : Nat) (ps : List Put) : (c.deliver n ps).ctl = c.ctl := rfl
@[simp] theorem deliver_regs (c : Core) (n : Nat) (ps : List Put) : (c.deliver n ps).regs = c.regs := rfl
@[simp] theorem deliver_tok (c : Core) (n : Nat) (ps : List Put) : (c.deliver n ps).tok = c.tok := rfl
@[simp] theorem deliver_tokWhy (c : Core) (n : Nat) (ps : List Put) : (c.deliver n ps).tokWhy = c.tokWhy := rfl
@[simp] theorem deliver_opnd (c : Core) (n : Nat) (ps : List Put) : (c.deliver n ps).opnd = c.opnd := rfl
@[simp] theorem deliver_res (c : Core) (n : Nat) (ps : List Put) : (c.deliver n ps).res = c.res := rfl
@[simp] theorem deliver_vres (c : Core) (n : Nat) (ps : List Put) : (c.deliver n ps).vres = c.vres := rfl
@[simp] theorem deliver_latch (c : Core) (n : Nat) (ps : List Put) : (c.deliver n ps).latch = c.latch := rfl
@[simp] theorem deliver_vshape (c : Core) (n : Nat) (ps : List Put) : (c.deliver n ps).vshape = c.vshape := rfl
@[simp] theorem deliver_tile (c : Core) (n : Nat) (ps : List Put) : (c.deliver n ps).tile = c.tile := rfl
@[simp] theorem deliver_masks (c : Core) (n : Nat) (ps : List Put) : (c.deliver n ps).masks = c.masks := rfl
@[simp] theorem deliver_xa (c : Core) (n : Nat) (ps : List Put) : (c.deliver n ps).xa = c.xa := rfl
@[simp] theorem deliver_xaTag (c : Core) (n : Nat) (ps : List Put) : (c.deliver n ps).xaTag = c.xaTag := rfl
@[simp] theorem deliver_ay (c : Core) (n : Nat) (ps : List Put) : (c.deliver n ps).ay = c.ay := rfl
@[simp] theorem deliver_cur (c : Core) (n : Nat) (ps : List Put) : (c.deliver n ps).cur = c.cur := rfl
@[simp] theorem deliver_scratch (c : Core) (n : Nat) (ps : List Put) : (c.deliver n ps).scratch = c.scratch := rfl
@[simp] theorem deliver_recent (c : Core) (n : Nat) (ps : List Put) : (c.deliver n ps).recent = c.recent := rfl
@[simp] theorem deliver_sflag (c : Core) (n : Nat) (ps : List Put) : (c.deliver n ps).sflag = c.sflag := rfl
@[simp] theorem deliver_fen (c : Core) (n : Nat) (ps : List Put) : (c.deliver n ps).fen = c.fen := rfl
@[simp] theorem deliver_key (c : Core) (n : Nat) (ps : List Put) : (c.deliver n ps).key = c.key := rfl
@[simp] theorem deliver_tmr (c : Core) (n : Nat) (ps : List Put) : (c.deliver n ps).tmr = c.tmr := rfl
@[simp] theorem deliver_trc (c : Core) (n : Nat) (ps : List Put) : (c.deliver n ps).trc = c.trc := rfl
@[simp] theorem deliver_armed (c : Core) (n : Nat) (ps : List Put) : (c.deliver n ps).armed = c.armed := rfl
@[simp] theorem deliver_trace (c : Core) (n : Nat) (ps : List Put) : (c.deliver n ps).trace = c.trace := rfl
@[simp] theorem deliver_units (c : Core) (n : Nat) (ps : List Put) : (c.deliver n ps).units = c.units := rfl
@[simp] theorem deliver_fetch (c : Core) (n : Nat) (ps : List Put) : (c.deliver n ps).fetch = c.fetch := rfl
@[simp] theorem setPort_ctl (c : Core) (u n : Nat) (v : U64) : (c.setPort u n v).ctl = c.ctl := rfl
@[simp] theorem setPort_regs (c : Core) (u n : Nat) (v : U64) : (c.setPort u n v).regs = c.regs := rfl
@[simp] theorem setPort_tok (c : Core) (u n : Nat) (v : U64) : (c.setPort u n v).tok = c.tok := rfl
@[simp] theorem setPort_tokWhy (c : Core) (u n : Nat) (v : U64) : (c.setPort u n v).tokWhy = c.tokWhy := rfl
@[simp] theorem setPort_res (c : Core) (u n : Nat) (v : U64) : (c.setPort u n v).res = c.res := rfl
@[simp] theorem setPort_vres (c : Core) (u n : Nat) (v : U64) : (c.setPort u n v).vres = c.vres := rfl
@[simp] theorem setPort_latch (c : Core) (u n : Nat) (v : U64) : (c.setPort u n v).latch = c.latch := rfl
@[simp] theorem setPort_vshape (c : Core) (u n : Nat) (v : U64) : (c.setPort u n v).vshape = c.vshape := rfl
@[simp] theorem setPort_tile (c : Core) (u n : Nat) (v : U64) : (c.setPort u n v).tile = c.tile := rfl
@[simp] theorem setPort_masks (c : Core) (u n : Nat) (v : U64) : (c.setPort u n v).masks = c.masks := rfl
@[simp] theorem setPort_xa (c : Core) (u n : Nat) (v : U64) : (c.setPort u n v).xa = c.xa := rfl
@[simp] theorem setPort_xaTag (c : Core) (u n : Nat) (v : U64) : (c.setPort u n v).xaTag = c.xaTag := rfl
@[simp] theorem setPort_ay (c : Core) (u n : Nat) (v : U64) : (c.setPort u n v).ay = c.ay := rfl
@[simp] theorem setPort_cur (c : Core) (u n : Nat) (v : U64) : (c.setPort u n v).cur = c.cur := rfl
@[simp] theorem setPort_scratch (c : Core) (u n : Nat) (v : U64) : (c.setPort u n v).scratch = c.scratch := rfl
@[simp] theorem setPort_recent (c : Core) (u n : Nat) (v : U64) : (c.setPort u n v).recent = c.recent := rfl
@[simp] theorem setPort_sflag (c : Core) (u n : Nat) (v : U64) : (c.setPort u n v).sflag = c.sflag := rfl
@[simp] theorem setPort_fen (c : Core) (u n : Nat) (v : U64) : (c.setPort u n v).fen = c.fen := rfl
@[simp] theorem setPort_key (c : Core) (u n : Nat) (v : U64) : (c.setPort u n v).key = c.key := rfl
@[simp] theorem setPort_tmr (c : Core) (u n : Nat) (v : U64) : (c.setPort u n v).tmr = c.tmr := rfl
@[simp] theorem setPort_trc (c : Core) (u n : Nat) (v : U64) : (c.setPort u n v).trc = c.trc := rfl
@[simp] theorem setPort_armed (c : Core) (u n : Nat) (v : U64) : (c.setPort u n v).armed = c.armed := rfl
@[simp] theorem setPort_trace (c : Core) (u n : Nat) (v : U64) : (c.setPort u n v).trace = c.trace := rfl
@[simp] theorem setPort_units (c : Core) (u n : Nat) (v : U64) : (c.setPort u n v).units = c.units := rfl
@[simp] theorem setPort_pipe (c : Core) (u n : Nat) (v : U64) : (c.setPort u n v).pipe = c.pipe := rfl
@[simp] theorem setPort_fetch (c : Core) (u n : Nat) (v : U64) : (c.setPort u n v).fetch = c.fetch := rfl
@[simp] theorem setResult_ctl (c : Core) (k : Nat) (v : U64) : (c.setResult k v).ctl = c.ctl := rfl
@[simp] theorem setResult_regs (c : Core) (k : Nat) (v : U64) : (c.setResult k v).regs = c.regs := rfl
@[simp] theorem setResult_tok (c : Core) (k : Nat) (v : U64) : (c.setResult k v).tok = c.tok := rfl
@[simp] theorem setResult_tokWhy (c : Core) (k : Nat) (v : U64) : (c.setResult k v).tokWhy = c.tokWhy := rfl
@[simp] theorem setResult_opnd (c : Core) (k : Nat) (v : U64) : (c.setResult k v).opnd = c.opnd := rfl
@[simp] theorem setResult_vres (c : Core) (k : Nat) (v : U64) : (c.setResult k v).vres = c.vres := rfl
@[simp] theorem setResult_latch (c : Core) (k : Nat) (v : U64) : (c.setResult k v).latch = c.latch := rfl
@[simp] theorem setResult_vshape (c : Core) (k : Nat) (v : U64) : (c.setResult k v).vshape = c.vshape := rfl
@[simp] theorem setResult_tile (c : Core) (k : Nat) (v : U64) : (c.setResult k v).tile = c.tile := rfl
@[simp] theorem setResult_masks (c : Core) (k : Nat) (v : U64) : (c.setResult k v).masks = c.masks := rfl
@[simp] theorem setResult_xa (c : Core) (k : Nat) (v : U64) : (c.setResult k v).xa = c.xa := rfl
@[simp] theorem setResult_xaTag (c : Core) (k : Nat) (v : U64) : (c.setResult k v).xaTag = c.xaTag := rfl
@[simp] theorem setResult_ay (c : Core) (k : Nat) (v : U64) : (c.setResult k v).ay = c.ay := rfl
@[simp] theorem setResult_cur (c : Core) (k : Nat) (v : U64) : (c.setResult k v).cur = c.cur := rfl
@[simp] theorem setResult_scratch (c : Core) (k : Nat) (v : U64) : (c.setResult k v).scratch = c.scratch := rfl
@[simp] theorem setResult_recent (c : Core) (k : Nat) (v : U64) : (c.setResult k v).recent = c.recent := rfl
@[simp] theorem setResult_sflag (c : Core) (k : Nat) (v : U64) : (c.setResult k v).sflag = c.sflag := rfl
@[simp] theorem setResult_fen (c : Core) (k : Nat) (v : U64) : (c.setResult k v).fen = c.fen := rfl
@[simp] theorem setResult_key (c : Core) (k : Nat) (v : U64) : (c.setResult k v).key = c.key := rfl
@[simp] theorem setResult_tmr (c : Core) (k : Nat) (v : U64) : (c.setResult k v).tmr = c.tmr := rfl
@[simp] theorem setResult_trc (c : Core) (k : Nat) (v : U64) : (c.setResult k v).trc = c.trc := rfl
@[simp] theorem setResult_armed (c : Core) (k : Nat) (v : U64) : (c.setResult k v).armed = c.armed := rfl
@[simp] theorem setResult_trace (c : Core) (k : Nat) (v : U64) : (c.setResult k v).trace = c.trace := rfl
@[simp] theorem setResult_units (c : Core) (k : Nat) (v : U64) : (c.setResult k v).units = c.units := rfl
@[simp] theorem setResult_pipe (c : Core) (k : Nat) (v : U64) : (c.setResult k v).pipe = c.pipe := rfl
@[simp] theorem setResult_fetch (c : Core) (k : Nat) (v : U64) : (c.setResult k v).fetch = c.fetch := rfl
@[simp] theorem stickyNow_ctl (c : Core) (b : U32) : (c.stickyNow b).ctl = c.ctl := rfl
@[simp] theorem stickyNow_regs (c : Core) (b : U32) : (c.stickyNow b).regs = c.regs := rfl
@[simp] theorem stickyNow_tok (c : Core) (b : U32) : (c.stickyNow b).tok = c.tok := rfl
@[simp] theorem stickyNow_tokWhy (c : Core) (b : U32) : (c.stickyNow b).tokWhy = c.tokWhy := rfl
@[simp] theorem stickyNow_opnd (c : Core) (b : U32) : (c.stickyNow b).opnd = c.opnd := rfl
@[simp] theorem stickyNow_res (c : Core) (b : U32) : (c.stickyNow b).res = c.res := rfl
@[simp] theorem stickyNow_vres (c : Core) (b : U32) : (c.stickyNow b).vres = c.vres := rfl
@[simp] theorem stickyNow_latch (c : Core) (b : U32) : (c.stickyNow b).latch = c.latch := rfl
@[simp] theorem stickyNow_vshape (c : Core) (b : U32) : (c.stickyNow b).vshape = c.vshape := rfl
@[simp] theorem stickyNow_tile (c : Core) (b : U32) : (c.stickyNow b).tile = c.tile := rfl
@[simp] theorem stickyNow_masks (c : Core) (b : U32) : (c.stickyNow b).masks = c.masks := rfl
@[simp] theorem stickyNow_xa (c : Core) (b : U32) : (c.stickyNow b).xa = c.xa := rfl
@[simp] theorem stickyNow_xaTag (c : Core) (b : U32) : (c.stickyNow b).xaTag = c.xaTag := rfl
@[simp] theorem stickyNow_ay (c : Core) (b : U32) : (c.stickyNow b).ay = c.ay := rfl
@[simp] theorem stickyNow_cur (c : Core) (b : U32) : (c.stickyNow b).cur = c.cur := rfl
@[simp] theorem stickyNow_scratch (c : Core) (b : U32) : (c.stickyNow b).scratch = c.scratch := rfl
@[simp] theorem stickyNow_recent (c : Core) (b : U32) : (c.stickyNow b).recent = c.recent := rfl
@[simp] theorem stickyNow_fen (c : Core) (b : U32) : (c.stickyNow b).fen = c.fen := rfl
@[simp] theorem stickyNow_key (c : Core) (b : U32) : (c.stickyNow b).key = c.key := rfl
@[simp] theorem stickyNow_tmr (c : Core) (b : U32) : (c.stickyNow b).tmr = c.tmr := rfl
@[simp] theorem stickyNow_trc (c : Core) (b : U32) : (c.stickyNow b).trc = c.trc := rfl
@[simp] theorem stickyNow_armed (c : Core) (b : U32) : (c.stickyNow b).armed = c.armed := rfl
@[simp] theorem stickyNow_trace (c : Core) (b : U32) : (c.stickyNow b).trace = c.trace := rfl
@[simp] theorem stickyNow_units (c : Core) (b : U32) : (c.stickyNow b).units = c.units := rfl
@[simp] theorem stickyNow_fetch (c : Core) (b : U32) : (c.stickyNow b).fetch = c.fetch := rfl
@[simp] theorem atEnd_pipe_flights (c : Core) (w : EndW) : (c.atEnd w).pipe.flights = c.pipe.flights := rfl
@[simp] theorem atEnd_pipe_vops (c : Core) (w : EndW) : (c.atEnd w).pipe.vops = c.pipe.vops := rfl
@[simp] theorem atEnd_pipe_lsv (c : Core) (w : EndW) : (c.atEnd w).pipe.lsv = c.pipe.lsv := rfl
@[simp] theorem atEnd_pipe_endW (c : Core) (w : EndW) : (c.atEnd w).pipe.endW = c.pipe.endW ++ [w] := rfl
@[simp] theorem atEnd_pipe_sflagNew (c : Core) (w : EndW) : (c.atEnd w).pipe.sflagNew = c.pipe.sflagNew := rfl
@[simp] theorem atEnd_pipe_puts (c : Core) (w : EndW) : (c.atEnd w).pipe.puts = c.pipe.puts := rfl
@[simp] theorem atEnd_pipe_fences (c : Core) (w : EndW) : (c.atEnd w).pipe.fences = c.pipe.fences := rfl
@[simp] theorem atEnd_pipe_reissue (c : Core) (w : EndW) : (c.atEnd w).pipe.reissue = c.pipe.reissue := rfl
@[simp] theorem atEnd_pipe_hidden (c : Core) (w : EndW) : (c.atEnd w).pipe.hidden = c.pipe.hidden := rfl
@[simp] theorem atEnd_pipe_tret (c : Core) (w : EndW) : (c.atEnd w).pipe.tret = c.pipe.tret := rfl
@[simp] theorem atEnd_pipe_rcv (c : Core) (w : EndW) : (c.atEnd w).pipe.rcv = c.pipe.rcv := rfl
@[simp] theorem atEnd_pipe_sync (c : Core) (w : EndW) : (c.atEnd w).pipe.sync = c.pipe.sync := rfl
@[simp] theorem atEnd_pipe_twait (c : Core) (w : EndW) : (c.atEnd w).pipe.twait = c.pipe.twait := rfl
@[simp] theorem atEnd_pipe_soft (c : Core) (w : EndW) : (c.atEnd w).pipe.soft = c.pipe.soft := rfl
@[simp] theorem atEnd_pipe_brk (c : Core) (w : EndW) : (c.atEnd w).pipe.brk = c.pipe.brk := rfl
@[simp] theorem deliver_pipe_flights (c : Core) (n : Nat) (ps : List Put) :
    (c.deliver n ps).pipe.flights = c.pipe.flights ++ [{ left := n, puts := ps }] := rfl
@[simp] theorem deliver_pipe_vops (c : Core) (n : Nat) (ps : List Put) : (c.deliver n ps).pipe.vops = c.pipe.vops := rfl
@[simp] theorem deliver_pipe_lsv (c : Core) (n : Nat) (ps : List Put) : (c.deliver n ps).pipe.lsv = c.pipe.lsv := rfl
@[simp] theorem deliver_pipe_endW (c : Core) (n : Nat) (ps : List Put) : (c.deliver n ps).pipe.endW = c.pipe.endW := rfl
@[simp] theorem deliver_pipe_sflagNew (c : Core) (n : Nat) (ps : List Put) : (c.deliver n ps).pipe.sflagNew = c.pipe.sflagNew := rfl
@[simp] theorem deliver_pipe_puts (c : Core) (n : Nat) (ps : List Put) : (c.deliver n ps).pipe.puts = c.pipe.puts := rfl
@[simp] theorem deliver_pipe_fences (c : Core) (n : Nat) (ps : List Put) : (c.deliver n ps).pipe.fences = c.pipe.fences := rfl
@[simp] theorem deliver_pipe_reissue (c : Core) (n : Nat) (ps : List Put) : (c.deliver n ps).pipe.reissue = c.pipe.reissue := rfl
@[simp] theorem deliver_pipe_hidden (c : Core) (n : Nat) (ps : List Put) : (c.deliver n ps).pipe.hidden = c.pipe.hidden := rfl
@[simp] theorem deliver_pipe_tret (c : Core) (n : Nat) (ps : List Put) : (c.deliver n ps).pipe.tret = c.pipe.tret := rfl
@[simp] theorem deliver_pipe_rcv (c : Core) (n : Nat) (ps : List Put) : (c.deliver n ps).pipe.rcv = c.pipe.rcv := rfl
@[simp] theorem deliver_pipe_sync (c : Core) (n : Nat) (ps : List Put) : (c.deliver n ps).pipe.sync = c.pipe.sync := rfl
@[simp] theorem deliver_pipe_twait (c : Core) (n : Nat) (ps : List Put) : (c.deliver n ps).pipe.twait = c.pipe.twait := rfl
@[simp] theorem deliver_pipe_soft (c : Core) (n : Nat) (ps : List Put) : (c.deliver n ps).pipe.soft = c.pipe.soft := rfl
@[simp] theorem deliver_pipe_brk (c : Core) (n : Nat) (ps : List Put) : (c.deliver n ps).pipe.brk = c.pipe.brk := rfl

/-! ## Reading after an update -/

@[simp] theorem slook_smod_same {α : Type} (f : α → α) (k : Nat) (m : Store α) : slook (smod f k m) k = (slook m k).map f := by
  induction m with
  | nil => rfl
  | cons p t ih => obtain ⟨i, v⟩ := p; by_cases h : i = k <;> simp [smod, slook, h, ih]

@[simp] theorem slook_smod_other {α : Type} (f : α → α) {k j : Nat} (m : Store α) (h : j ≠ k) :
    slook (smod f k m) j = slook m j := by
  induction m with
  | nil => rfl
  | cons p t ih =>
    obtain ⟨i, v⟩ := p
    by_cases hi : i = k
    · subst hi; simp [smod, slook, h.symm]
    · simp [smod, slook, hi, ih]

/-- A change of listed values keeps the keys. -/
@[simp] theorem smod_keys {α : Type} (f : α → α) (k : Nat) (m : Store α) : (smod f k m).map (·.1) = m.map (·.1) := by
  induction m with
  | nil => rfl
  | cons p t ih => obtain ⟨i, v⟩ := p; by_cases h : i = k <;> simp [smod, h, ih]

@[simp] theorem lmod_length {α : Type} (f : α → α) (n : Nat) (l : List α) : (lmod f n l).length = l.length := by
  induction l generalizing n with
  | nil => cases n <;> rfl
  | cons x t ih => cases n <;> simp [lmod, ih]

theorem lmod_getD_same {α : Type} (f : α → α) (d : α) {n : Nat} {l : List α} (h : n < l.length) :
    (lmod f n l).getD n d = f (l.getD n d) := by
  induction l generalizing n with
  | nil => simp at h
  | cons x t ih =>
    cases n with
    | zero => simp [lmod]
    | succ n => simpa [lmod] using ih (by simpa using h)

@[simp] theorem lmod_getD_other {α : Type} (f : α → α) (d : α) {n j : Nat} (l : List α) (h : j ≠ n) :
    (lmod f n l).getD j d = l.getD j d := by
  induction l generalizing n j with
  | nil => cases n <;> rfl
  | cons x t ih =>
    cases n <;> cases j <;> simp_all [lmod]

/-- A bound slot reads as changed. -/
theorem cluster_updCluster_same {s : State} {k : Nat} (g : Cluster → Cluster) (h : (slook s.clusters k).isSome = true) :
    (s.updCluster k g).cluster k = g (s.cluster k) := by
  obtain ⟨c, hc⟩ := Option.isSome_iff_exists.mp h
  simp [State.cluster, State.updCluster, hc]

/-- Another slot reads as before. -/
@[simp] theorem cluster_updCluster_other (s : State) {k j : Nat} (g : Cluster → Cluster) (h : j ≠ k) :
    (s.updCluster k g).cluster j = s.cluster j := by
  simp [State.cluster, State.updCluster, h]

/-- A core that exists reads as changed. -/
theorem core_updCore_same {c : Cluster} {i : Nat} (g : Core → Core) (h : i < c.cores.length) :
    (c.updCore i g).core i = g (c.core i) := lmod_getD_same g {} h

/-- Another core reads as before. -/
@[simp] theorem core_updCore_other (c : Cluster) {i j : Nat} (g : Core → Core) (h : j ≠ i) :
    (c.updCore i g).core j = c.core j := lmod_getD_other g {} c.cores h

/-- The issuing cluster of a changed state. -/
theorem myCluster_updMe {s : State} (g : Core → Core) (h : s.hasMe) :
    (s.updMe g).myCluster = s.myCluster.updCore s.coreOf g := cluster_updCluster_same _ h.1

/-- The issuing stream reads as changed. -/
theorem me_updMe {s : State} (g : Core → Core) (h : s.hasMe) : (s.updMe g).me = g s.me := by
  unfold State.me
  rw [myCluster_updMe g h]
  exact core_updCore_same g h.2

/-- A change of the issuing stream changes nothing else. -/
theorem onlyMe_updMe {s : State} (g : Core → Core) (h : s.hasMe) : s.onlyMe (s.updMe g) := by
  refine ⟨rfl, fun k hk => cluster_updCluster_other s _ hk, ?_, fun i hi => ?_⟩
  · rw [myCluster_updMe g h]; rfl
  · rw [myCluster_updMe g h]; exact core_updCore_other _ g hi

/-- Changes of the issuing stream compose. -/
theorem hasMe_updMe {s : State} (g : Core → Core) (h : s.hasMe) : (s.updMe g).hasMe := by
  refine ⟨by simp [State.updMe, State.updMine, State.updCluster, State.slotOf] ; simpa [State.slotOf] using h.1, ?_⟩
  rw [myCluster_updMe g h]
  simpa [Cluster.updCore, State.coreOf] using h.2

/-- A short move under a true guard acts with the value of its source. -/
theorem short_on {t : Trig} {s : State} {f : U64 → State → State} (h : s.me.guard t.g t.n = true) :
    short t s f = .next (f (s.source t.src) s) := by simp [short, h]

/-- A short move under a false guard does nothing. -/
theorem short_off {t : Trig} {s : State} {f : U64 → State → State} (h : s.me.guard t.g t.n = false) :
    short t s f = .next s := by simp [short, h]

end Sys2Proof.Machine
end

