-- ==== Sys2Proof/Laws/Store.lean ====
section
/-!
SUPPORT. Stores and tagged memories: reading after writing, and that every operation on a store keeps its canonical
form, so that equal contents stay equal data.
-/
namespace Sys2Proof.Machine

variable {α : Type}

/-! ## Reading after writing -/

theorem sget_sins (d : α) (k : Nat) (v : α) (m : Store α) (j : Nat) : sget d (sins k v m) j = if k = j then v else sget d m j := by
  induction m with
  | nil => simp [sins, sget]
  | cons p t ih =>
    obtain ⟨i, w⟩ := p
    simp only [sins]
    split
    · simp only [sget]; split <;> simp_all
      intro h; omega
    · split
      · subst_vars; simp only [sget]; split <;> simp_all
      · simp only [sget]

theorem sget_filter (d : α) (f : Nat → Bool) (m : Store α) (j : Nat) :
    sget d (m.filter (fun p => f p.1)) j = if f j then sget d m j else d := by
  induction m with
  | nil => simp [sget]
  | cons p t ih =>
    obtain ⟨i, w⟩ := p
    by_cases hf : f i <;> by_cases hj : i = j <;> simp_all [List.filter_cons, sget]

theorem sget_sdel (d : α) (k : Nat) (m : Store α) (j : Nat) : sget d (sdel k m) j = if k = j then d else sget d m j := by
  rw [sdel, sget_filter d (fun i => i != k)]
  by_cases h : k = j <;> simp [h]
  intro h'; exact absurd h'.symm h

/-- What a store reads after a write: the value at its key, everywhere else what it read before. -/
theorem sget_sset [DecidableEq α] (d : α) (m : Store α) (k : Nat) (v : α) (j : Nat) :
    sget d (sset d m k v) j = if k = j then v else sget d m j := by
  unfold sset
  split
  · subst_vars; exact sget_sdel _ _ _ _
  · rw [sget_sins, sget_sdel]; split <;> rfl

@[simp] theorem sget_sset_self [DecidableEq α] (d : α) (m : Store α) (k : Nat) (v : α) : sget d (sset d m k v) k = v := by
  simp [sget_sset]

theorem sget_sset_other [DecidableEq α] (d : α) (m : Store α) {k j : Nat} (v : α) (h : j ≠ k) : sget d (sset d m k v) j = sget d m j := by
  simp [sget_sset, Ne.symm h]

theorem sget_sclear (d : α) (m : Store α) (lo hi j : Nat) : sget d (sclear m lo hi) j = if lo ≤ j ∧ j < hi then d else sget d m j := by
  rw [sclear, sget_filter d (fun i => !(lo ≤ i && i < hi))]
  by_cases h : lo ≤ j ∧ j < hi
  · simp [h]
  · rw [if_neg h, if_pos]
    simp only [Bool.not_eq_true', Bool.and_eq_false_iff, decide_eq_false_iff_not]
    omega

/-! ## The canonical form -/

theorem swf_cons [DecidableEq α] {d : α} {i : Nat} {v : α} {t : Store α} :
    swf d ((i, v) :: t) = true ↔ v ≠ d ∧ (∀ p ∈ t, i < p.1) ∧ swf d t = true := by
  induction t generalizing i v with
  | nil => simp [swf]
  | cons p t ih =>
    obtain ⟨j, w⟩ := p
    rw [swf]
    simp only [Bool.and_eq_true, bne_iff_ne, ne_eq, decide_eq_true_eq]
    constructor
    · rintro ⟨⟨h1, h2⟩, h3⟩
      refine ⟨h1, fun p hp => ?_, h3⟩
      rcases List.mem_cons.1 hp with rfl | hp
      · exact h2
      · exact Nat.lt_trans h2 ((ih.1 h3).2.1 p hp)
    · rintro ⟨h1, h2, h3⟩
      exact ⟨⟨h1, h2 _ (List.mem_cons_self ..)⟩, h3⟩

theorem swf_filter [DecidableEq α] {d : α} {m : Store α} (f : Nat × α → Bool) (h : swf d m = true) : swf d (m.filter f) = true := by
  induction m with
  | nil => rfl
  | cons p t ih =>
    obtain ⟨i, v⟩ := p
    obtain ⟨h1, h2, h3⟩ := swf_cons.1 h
    rw [List.filter_cons]
    split
    · exact swf_cons.2 ⟨h1, fun p hp => h2 p ((List.mem_filter.1 hp).1), ih h3⟩
    · exact ih h3

theorem swf_sdel [DecidableEq α] {d : α} {m : Store α} (k : Nat) (h : swf d m = true) : swf d (sdel k m) = true := swf_filter _ h

theorem swf_sclear [DecidableEq α] {d : α} {m : Store α} (lo hi : Nat) (h : swf d m = true) : swf d (sclear m lo hi) = true := swf_filter _ h

theorem mem_sins {k : Nat} {v : α} {m : Store α} {p : Nat × α} (h : p ∈ sins k v m) : p = (k, v) ∨ p ∈ m := by
  induction m with
  | nil => simpa [sins] using h
  | cons q t ih =>
    obtain ⟨i, w⟩ := q
    simp only [sins] at h
    split at h
    · rcases List.mem_cons.1 h with rfl | h
      · exact .inr (List.mem_cons_self ..)
      · exact (ih h).imp id (List.mem_cons_of_mem _)
    · split at h
      · rcases List.mem_cons.1 h with rfl | h
        · exact .inl rfl
        · exact .inr (List.mem_cons_of_mem _ h)
      · rcases List.mem_cons.1 h with rfl | h
        · exact .inl rfl
        · exact .inr h

theorem swf_sins [DecidableEq α] {d : α} {m : Store α} (k : Nat) {v : α} (hv : v ≠ d) (h : swf d m = true) : swf d (sins k v m) = true := by
  induction m with
  | nil => simpa [sins, swf] using hv
  | cons p t ih =>
    obtain ⟨i, w⟩ := p
    obtain ⟨h1, h2, h3⟩ := swf_cons.1 h
    simp only [sins]
    split
    · refine swf_cons.2 ⟨h1, fun p hp => ?_, ih h3⟩
      rcases mem_sins hp with rfl | hp
      · assumption
      · exact h2 p hp
    · split
      · subst_vars; exact swf_cons.2 ⟨hv, h2, h3⟩
      · refine swf_cons.2 ⟨hv, fun p hp => ?_, h⟩
        rcases List.mem_cons.1 hp with rfl | hp
        · show k < i; omega
        · have := h2 p hp; omega

theorem swf_sset [DecidableEq α] {d : α} {m : Store α} (k : Nat) (v : α) (h : swf d m = true) : swf d (sset d m k v) = true := by
  unfold sset
  split
  · exact swf_sdel k h
  · exact swf_sins k (by assumption) (swf_sdel k h)

theorem swf_sput [DecidableEq α] {d : α} {m : Store α} (ws : List (Nat × α)) (h : swf d m = true) : swf d (sput d m ws) = true := by
  induction ws generalizing m with
  | nil => exact h
  | cons p t ih => exact ih (swf_sset _ _ h)

/-! ## Memories -/

@[simp] theorem TMem.rd_wr (m : TMem) (a : Nat) (v : Byte) (x : Nat) : (m.wr a v).rd x = if a = x then v else m.rd x := by
  simp [TMem.wr, TMem.rd, sget_sset]

@[simp] theorem TMem.wr_tags (m : TMem) (a : Nat) (v : Byte) : (m.wr a v).tags = m.tags := rfl
@[simp] theorem TMem.wrTag_data (dt : BitVec 16) (m : TMem) (a : Nat) (t : BitVec 16) : (m.wrTag dt a t).data = m.data := rfl
@[simp] theorem TMem.rd_wrTag (dt : BitVec 16) (m : TMem) (a : Nat) (t : BitVec 16) (x : Nat) : (m.wrTag dt a t).rd x = m.rd x := rfl

@[simp] theorem TMem.wrs_tags (m : TMem) (a : Nat) (bs : List Byte) : (m.wrs a bs).tags = m.tags := by
  induction bs generalizing m a with
  | nil => rfl
  | cons b bs ih => simp [TMem.wrs, ih]

/-- Reading after writing several bytes: inside them the byte written, outside them the byte that stood there. -/
theorem TMem.rd_wrs (m : TMem) (a : Nat) (bs : List Byte) (x : Nat) :
    (m.wrs a bs).rd x = if h : a ≤ x ∧ x < a + bs.length then bs[x - a]'(by omega) else m.rd x := by
  induction bs generalizing m a with
  | nil => simp [TMem.wrs] <;> omega
  | cons b bs ih =>
    rw [TMem.wrs, ih]
    by_cases h0 : a = x
    · subst h0; rw [dif_neg (by omega), dif_pos (by simp)]; simp
    · by_cases h1 : a ≤ x ∧ x < a + (bs.length + 1)
      · have h2 : a + 1 ≤ x ∧ x < a + 1 + bs.length := by omega
        rw [dif_pos h2, dif_pos (by simpa using h1)]
        have : x - a = (x - (a + 1)) + 1 := by omega
        simp [this]
      · rw [dif_neg (by omega), dif_neg (by simpa using h1)]; simp [h0]

theorem TMem.tag_wrTag (dt : BitVec 16) (m : TMem) (a : Nat) (t : BitVec 16) (x : Nat) :
    (m.wrTag dt a t).tag dt x = if a / 64 = x / 64 then t else m.tag dt x := by
  simp [TMem.wrTag, TMem.tag, sget_sset]

theorem TMem.bytes_length (m : TMem) (a n : Nat) : (m.bytes a n).length = n := by
  induction n generalizing a with
  | zero => rfl
  | succ n ih => simp [TMem.bytes, ih]

theorem TMem.bytes_get (m : TMem) (a n i : Nat) (h : i < (m.bytes a n).length) : (m.bytes a n)[i] = m.rd (a + i) := by
  induction n generalizing a i with
  | zero => simp [TMem.bytes] at h
  | succ n ih =>
    cases i with
    | zero => simp [TMem.bytes]
    | succ i => simp only [TMem.bytes, List.getElem_cons_succ, ih]; congr 1; omega

/-- Every operation on a memory keeps its canonical form (reset memory has it: nothing is listed). -/
theorem TMem.wf_empty (dt : BitVec 16) : TMem.wf dt {} := ⟨rfl, rfl⟩
theorem TMem.wf_wr {dt : BitVec 16} {m : TMem} (a : Nat) (v : Byte) (h : m.wf dt) : (m.wr a v).wf dt := ⟨swf_sset _ _ h.1, h.2⟩
theorem TMem.wf_wrTag {dt : BitVec 16} {m : TMem} (a : Nat) (t : BitVec 16) (h : m.wf dt) : (m.wrTag dt a t).wf dt :=
  ⟨h.1, swf_sset _ _ h.2⟩
theorem TMem.wf_wrs {dt : BitVec 16} {m : TMem} (a : Nat) (bs : List Byte) (h : m.wf dt) : (m.wrs a bs).wf dt := by
  induction bs generalizing m a with
  | nil => exact h
  | cons b bs ih => exact ih _ (TMem.wf_wr a b h)
theorem TMem.wf_clear {dt : BitVec 16} {m : TMem} (lo hi : Nat) (h : m.wf dt) : (m.clear lo hi).wf dt :=
  ⟨swf_sclear _ _ h.1, swf_sclear _ _ h.2⟩
theorem TMem.wf_foldl {dt : BitVec 16} (ws : List (Nat × Byte)) (a : Nat) {m : TMem} (h : m.wf dt) :
    (ws.foldl (fun m w => m.wr (a + w.1) w.2) m).wf dt := by
  induction ws generalizing m with
  | nil => exact h
  | cons w ws ih => exact ih (TMem.wf_wr _ _ h)

/-! ## Lookup in lists of pairs -/

theorem slook_smod (f : α → α) (k : Nat) (m : Store α) (j : Nat) :
    slook (smod f k m) j = if k = j then (slook m j).map f else slook m j := by
  induction m with
  | nil => simp [smod, slook]
  | cons p t ih =>
    obtain ⟨i, v⟩ := p
    simp only [smod]
    by_cases h1 : i = k <;> by_cases h2 : i = j <;> by_cases h3 : k = j <;> simp_all [slook]

theorem keys_smod (f : α → α) (k : Nat) (m : Store α) : (smod f k m).map (·.1) = m.map (·.1) := by
  induction m with
  | nil => rfl
  | cons p t ih =>
    obtain ⟨i, v⟩ := p
    simp only [smod]
    split <;> simp_all

theorem slook_sins (k : Nat) (v : α) (m : Store α) (j : Nat) : slook (sins k v m) j = if k = j then some v else slook m j := by
  induction m with
  | nil => simp [sins, slook]
  | cons p t ih =>
    obtain ⟨i, w⟩ := p
    simp only [sins]
    split
    · simp only [slook]; split <;> simp_all
      intro h; omega
    · split
      · subst_vars; simp only [slook]; split <;> simp_all
      · simp only [slook]

theorem slook_sdel (k : Nat) (m : Store α) (j : Nat) : slook (sdel k m) j = if k = j then none else slook m j := by
  induction m with
  | nil => simp [sdel, slook]
  | cons p t ih =>
    obtain ⟨i, w⟩ := p
    simp only [sdel] at ih ⊢
    by_cases h1 : i = k <;> by_cases h2 : i = j <;> by_cases h3 : k = j <;> simp_all [List.filter_cons, slook]

end Sys2Proof.Machine
end

