-- ==== Sys2Proof/Laws/Watched.lean ====
section
/-!
SUPPORT. What `State.Inv` reads of a state, the relation `Keeps` (slots, board and STATUS stay, canonical memories stay
canonical), and one lemma per function that says that it keeps them: accesses and the shared operations.
-/
namespace Sys2Proof.Machine

open Sys2Proof

/-- What the invariant `State.Inv` reads: the keys of the slots, the board, STATUS, the Gallery and device memory. -/
abbrev Watched := List Nat × Board × U64 × TMem × Dram

/-- What the invariant reads of a state. -/
def State.watched (s : State) : Watched := (s.clusters.map Prod.fst, s.board, s.host.status, s.gal, s.dram)

theorem watched_mk (a b c d e x cl g bc dr ac na rp er fi ho pg bo li rg se al bd) :
    (State.mk a b c d e x cl g bc dr ac na rp er fi ho pg bo li rg se al bd).watched = (cl.map Prod.fst, bd, ho.status, g,
      dr) := rfl

theorem watched_keys (s : State) : s.clusters.map Prod.fst = s.watched.1 := rfl

theorem watched_board (s : State) : s.board = s.watched.2.1 := rfl

theorem watched_status (s : State) : s.host.status = s.watched.2.2.1 := rfl

theorem watched_gal (s : State) : s.gal = s.watched.2.2.2.1 := rfl

theorem watched_dram (s : State) : s.dram = s.watched.2.2.2.2 := rfl
/-- What `State.Inv` reads, as parts of `State.watched`: for `simp` over record updates. -/
theorem watched_parts : (∀ (a b c d e x cl g bc dr ac na rp er fi ho pg bo li rg se al bd),
      (State.mk a b c d e x cl g bc dr ac na rp er fi ho pg bo li rg se al bd).watched = (cl.map Prod.fst, bd, ho.status, g,
        dr)) ∧
    (∀ s : State, s.clusters.map Prod.fst = s.watched.1) ∧ (∀ s : State, s.board = s.watched.2.1) ∧
    (∀ s : State, s.host.status = s.watched.2.2.1) ∧ (∀ s : State, s.gal = s.watched.2.2.2.1) ∧
      ∀ s : State, s.dram = s.watched.2.2.2.2 :=
  ⟨fun _ _ _ _ _ _ _ _ _ _ _ _ _ _ _ _ _ _ _ _ _ _ _ => rfl, fun _ => rfl, fun _ => rfl, fun _ => rfl, fun _ => rfl,
    fun _ => rfl⟩

@[simp] theorem watched_updCluster (s : State) (k : Nat) (f : Cluster → Cluster) :
    (s.updCluster k f).watched = s.watched := by
  simp [State.updCluster, watched_mk, State.watched, keys_smod]

/-- The memories of a state are in canonical form. -/
def Canonical (x : Watched) : Prop :=
    x.2.2.2.1.wf dtZero ∧ x.2.2.2.2.mem.wf dtZero ∧ swf 0#64 x.2.2.2.2.swMeta = true ∧ swf 1 x.2.2.2.2.grade = true

/-- The second keeps slots, board and STATUS of the first, and its memories are canonical if those of the first are. -/
def Keeps (a b : Watched) : Prop := b.1 = a.1 ∧ b.2.1 = a.2.1 ∧ b.2.2.1 = a.2.2.1 ∧ (Canonical a → Canonical b)

theorem Keeps.refl (a : Watched) : Keeps a a := ⟨rfl, rfl, rfl, id⟩

theorem Keeps.trans {a b c : Watched} (h : Keeps a b) (g : Keeps b c) : Keeps a c :=
  ⟨g.1.trans h.1, g.2.1.trans h.2.1, g.2.2.1.trans h.2.2.1, fun w => g.2.2.2 (h.2.2.2 w)⟩

/-- A next state keeps what was there. -/
def KeepsOut (o : Host.Outcome State Fault Refusal) (a : Watched) : Prop := ∀ t, o = .next t → Keeps a t.watched

@[simp] theorem keepsOut_next (t : State) (a : Watched) : KeepsOut (.next t) a ↔ Keeps a t.watched := by simp [KeepsOut]

@[simp] theorem keepsOut_fault (x : Fault) (a : Watched) : KeepsOut (.fault x) a := by simp [KeepsOut]

@[simp] theorem keepsOut_refused (x : Refusal) (a : Watched) : KeepsOut (.refused x) a := by simp [KeepsOut]

theorem keepsOut_short {a : Watched} (t : Trig) (s : State) (f : U64 → State → State)
    (h : Keeps a s.watched) (g : ∀ v, Keeps a (f v s).watched) : KeepsOut (short t s f) a := by
  unfold short; split <;> simp [h, g]

@[simp] theorem keepsOut_shortMe {a : Watched} (t : Trig) (s : State) (f : U64 → Core → Core)
    (h : Keeps a s.watched) : KeepsOut (shortMe t s f) a := by
  apply keepsOut_short _ _ _ h; simp [State.updMe, State.updMine, h]

theorem watched_foldl {α : Type} (f : State → α → State) (h : ∀ s x, (f s x).watched = s.watched) (l : List α) (s : State) :
    (l.foldl f s).watched = s.watched := by
  induction l generalizing s with
  | nil => rfl
  | cons x l ih => simp [ih, h]

theorem keeps_foldl {α : Type} {a : Watched} (f : State → α → State)
    (h : ∀ s x, Keeps a s.watched → Keeps a (f s x).watched) (l : List α) (s : State)
    (g : Keeps a s.watched) : Keeps a (l.foldl f s).watched := by
  induction l generalizing s with
  | nil => exact g
  | cons x l ih => exact ih _ (h _ _ g)

theorem keeps_foldl1 {α β : Type} {a : Watched} (f : State × β → α → State × β)
    (h : ∀ p x, Keeps a p.1.watched → Keeps a (f p x).1.watched) (l : List α) (p : State × β)
    (g : Keeps a p.1.watched) : Keeps a (l.foldl f p).1.watched := by
  induction l generalizing p with
  | nil => exact g
  | cons x l ih => exact ih _ (h _ _ g)

/-- The state with which an engine's action goes on keeps what was there. -/
def KeepsAct (x : EngAct) (a : Watched) : Prop := match x with | .go s _ => Keeps a s.watched | _ => True

@[simp] theorem keepsAct_go (s : State) (m : Cmd) (a : Watched) : KeepsAct (.go s m) a ↔ Keeps a s.watched := Iff.rfl

@[simp] theorem keepsAct_wait (x y) (a : Watched) : KeepsAct (.wait x y) a := trivial

@[simp] theorem keepsAct_hold (a : Watched) : KeepsAct .hold a := trivial

@[simp] theorem keepsAct_fault (x y z) (a : Watched) : KeepsAct (.fault x y z) a := trivial

theorem keeps_ite {a : Watched} {c : Prop} [Decidable c] {x y : State}
    (h : Keeps a x.watched) (g : Keeps a y.watched) : Keeps a (if c then x else y).watched := by split <;> assumption

theorem keeps_ite1 {β : Type} {a : Watched} {c : Prop} [Decidable c] {x y : State × β}
    (h : Keeps a x.1.watched) (g : Keeps a y.1.watched) : Keeps a (if c then x else y).1.watched := by split <;> assumption

theorem keepsAct_ite {a : Watched} {c : Prop} [Decidable c] {x y : EngAct} (h : KeepsAct x a) (g : KeepsAct y a) :
    KeepsAct (if c then x else y) a := by split <;> assumption

theorem keepsOut_ite {a : Watched} {c : Prop} [Decidable c] {x y : Host.Outcome State Fault Refusal}
    (h : KeepsOut x a) (g : KeepsOut y a) : KeepsOut (if c then x else y) a := by split <;> assumption

theorem KeepsAct.go {a : Watched} {s : State} {m : Cmd} (h : Keeps a s.watched) : KeepsAct (.go s m) a := h

@[simp] theorem watched_updMine (s : State) (f : Cluster → Cluster) : (State.updMine s f).watched = s.watched :=
    by simp [State.updMine]

@[simp] theorem watched_updMe (s : State) (f : Core → Core) : (State.updMe s f).watched = s.watched := by simp [State.updMe]

@[simp] theorem watched_raise (s : State) (cls code : Nat) (tval : U64) :
    (State.raise s cls code tval).watched = s.watched := by simp [State.raise]

@[simp] theorem watched_timing (s : State) (code : Nat) : (State.timing s code).watched = s.watched :=
    by simp [State.timing]

@[simp] theorem watched_askStall (s : State) : (State.askStall s).watched = s.watched := by simp [State.askStall]

@[simp] theorem watched_askWait (s : State) : (State.askWait s).watched = s.watched := by simp [State.askWait]

@[simp] theorem watched_askEngine (s : State) : (State.askEngine s).watched = s.watched := by simp [State.askEngine]

@[simp] theorem watched_report (s : State) (l : Nat) (x : Xlat) : (State.report s l x).watched = s.watched := by
  unfold State.report; split <;> rfl

@[simp] theorem watched_fresh (s : State) : (State.fresh s).watched = s.watched := rfl

@[simp] theorem keepsOut_execMove {wd : Watched} (du : BitVec 5) (ds : BitVec 6) (t : Trig) (s : State)
    (h : Keeps wd s.watched) : KeepsOut (execMove du ds t s) wd := by simp [execMove, h]

@[simp] theorem keepsOut_execSflagWrite {wd : Watched} (t : Trig) (s : State) (h : Keeps wd s.watched) :
    KeepsOut (execSflagWrite t s) wd := by simp [execSflagWrite, h]

@[simp] theorem watched_transfer (s : State) (target : Addr20) (bubble : Nat) (more : Core → Core) :
    (State.transfer s target bubble more).watched = s.watched := by
  unfold State.transfer; split <;> simp

@[simp] theorem keepsOut_execCtlPbr {wd : Watched} (t : Trig) (s : State) (h : Keeps wd s.watched) :
    KeepsOut (execCtlPbr t s) wd := by simp [execCtlPbr, h]

@[simp] theorem keepsOut_execCtlBr {wd : Watched} (t : Trig) (s : State) (h : Keeps wd s.watched) :
    KeepsOut (execCtlBr t s) wd :=
  keepsOut_short _ _ _ h (fun _ => keeps_ite (by simp [h]) h)

@[simp] theorem keepsOut_execCtlCall {wd : Watched} (t : Trig) (s : State) (h : Keeps wd s.watched) :
    KeepsOut (execCtlCall t s) wd :=
  keepsOut_short _ _ _ h (fun _ => keeps_ite (keeps_ite (by simp [h]) (by simp [h])) h)

@[simp] theorem keepsOut_execCtlRet {wd : Watched} (t : Trig) (s : State) (h : Keeps wd s.watched) :
    KeepsOut (execCtlRet t s) wd :=
  keepsOut_short _ _ _ h (fun _ => keeps_ite (by split <;> simp [h]) h)

@[simp] theorem keepsOut_execCtlJt {wd : Watched} (t : Trig) (s : State) (h : Keeps wd s.watched) :
    KeepsOut (execCtlJt t s) wd :=
  keepsOut_short _ _ _ h (fun _ => keeps_ite (by simp [h]) h)

@[simp] theorem keepsOut_execCtlLoop {wd : Watched} (t : Trig) (s : State) (h : Keeps wd s.watched) :
    KeepsOut (execCtlLoop t s) wd :=
  keepsOut_short _ _ _ h (fun _ => keeps_ite (by simp [h]) (by simp [h]))

@[simp] theorem keepsOut_execCtlTwait {wd : Watched} (t : Trig) (s : State) (h : Keeps wd s.watched) :
    KeepsOut (execCtlTwait t s) wd := by simp [execCtlTwait, h]

@[simp] theorem keepsOut_execCtlTpoll {wd : Watched} (t : Trig) (s : State) (h : Keeps wd s.watched) :
    KeepsOut (execCtlTpoll t s) wd := by simp [execCtlTpoll, h]

@[simp] theorem keepsOut_execCtlSkip {wd : Watched} (t : Trig) (s : State) (h : Keeps wd s.watched) :
    KeepsOut (execCtlSkip t s) wd := by simp [execCtlSkip, h]

@[simp] theorem keepsOut_execCtlLbrk {wd : Watched} (t : Trig) (s : State) (h : Keeps wd s.watched) :
    KeepsOut (execCtlLbrk t s) wd := by simp [execCtlLbrk, h]

@[simp] theorem keepsOut_predOp {wd : Watched} (f : Bool → Bool → Bool) (t : Trig) (s : State)
    (h : Keeps wd s.watched) : KeepsOut (predOp f t s) wd := by simp [predOp, h]

@[simp] theorem keepsOut_execCtlPand {wd : Watched} (t : Trig) (s : State) (h : Keeps wd s.watched) :
    KeepsOut (execCtlPand t s) wd := by simp [execCtlPand, h]

@[simp] theorem keepsOut_execCtlPor {wd : Watched} (t : Trig) (s : State) (h : Keeps wd s.watched) :
    KeepsOut (execCtlPor t s) wd := by simp [execCtlPor, h]

@[simp] theorem keepsOut_execCtlPxor {wd : Watched} (t : Trig) (s : State) (h : Keeps wd s.watched) :
    KeepsOut (execCtlPxor t s) wd := by simp [execCtlPxor, h]

@[simp] theorem watched_updErr (s : State) (k : Nat) (f : ErrBlock → ErrBlock) :
    (State.updErr s k f).watched = s.watched := rfl

@[simp] theorem watched_touch (s : State) (l : Loc) : (State.touch s l).watched = s.watched := by
  unfold State.touch; (repeat' split) <;> simp [watched_parts]

@[simp] theorem watched_countUnc (s : State) (l : Loc) : (State.countUnc s l).watched = s.watched := rfl

@[simp] theorem watched_forward (s : State) (a : Access) : (State.forward s a).watched = s.watched := rfl

@[simp] theorem watched_addAccess (s : State) (cls : BitVec 4) (loc : Loc) (op : AccOp) (ready : Bool) :
    (State.addAccess s cls loc op ready).watched = s.watched := rfl

@[simp] theorem watched_dropReplies (s : State) (ids : List Nat) : (State.dropReplies s ids).watched = s.watched := rfl

theorem wf_foldl_wr {dt : BitVec 16} (ws : List (Nat × Byte)) (a : Nat) {m : TMem}
    (h : m.wf dt) : (ws.foldl (fun m w => m.wr (a + w.1) w.2) m).wf dt := by
  induction ws generalizing m with
  | nil => exact h
  | cons w ws ih => exact ih (TMem.wf_wr _ _ h)

@[simp] theorem keys_mapsnd (cl : Store Cluster)
    (f : Nat × Cluster → Cluster) : (cl.map (fun p => (p.1, f p))).map Prod.fst = cl.map Prod.fst := by
  simp [List.map_map, Function.comp_def]

@[simp] theorem keeps_writeLoc {wd : Watched} (s : State) (l : Loc) (ws : List (Nat × Byte)) (tag : Option U16)
    (h : Keeps wd s.watched) :
    Keeps wd (s.writeLoc l ws tag).watched := by
  have ht : Keeps wd (s.touch l).watched := by simp [h]
  unfold State.writeLoc
  dsimp only
  generalize s.touch l = u at ht
  refine ht.trans ?_
  cases l <;> dsimp only <;> rw [watched_mk] <;> refine ⟨?_, rfl, rfl, fun w => ?_⟩
  · rfl
  · refine ⟨?_, w.2⟩; (repeat' split)
    · exact TMem.wf_wrTag _ _ (wf_foldl_wr _ _ w.1)
    · exact wf_foldl_wr _ _ w.1
    · exact wf_foldl_wr _ _ w.1
  · exact keys_mapsnd _ _
  · refine ⟨w.1, ?_, w.2.2⟩; (repeat' split)
    · exact TMem.wf_wrTag _ _ (wf_foldl_wr _ _ w.2.1)
    · exact wf_foldl_wr _ _ w.2.1
    · exact wf_foldl_wr _ _ w.2.1

@[simp] theorem keeps_poisonLoc {wd : Watched} (s : State) (l : Loc) (h : Keeps wd s.watched) :
    Keeps wd (s.poisonLoc l).watched := by
  refine h.trans ?_
  unfold State.poisonLoc
  generalize List.replicate 64 0#8 = z
  cases l <;> dsimp only <;> rw [watched_mk] <;> refine ⟨rfl, rfl, rfl, fun w => ?_⟩
  · exact ⟨TMem.wf_wrTag _ _ (TMem.wf_wrs _ _ w.1), w.2⟩
  · refine ⟨w.1, TMem.wf_wrTag _ _ (TMem.wf_wrs _ _ w.2.1), ?_, w.2.2.2⟩
    show swf 0#64 (sset 0#64 s.dram.swMeta _ 0#64) = true
    exact swf_sset _ _ w.2.2.1

@[simp] theorem watched_mended (s : State) (l : Loc) : (s.mended l).watched = s.watched := by
  unfold State.mended; split <;> rfl

@[simp] theorem keeps_eccRead {wd : Watched} (s : State) (l : Loc) (f : EccFind) (h : Keeps wd s.watched) :
    Keeps wd (s.eccRead l f).watched := by
  unfold State.eccRead; dsimp only; (repeat' split) <;> simp [h]

@[simp] theorem keeps_met {wd : Watched} (s : State) (l : Loc) (h : Keeps wd s.watched) : Keeps wd (s.met l).watched := by
  unfold State.met; exact keeps_ite (keeps_eccRead _ _ _ h) h

@[simp] theorem keeps_walked {wd : Watched} (s : State) (t : Team) (va : Nat) (h : Keeps wd s.watched) :
    Keeps wd (s.walked t va).watched := by
  unfold State.walked; exact keeps_ite h (keeps_foldl _ (fun _ _ g => keeps_met _ _ g) _ _ h)

@[simp] theorem keeps_windowMet {wd : Watched} (s : State) (t : Team) (a : Nat) (h : Keeps wd s.watched) :
    Keeps wd (s.windowMet t a).watched := by
  unfold State.windowMet; split
  · exact h
  · rename_i va _
    have hw : Keeps wd ((s.walked t va).report t.launch ((s.walked t va).translate t va)).watched := by simp [h]
    dsimp only
    split
    · exact keeps_met _ _ hw
    · exact hw

@[simp] theorem keeps_windowsMet {wd : Watched} (s : State) (t : Team) (as : List Nat) (h : Keeps wd s.watched) :
    Keeps wd (s.windowsMet t as).watched :=
  keeps_foldl _ (fun _ _ g => keeps_windowMet _ _ _ g) _ _ h

@[simp] theorem keeps_findAll {wd : Watched} (s : State) (fs : List (Loc × EccFind)) (h : Keeps wd s.watched) :
    Keeps wd (s.findAll fs).watched := by
  refine keeps_foldl _ (fun s x g => ?_) _ _ h
  have he := keeps_eccRead s x.1 x.2 g
  dsimp only; split
  · exact he
  · exact he

@[simp] theorem watched_updRing (s : State) (n : Nat) (f : Ring → Ring) : (State.updRing s n f).watched = s.watched := rfl

@[simp] theorem keeps_ringWord {wd : Watched} (s : State) (r : Ring) (off : Nat) (v : U32) (h : Keeps wd s.watched) :
    Keeps wd (s.ringWord r off v).watched := by
  unfold State.ringWord; split
  · exact keeps_writeLoc _ _ _ _ h
  · exact h

@[simp] theorem keeps_ringErr {wd : Watched} (s : State) (r : Ring) (bit : Nat) (h : Keeps wd s.watched) :
    Keeps wd (s.ringErr r bit).watched := keeps_ringWord _ _ _ _ h

@[simp] theorem keeps_ringKeep {wd : Watched} (s : State) (r : Ring) (l : Loc) (old : List Byte) (h : Keeps wd s.watched) :
    Keeps wd (s.ringKeep r l old).watched := keeps_writeLoc _ _ _ _ h

@[simp] theorem keeps_doorbell {wd : Watched} (s : State) (l : Loc) (ws : List (Nat × Byte)) (old : List Byte)
    (h : Keeps wd s.watched) : Keeps wd (s.doorbell l ws old).watched := by
  refine keeps_foldl _ (fun s n g => ?_) _ _ h
  split
  · exact g
  · split
    · exact g
    · rename_i r _ _ _ _
      have hk := keeps_ringKeep s r l old g
      dsimp only
      generalize s.ringKeep r l old = u at hk
      refine keeps_ite (keeps_ite (keeps_ite hk ?_) hk) g
      exact keeps_ringErr _ _ _ (keeps_ringWord _ _ _ _ hk)

@[simp] theorem keeps_writeTo {wd : Watched} (s : State) (l : Loc) (ws : List (Nat × Byte)) (tag : Option U16)
    (h : Keeps wd s.watched) : Keeps wd (s.writeTo l ws tag).watched := by
  unfold State.writeTo
  refine keeps_ite (by simp [h]) ?_
  exact keeps_doorbell _ _ _ _ (keeps_writeLoc _ _ _ _ h)

@[simp] theorem keeps_writeMeta {wd : Watched} (s : State) (l : Loc) (v : U64) (h : Keeps wd s.watched) :
    Keeps wd (s.writeMeta l v).watched := by
  refine h.trans ?_
  unfold State.writeMeta
  cases l
  · exact Keeps.refl _
  · exact ⟨rfl, rfl, rfl, fun w => ⟨w.1, w.2.1, swf_sset _ _ w.2.2.1, w.2.2.2⟩⟩

@[simp] theorem keeps_performStore {wd : Watched} (s : State) (l : Loc) (f : EccFind) (ws : List (Nat × Byte))
    (tag : Option U16) (h : Keeps wd s.watched) : Keeps wd (s.performStore l f ws tag).watched := by
  unfold State.performStore
  (repeat' split) <;> simp [h]

@[simp] theorem keeps_performAt {wd : Watched} (s : State) (a : Access) (f : EccFind) (h : Keeps wd s.watched) :
    Keeps wd (s.performAt a f).1.watched := by
  have he := keeps_eccRead s a.loc f h
  unfold State.performAt
  dsimp only
  generalize s.eccRead a.loc f = u at he
  (repeat' split) <;> dsimp only <;> first
    | exact he
    | exact keeps_performStore _ _ _ _ _ h
    | exact keeps_writeMeta _ _ _ (keeps_performStore _ _ _ _ _ h)
    | exact keeps_writeTo _ _ _ _ he
    | exact keeps_writeTo _ _ _ _ (he.trans ⟨rfl, rfl, rfl, id⟩)
    | exact keeps_writeMeta _ _ _ (by rw [watched_touch]; exact he)
    | (rw [watched_touch]; exact he)

@[simp] theorem watched_mixBytes (s : State) (a : Access) : (s.mixBytes a).watched = s.watched := by
  unfold State.mixBytes; split <;> rfl

@[simp] theorem watched_addParty (s : State) (p : Party) (cls : BitVec 4) (loc : Loc) (op : AccOp) (st : Stage) :
    (State.addParty s p cls loc op st).watched = s.watched := rfl

@[simp] theorem keeps_perform {wd : Watched} (s : State) (a : Access) (f : EccFind) (h : Keeps wd s.watched) :
    Keeps wd (s.perform a f).watched := by
  unfold State.perform
  exact keeps_performAt _ _ _ (by rw [watched_mixBytes]; exact h)

@[simp] theorem keeps_flush {wd : Watched} (s : State) (l : Loc) (h : Keeps wd s.watched) : Keeps wd (s.flush l).watched :=
    by
  unfold State.flush
  exact keeps_foldl _ (fun _ _ g => keeps_perform _ _ _ g) _ _ h

@[simp] theorem keeps_engineRead {wd : Watched} (s : State) (cls : BitVec 4) (l : Loc) (h : Keeps wd s.watched) :
    Keeps wd (s.engineRead cls l).1.watched := keeps_performAt _ _ _ (keeps_flush _ _ h)

@[simp] theorem keeps_engineWrite {wd : Watched} (s : State) (cls : BitVec 4) (l : Loc) (ws : List (Nat × Byte))
    (tag : Option U16) (h : Keeps wd s.watched) :
    Keeps wd (s.engineWrite cls l ws tag).watched := keeps_performAt _ _ _ (keeps_flush _ _ h)

end Sys2Proof.Machine
end

