-- ==== Sys2Proof/Laws/WatchedUnits.lean ====
section
/-!
SUPPORT. `Keeps` for the units, the engines and the shared parts of traps, saves and rings: one lemma per function.
-/
namespace Sys2Proof.Machine

open Sys2Proof

@[simp] theorem watched_addLsVec (s : State) (x : LsVec) : (State.addLsVec s x).watched = s.watched :=
    by simp [State.addLsVec]

@[simp] theorem watched_sendRequest (s : State) (launch : Nat) (id va : U64) (write : Bool) :
    (State.sendRequest s launch id va write).watched = s.watched := by
  unfold State.sendRequest; dsimp only; (repeat' split) <;> simp [watched_parts]

@[simp] theorem keepsOut_execLsXlat {wd : Watched} (t : Trig) (s : State) (h : Keeps wd s.watched) :
    KeepsOut (execLsXlat t s) wd := keepsOut_short _ _ _ h (fun _ => by
      rw [watched_updMe, watched_report]; exact keeps_walked _ _ _ h)

@[simp] theorem keepsOut_execLsFence {wd : Watched} (t : Trig) (s : State) (h : Keeps wd s.watched) :
    KeepsOut (execLsFence t s) wd := keepsOut_short _ _ _ h (fun _ => by simp [h])

@[simp] theorem keepsOut_execLsPreq {wd : Watched} (t : Trig) (s : State) (h : Keeps wd s.watched) :
    KeepsOut (execLsPreq t s) wd := by
  unfold execLsPreq
  refine keepsOut_short _ _ _ h (fun v => ?_)
  have hw := keeps_walked s s.myCluster.info v.toNat h
  have hp (f : Core → Core) : Keeps wd ((s.walked s.myCluster.info v.toNat).updMe f).watched := by
    rw [watched_updMe]; exact hw
  refine keeps_ite (by rw [watched_updMe]; exact h) ?_
  dsimp only
  split
  · rw [watched_updMe, watched_report]; exact hw
  · refine keeps_ite (hp _) ?_
    split
    · exact hp _
    · split
      · exact hp _
      · rw [watched_updMe, watched_sendRequest, watched_updMe]; exact hw

@[simp] theorem keepsOut_execLsPst {wd : Watched} (t : Trig) (s : State) (h : Keeps wd s.watched) :
    KeepsOut (execLsPst t s) wd := by
  unfold execLsPst
  refine keepsOut_short _ _ _ h (fun v => ?_)
  dsimp only; split <;> simp [h]

@[simp] theorem keepsOut_bankAccess {wd : Watched} (op : Nat) (far : Bool) (t : Trig) (s : State)
    (h : Keeps wd s.watched) : KeepsOut (bankAccess op far t s) wd :=
  keepsOut_short _ _ _ h (fun _ => keeps_ite (by simp [h]) (keeps_ite (by simp [h]) (by simp [h])))

@[simp] theorem keepsOut_execGaAdd {wd : Watched} (t : Trig) (s : State) (h : Keeps wd s.watched) :
    KeepsOut (execGaAdd t s) wd := by simp [execGaAdd, h]

@[simp] theorem keepsOut_execGaAnd {wd : Watched} (t : Trig) (s : State) (h : Keeps wd s.watched) :
    KeepsOut (execGaAnd t s) wd := by simp [execGaAnd, h]

@[simp] theorem keepsOut_execGaOr {wd : Watched} (t : Trig) (s : State) (h : Keeps wd s.watched) :
    KeepsOut (execGaOr t s) wd := by simp [execGaOr, h]

@[simp] theorem keepsOut_execGaXor {wd : Watched} (t : Trig) (s : State) (h : Keeps wd s.watched) :
    KeepsOut (execGaXor t s) wd := by simp [execGaXor, h]

@[simp] theorem keepsOut_execGaMaxs {wd : Watched} (t : Trig) (s : State) (h : Keeps wd s.watched) :
    KeepsOut (execGaMaxs t s) wd := by simp [execGaMaxs, h]

@[simp] theorem keepsOut_execGaMins {wd : Watched} (t : Trig) (s : State) (h : Keeps wd s.watched) :
    KeepsOut (execGaMins t s) wd := by simp [execGaMins, h]

@[simp] theorem keepsOut_execGaSwap {wd : Watched} (t : Trig) (s : State) (h : Keeps wd s.watched) :
    KeepsOut (execGaSwap t s) wd := by simp [execGaSwap, h]

@[simp] theorem keepsOut_execGaCas {wd : Watched} (t : Trig) (s : State) (h : Keeps wd s.watched) :
    KeepsOut (execGaCas t s) wd := by simp [execGaCas, h]

@[simp] theorem keepsOut_execGaFadd {wd : Watched} (t : Trig) (s : State) (h : Keeps wd s.watched) :
    KeepsOut (execGaFadd t s) wd := by simp [execGaFadd, h]

@[simp] theorem keepsOut_execGaFmax {wd : Watched} (t : Trig) (s : State) (h : Keeps wd s.watched) :
    KeepsOut (execGaFmax t s) wd := by simp [execGaFmax, h]

@[simp] theorem keepsOut_execGaMdraw {wd : Watched} (t : Trig) (s : State) (h : Keeps wd s.watched) :
    KeepsOut (execGaMdraw t s) wd := by simp [execGaMdraw, h]

@[simp] theorem keepsOut_execGaBar {wd : Watched} (t : Trig) (s : State) (h : Keeps wd s.watched) :
    KeepsOut (execGaBar t s) wd := by simp [execGaBar, h]

@[simp] theorem keepsOut_execGaAddFar {wd : Watched} (t : Trig) (s : State) (h : Keeps wd s.watched) :
    KeepsOut (execGaAddFar t s) wd := by simp [execGaAddFar, h]

@[simp] theorem keepsOut_execGaAndFar {wd : Watched} (t : Trig) (s : State) (h : Keeps wd s.watched) :
    KeepsOut (execGaAndFar t s) wd := by simp [execGaAndFar, h]

@[simp] theorem keepsOut_execGaOrFar {wd : Watched} (t : Trig) (s : State) (h : Keeps wd s.watched) :
    KeepsOut (execGaOrFar t s) wd := by simp [execGaOrFar, h]

@[simp] theorem keepsOut_execGaXorFar {wd : Watched} (t : Trig) (s : State) (h : Keeps wd s.watched) :
    KeepsOut (execGaXorFar t s) wd := by simp [execGaXorFar, h]

@[simp] theorem keepsOut_execGaMaxsFar {wd : Watched} (t : Trig) (s : State) (h : Keeps wd s.watched) :
    KeepsOut (execGaMaxsFar t s) wd := by simp [execGaMaxsFar, h]

@[simp] theorem keepsOut_execGaMinsFar {wd : Watched} (t : Trig) (s : State) (h : Keeps wd s.watched) :
    KeepsOut (execGaMinsFar t s) wd := by simp [execGaMinsFar, h]

@[simp] theorem keepsOut_execGaSwapFar {wd : Watched} (t : Trig) (s : State) (h : Keeps wd s.watched) :
    KeepsOut (execGaSwapFar t s) wd := by simp [execGaSwapFar, h]

@[simp] theorem keepsOut_execGaCasFar {wd : Watched} (t : Trig) (s : State) (h : Keeps wd s.watched) :
    KeepsOut (execGaCasFar t s) wd := by simp [execGaCasFar, h]

@[simp] theorem keepsOut_execGaFaddFar {wd : Watched} (t : Trig) (s : State) (h : Keeps wd s.watched) :
    KeepsOut (execGaFaddFar t s) wd := by simp [execGaFaddFar, h]

@[simp] theorem keepsOut_execGaFmaxFar {wd : Watched} (t : Trig) (s : State) (h : Keeps wd s.watched) :
    KeepsOut (execGaFmaxFar t s) wd := by simp [execGaFmaxFar, h]

@[simp] theorem keepsOut_execGaMdrawFar {wd : Watched} (t : Trig) (s : State) (h : Keeps wd s.watched) :
    KeepsOut (execGaMdrawFar t s) wd := by simp [execGaMdrawFar, h]

@[simp] theorem keepsOut_execGaBarFar {wd : Watched} (t : Trig) (s : State) (h : Keeps wd s.watched) :
    KeepsOut (execGaBarFar t s) wd := by simp [execGaBarFar, h]

@[simp] theorem watched_send (s : State) (ds : List Nat) : (State.send s ds).watched = s.watched := by simp [State.send]

@[simp] theorem keepsOut_execXcSnd {wd : Watched} (t : Trig) (s : State) (h : Keeps wd s.watched) :
    KeepsOut (execXcSnd t s) wd := keepsOut_short _ _ _ h (fun _ => by simp [h])

@[simp] theorem keepsOut_execXcBcs {wd : Watched} (t : Trig) (s : State) (h : Keeps wd s.watched) :
    KeepsOut (execXcBcs t s) wd := keepsOut_short _ _ _ h (fun _ => by simp [h])

@[simp] theorem keepsOut_execXcRcv {wd : Watched} (t : Trig) (s : State) (h : Keeps wd s.watched) :
    KeepsOut (execXcRcv t s) wd := keepsOut_short _ _ _ h (fun _ => by simp [h])

@[simp] theorem keepsOut_execXcSync {wd : Watched} (t : Trig) (s : State) (h : Keeps wd s.watched) :
    KeepsOut (execXcSync t s) wd := keepsOut_short _ _ _ h (fun _ => by simp [h])

@[simp] theorem watched_popStream (s : State) (x : OpSrc) : (State.popStream s x).1.watched = s.watched := by
  unfold State.popStream; dsimp only; (repeat' split) <;> simp

@[simp] theorem keepsOut_execVxShape {wd : Watched} (w : VWord) (s : State) (h : Keeps wd s.watched) :
    KeepsOut (execVxShape w s) wd := by
  unfold execVxShape; dsimp only; (repeat' split) <;> simp [h]

@[simp] theorem watched_popShort (s : State) (all : Bool) (x : OpSrc) : (State.popShort s all x).watched = s.watched := by
  unfold State.popShort; (repeat' split) <;> simp

theorem watched_popChunk {s : State} {all : Bool} {ahead : List OpSrc} {v : VOp} {x : OpSrc} {l : Lay} {n j : Nat}
    {r : State × OpSrc × List Elem × U32} (h : s.popChunk all ahead v x l n j = some r) : r.1.watched = s.watched := by
  unfold State.popChunk at h
  split at h
  · simp only [Option.some.injEq] at h; subst h; rfl
  · dsimp only at h
    split at h
    · simp only [Option.some.injEq] at h; subst h; rfl
    · simp only [Option.map_eq_some_iff] at h
      obtain ⟨_, _, h⟩ := h
      subst h; simp

@[simp] theorem watched_vxPop (s : State) (all : Bool) (ahead : List OpSrc) (v : VOp) (j : Nat) :
    (State.vxPop s all ahead v j).1.watched = s.watched := by
  unfold State.vxPop
  split
  · simp
  · rename_i h1
    dsimp only
    split
    · rw [watched_popShort]; exact watched_popChunk h1
    · rename_i h2; exact (watched_popChunk h2).trans (watched_popChunk h1)

theorem watched_foldl1 {α β : Type} (f : State × β → α → State × β) (h : ∀ p x, (f p x).1.watched = p.1.watched) (l : List α)
    (p : State × β) : (l.foldl f p).1.watched = p.1.watched := by
  induction l generalizing p with
  | nil => rfl
  | cons x l ih => simp [ih, h]

@[simp] theorem watched_vxStep (s : State) (all : Bool) (ahead : List OpSrc) (v : VOp) :
    (State.vxStep s all ahead v).1.watched = s.watched := by
  unfold State.vxStep
  split
  · rfl
  · exact watched_foldl1 _ (fun _ _ => by simp) _ _

@[simp] theorem keeps_vxWindows {wd : Watched} (s : State) (all : Bool) (v : VOp) (h : Keeps wd s.watched) :
    Keeps wd (State.vxWindows s all v).watched := by
  unfold State.vxWindows; exact keeps_ite h (keeps_windowsMet _ _ _ h)

@[simp] theorem keeps_vxReads {wd : Watched} (s : State) (all : Bool) (h : Keeps wd s.watched) :
    Keeps wd (State.vxReads s all).watched := by
  unfold State.vxReads
  rw [watched_updMe]
  exact keeps_foldl1 _ (fun p v g => by
    show Keeps wd (State.vxStep _ _ _ _).1.watched
    rw [watched_vxStep]; exact keeps_vxWindows _ _ _ g) _ _ h

@[simp] theorem watched_updAcc (s : State) (id : Nat) (f : Access → Access) : (State.updAcc s id f).watched = s.watched :=
    rfl

@[simp] theorem watched_pushTo (s : State) (k : Nat) (ls : List (List Byte × U16)) :
    (State.pushTo s k ls).watched = s.watched := by
  unfold State.pushTo; dsimp only; (repeat' split) <;> simp

@[simp] theorem watched_poisonRead (s : State) (b : Bool) : (State.poisonRead s b).watched = s.watched := by
  unfold State.poisonRead; split <;> simp

@[simp] theorem watched_lsTile (s : State) (x : LsVec) (j : Nat) : (State.lsTile s x j).watched = s.watched :=
    by simp [State.lsTile]

@[simp] theorem watched_lsDeliver (s : State) (x : LsVec) : (State.lsDeliver s x).1.watched = s.watched := by
  unfold State.lsDeliver; dsimp only; (repeat' split) <;> simp

@[simp] theorem keeps_bindStream {wd : Watched} (s : State) (z a : Nat) (h : Keeps wd s.watched) :
    Keeps wd (State.bindStream s z a).watched := by
  unfold State.bindStream; rw [watched_updMe]; exact keeps_windowsMet _ _ _ h

@[simp] theorem keepsOut_execQCfg {wd : Watched} (t : Trig) (s : State) (h : Keeps wd s.watched) :
    KeepsOut (execQCfg t s) wd := by simp [execQCfg, h]

@[simp] theorem keepsOut_execQClr {wd : Watched} (t : Trig) (s : State) (h : Keeps wd s.watched) :
    KeepsOut (execQClr t s) wd := by simp [execQClr, h]

@[simp] theorem keepsOut_execQCnt {wd : Watched} (t : Trig) (s : State) (h : Keeps wd s.watched) :
    KeepsOut (execQCnt t s) wd := by simp [execQCnt, h]

@[simp] theorem keepsOut_execQLink {wd : Watched} (t : Trig) (s : State) (h : Keeps wd s.watched) :
    KeepsOut (execQLink t s) wd := keepsOut_short _ _ _ h (fun _ => by simp [h])

@[simp] theorem keepsOut_execZSet {wd : Watched} (t : Trig) (s : State) (h : Keeps wd s.watched) :
    KeepsOut (execZSet t s) wd := by simp [execZSet, h]

@[simp] theorem keepsOut_execZRst {wd : Watched} (t : Trig) (s : State) (h : Keeps wd s.watched) :
    KeepsOut (execZRst t s) wd := by simp [execZRst, h]

@[simp] theorem keepsOut_execZPos {wd : Watched} (t : Trig) (s : State) (h : Keeps wd s.watched) :
    KeepsOut (execZPos t s) wd := by simp [execZPos, h]

@[simp] theorem keeps_startVer {wd : Watched} (s : State) (opc lat occ draws : Nat) (t : U64) (h : Keeps wd s.watched) :
    Keeps wd (State.startVer s opc lat occ draws t).watched := by
  unfold State.startVer; rw [watched_updMe]; exact keeps_windowsMet _ _ _ h

@[simp] theorem watched_verWrite (s : State) (a : Nat) (xs : List Val) : (State.verWrite s a xs).watched = s.watched :=
    by simp [State.verWrite]

@[simp] theorem watched_landVer (s : State) (o : VerOp) : (State.landVer s o).watched = s.watched := by
  unfold State.landVer; dsimp only; (repeat' split) <;> simp

@[simp] theorem keepsOut_execVerCfg {wd : Watched} (t : Trig) (s : State) (h : Keeps wd s.watched) :
    KeepsOut (execVerCfg t s) wd := by
  unfold execVerCfg
  repeat' first
    | assumption
    | (simp (maxDischargeDepth := 12) [*]; done)
    | refine keepsOut_short _ _ _ (by assumption) (fun _ => ?_)
    | refine keeps_foldl _ (fun _ _ _ => ?_) _ _ ?_
    | refine keeps_foldl1 _ (fun _ _ _ => ?_) _ _ ?_
    | split
    | dsimp only
    | simp only [watched_parts]
    | simp

@[simp] theorem keepsOut_execVerCand {wd : Watched} (t : Trig) (s : State) (h : Keeps wd s.watched) :
    KeepsOut (execVerCand t s) wd := by
  unfold execVerCand
  repeat' first
    | assumption
    | (simp (maxDischargeDepth := 12) [*]; done)
    | refine keepsOut_short _ _ _ (by assumption) (fun _ => ?_)
    | refine keeps_foldl _ (fun _ _ _ => ?_) _ _ ?_
    | refine keeps_foldl1 _ (fun _ _ _ => ?_) _ _ ?_
    | split
    | dsimp only
    | simp only [watched_parts]
    | simp

@[simp] theorem keepsOut_execVerChk {wd : Watched} (t : Trig) (s : State) (h : Keeps wd s.watched) :
    KeepsOut (execVerChk t s) wd := by
  unfold execVerChk
  repeat' first
    | assumption
    | (simp (maxDischargeDepth := 12) [*]; done)
    | refine keepsOut_short _ _ _ (by assumption) (fun _ => ?_)
    | refine keeps_foldl _ (fun _ _ _ => ?_) _ _ ?_
    | refine keeps_foldl1 _ (fun _ _ _ => ?_) _ _ ?_
    | split
    | dsimp only
    | simp only [watched_parts]
    | simp

@[simp] theorem keepsOut_execVerFin {wd : Watched} (t : Trig) (s : State) (h : Keeps wd s.watched) :
    KeepsOut (execVerFin t s) wd := by
  unfold execVerFin
  repeat' first
    | assumption
    | (simp (maxDischargeDepth := 12) [*]; done)
    | refine keepsOut_short _ _ _ (by assumption) (fun _ => ?_)
    | refine keeps_foldl _ (fun _ _ _ => ?_) _ _ ?_
    | refine keeps_foldl1 _ (fun _ _ _ => ?_) _ _ ?_
    | split
    | dsimp only
    | simp only [watched_parts]
    | simp

@[simp] theorem keepsOut_execVerSetf {wd : Watched} (t : Trig) (s : State) (h : Keeps wd s.watched) :
    KeepsOut (execVerSetf t s) wd := by
  unfold execVerSetf
  repeat' first
    | assumption
    | (simp (maxDischargeDepth := 12) [*]; done)
    | refine keepsOut_short _ _ _ (by assumption) (fun _ => ?_)
    | refine keeps_foldl _ (fun _ _ _ => ?_) _ _ ?_
    | refine keeps_foldl1 _ (fun _ _ _ => ?_) _ _ ?_
    | split
    | dsimp only
    | simp only [watched_parts]
    | simp

@[simp] theorem keepsOut_execVerStop {wd : Watched} (t : Trig) (s : State) (h : Keeps wd s.watched) :
    KeepsOut (execVerStop t s) wd := by
  unfold execVerStop
  repeat' first
    | assumption
    | (simp (maxDischargeDepth := 12) [*]; done)
    | refine keepsOut_short _ _ _ (by assumption) (fun _ => ?_)
    | refine keeps_foldl _ (fun _ _ _ => ?_) _ _ ?_
    | refine keeps_foldl1 _ (fun _ _ _ => ?_) _ _ ?_
    | split
    | dsimp only
    | simp only [watched_parts]
    | simp

theorem keepsOut_lsAccess {wd : Watched} (opc : Nat) (t : Trig) (s : State) (f : U64 → State → State)
    (h : Keeps wd s.watched)
    (g : ∀ v s, Keeps wd s.watched → Keeps wd (f v s).watched) : KeepsOut (lsAccess opc t s f) wd := by
  unfold lsAccess; exact keepsOut_short _ _ _ h (fun v => g _ _ (by simp [h]))

theorem keeps_checkLocal {wd : Watched} (s : State) (store : Bool) (a n : Nat) (k : BitVec 8 → State → State)
    (h : Keeps wd s.watched)
    (g : ∀ v t, Keeps wd t.watched → Keeps wd (k v t).watched) : Keeps wd (s.checkLocal store a n k).watched := by
  unfold State.checkLocal
  exact keeps_ite (by simp [h]) (g _ _ (keeps_ite (keeps_windowsMet _ _ _ h) h))

@[simp] theorem keepsOut_execLsLd {wd : Watched} (w : BitVec 2) (t : Trig) (s : State) (h : Keeps wd s.watched) :
    KeepsOut (execLsLd w t s) wd := by
  unfold execLsLd; apply keepsOut_lsAccess _ _ _ _ h; intro v s h; apply keeps_checkLocal _ _ _ _ _ h; intro v s h; dsimp only; (repeat' split) <;> simp [h]

@[simp] theorem keepsOut_execLsSt {wd : Watched} (w : BitVec 2) (t : Trig) (s : State) (h : Keeps wd s.watched) :
    KeepsOut (execLsSt w t s) wd := by
  unfold execLsSt; apply keepsOut_lsAccess _ _ _ _ h; intro v s h; apply keeps_checkLocal _ _ _ _ _ h; intro v s h; dsimp only; (repeat' split) <;> simp [h]

@[simp] theorem keepsOut_execLsLdd {wd : Watched} (t : Trig) (s : State) (h : Keeps wd s.watched) :
    KeepsOut (execLsLdd t s) wd := by
  unfold execLsLdd; apply keepsOut_lsAccess _ _ _ _ h; intro v s h; apply keeps_checkLocal _ _ _ _ _ h; intro v s h; dsimp only; (repeat' split) <;> simp [h]

@[simp] theorem keepsOut_execLsStd {wd : Watched} (t : Trig) (s : State) (h : Keeps wd s.watched) :
    KeepsOut (execLsStd t s) wd := by
  unfold execLsStd; apply keepsOut_lsAccess _ _ _ _ h; intro v s h; apply keeps_checkLocal _ _ _ _ _ h; intro v s h; dsimp only; (repeat' split) <;> simp [h]

@[simp] theorem keeps_scalarAccess {wd : Watched} (s : State) (lat : Nat) (cls : BitVec 4) (loc : Nat → Loc) (a n : Nat)
    (bytes : Option (List Byte)) (h : Keeps wd s.watched) : Keeps wd (s.scalarAccess lat cls loc a n bytes).watched := by
  unfold State.scalarAccess; dsimp only; rw [watched_updMe]
  refine keeps_foldl1 _ ?_ _ _ h
  intro p x h; (repeat' split) <;> simp [h]

@[simp] theorem keepsOut_galAccess {wd : Watched} (opc lat : Nat) (store : Bool) (w : BitVec 2) (t : Trig) (s : State)
    (h : Keeps wd s.watched) :
    KeepsOut (galAccess opc lat store w t s) wd := by
  unfold galAccess; apply keepsOut_lsAccess _ _ _ _ h; intro v s h; dsimp only; (repeat' split) <;> simp [h]

theorem keeps_checkHandle {wd : Watched} (s : State) (store : Bool) (t n : Nat) (r k : State)
    (h : Keeps wd s.watched) (h1 : Keeps wd r.watched) (h2 : Keeps wd k.watched) :
    Keeps wd (s.checkHandle store t n r k).watched := by
  unfold State.checkHandle; dsimp only
  (repeat' split) <;> first | exact h1 | exact h2 | simp [h]

@[simp] theorem keepsOut_handleAccess {wd : Watched} (opc : Nat) (store : Bool) (w : BitVec 2) (t : Trig) (s : State)
    (h : Keeps wd s.watched) :
    KeepsOut (handleAccess opc store w t s) wd := by
  unfold handleAccess; apply keepsOut_lsAccess _ _ _ _ h; intro v s h; dsimp only; apply keeps_checkHandle <;> simp [h]

@[simp] theorem keepsOut_metaAccess {wd : Watched} (opc : Nat) (store : Bool) (t : Trig) (s : State)
    (h : Keeps wd s.watched) :
    KeepsOut (metaAccess opc store t s) wd := by
  unfold metaAccess; apply keepsOut_lsAccess _ _ _ _ h; intro v s h; dsimp only; apply keeps_checkHandle <;> simp [h]

theorem keepsOut_lsVector {wd : Watched} (opc : Nat) (store handle : Bool) (t : Trig) (s : State)
    (f : Nat → LsVec → State → State) (h : Keeps wd s.watched)
    (g : ∀ n v s, Keeps wd s.watched → Keeps wd (f n v s).watched) : KeepsOut (lsVector opc store handle t s f) wd := by
  unfold lsVector; apply keepsOut_lsAccess _ _ _ _ h; intro v s h; exact g _ _ _ h

@[simp] theorem keepsOut_localVector {wd : Watched} (opc : Nat) (store : Bool) (t : Trig) (s : State)
    (h : Keeps wd s.watched) :
    KeepsOut (localVector opc store t s) wd := by
  unfold localVector; apply keepsOut_lsVector _ _ _ _ _ _ h; intro n v s h; dsimp only; (repeat' split) <;> simp [h]

@[simp] theorem keepsOut_handleVector {wd : Watched} (opc : Nat) (store : Bool) (t : Trig) (s : State)
    (h : Keeps wd s.watched) :
    KeepsOut (handleVector opc store t s) wd := by
  unfold handleVector; apply keepsOut_lsVector _ _ _ _ _ _ h; intro n v s h; dsimp only
  (repeat' split) <;>
    first | (simp [h]; done) | (simp only [watched_addLsVec]; exact keeps_foldl1 _ (fun p x h => by simp [h]) _ _ h)

@[simp] theorem keeps_loadHandle {wd : Watched} (s : State) (x : OpSrc) (l : Lay) (n : Nat) (cls : BitVec 4)
    (h : Keeps wd s.watched) :
    Keeps wd (s.loadHandle x l n cls).1.watched := by
  unfold State.loadHandle; dsimp only; exact keeps_foldl1 _ (fun p x h => by simp [h]) _ _ h

@[simp] theorem keeps_openStores {wd : Watched} (s : State) (v : VOp) (h : Keeps wd s.watched) :
    Keeps wd (s.openStores v).1.watched := by
  unfold State.openStores; split
  · exact keeps_foldl1 _ (fun p x h => by simp [h]) _ _ h
  · exact h

@[simp] theorem keeps_takeOp {wd : Watched} (s : State) (x : OpSrc) (l : Lay) (n : Nat) (cls : BitVec 4)
    (h : Keeps wd s.watched) :
    Keeps wd (s.takeOp x l n cls).s.watched := by
  unfold State.takeOp; dsimp only; (repeat' split) <;> simp [h]

@[simp] theorem keeps_startVx {wd : Watched} (s : State) (v : VOp) (h : Keeps wd s.watched) :
    Keeps wd (s.startVx v).watched := by
  unfold State.startVx; dsimp only; rw [watched_updMe]; apply keeps_openStores; split <;>
    repeat (first | exact h | apply keeps_takeOp)

@[simp] theorem keepsOut_vxIssue {wd : Watched} (opc : Nat) (w : VWord) (s : State) (h : Keeps wd s.watched) :
    KeepsOut (vxIssue opc w s) wd := by
  unfold vxIssue; dsimp only; (repeat' split) <;> simp [h]

@[simp] theorem keepsOut_execLsLdn {wd : Watched} (w : BitVec 2) (t : Trig) (s : State) (h : Keeps wd s.watched) :
    KeepsOut (execLsLdn w t s) wd := by simp [execLsLdn, h]

@[simp] theorem keepsOut_execLsLdf {wd : Watched} (w : BitVec 2) (t : Trig) (s : State) (h : Keeps wd s.watched) :
    KeepsOut (execLsLdf w t s) wd := by simp [execLsLdf, h]

@[simp] theorem keepsOut_execLsStn {wd : Watched} (w : BitVec 2) (t : Trig) (s : State) (h : Keeps wd s.watched) :
    KeepsOut (execLsStn w t s) wd := by simp [execLsStn, h]

@[simp] theorem keepsOut_execLsStf {wd : Watched} (w : BitVec 2) (t : Trig) (s : State) (h : Keeps wd s.watched) :
    KeepsOut (execLsStf w t s) wd := by simp [execLsStf, h]

@[simp] theorem keepsOut_execLsLdh {wd : Watched} (w : BitVec 2) (t : Trig) (s : State) (h : Keeps wd s.watched) :
    KeepsOut (execLsLdh w t s) wd := by simp [execLsLdh, h]

@[simp] theorem keepsOut_execLsSth {wd : Watched} (w : BitVec 2) (t : Trig) (s : State) (h : Keeps wd s.watched) :
    KeepsOut (execLsSth w t s) wd := by simp [execLsSth, h]

@[simp] theorem keepsOut_execLsVld {wd : Watched} (t : Trig) (s : State) (h : Keeps wd s.watched) :
    KeepsOut (execLsVld t s) wd := by simp [execLsVld, h]

@[simp] theorem keepsOut_execLsVst {wd : Watched} (t : Trig) (s : State) (h : Keeps wd s.watched) :
    KeepsOut (execLsVst t s) wd := by simp [execLsVst, h]

@[simp] theorem keepsOut_execLsVldh {wd : Watched} (t : Trig) (s : State) (h : Keeps wd s.watched) :
    KeepsOut (execLsVldh t s) wd := by simp [execLsVldh, h]

@[simp] theorem keepsOut_execLsVsth {wd : Watched} (t : Trig) (s : State) (h : Keeps wd s.watched) :
    KeepsOut (execLsVsth t s) wd := by simp [execLsVsth, h]

@[simp] theorem keepsOut_execLsMeta {wd : Watched} (t : Trig) (s : State) (h : Keeps wd s.watched) :
    KeepsOut (execLsMeta t s) wd := by simp [execLsMeta, h]

@[simp] theorem keepsOut_execLsSetmeta {wd : Watched} (t : Trig) (s : State) (h : Keeps wd s.watched) :
    KeepsOut (execLsSetmeta t s) wd := by simp [execLsSetmeta, h]

@[simp] theorem keepsOut_execVxMov {wd : Watched} (w : VWord) (s : State) (h : Keeps wd s.watched) :
    KeepsOut (execVxMov w s) wd := by simp [execVxMov, h]

@[simp] theorem keepsOut_execVxAdd {wd : Watched} (w : VWord) (s : State) (h : Keeps wd s.watched) :
    KeepsOut (execVxAdd w s) wd := by simp [execVxAdd, h]

@[simp] theorem keepsOut_execVxSub {wd : Watched} (w : VWord) (s : State) (h : Keeps wd s.watched) :
    KeepsOut (execVxSub w s) wd := by simp [execVxSub, h]

@[simp] theorem keepsOut_execVxMul {wd : Watched} (w : VWord) (s : State) (h : Keeps wd s.watched) :
    KeepsOut (execVxMul w s) wd := by simp [execVxMul, h]

@[simp] theorem keepsOut_execVxMulz {wd : Watched} (w : VWord) (s : State) (h : Keeps wd s.watched) :
    KeepsOut (execVxMulz w s) wd := by simp [execVxMulz, h]

@[simp] theorem keepsOut_execVxDiv {wd : Watched} (w : VWord) (s : State) (h : Keeps wd s.watched) :
    KeepsOut (execVxDiv w s) wd := by simp [execVxDiv, h]

@[simp] theorem keepsOut_execVxMin {wd : Watched} (w : VWord) (s : State) (h : Keeps wd s.watched) :
    KeepsOut (execVxMin w s) wd := by simp [execVxMin, h]

@[simp] theorem keepsOut_execVxMax {wd : Watched} (w : VWord) (s : State) (h : Keeps wd s.watched) :
    KeepsOut (execVxMax w s) wd := by simp [execVxMax, h]

@[simp] theorem keepsOut_execVxAbs {wd : Watched} (w : VWord) (s : State) (h : Keeps wd s.watched) :
    KeepsOut (execVxAbs w s) wd := by simp [execVxAbs, h]

@[simp] theorem keepsOut_execVxNeg {wd : Watched} (w : VWord) (s : State) (h : Keeps wd s.watched) :
    KeepsOut (execVxNeg w s) wd := by simp [execVxNeg, h]

@[simp] theorem keepsOut_execVxAnd {wd : Watched} (w : VWord) (s : State) (h : Keeps wd s.watched) :
    KeepsOut (execVxAnd w s) wd := by simp [execVxAnd, h]

@[simp] theorem keepsOut_execVxOr {wd : Watched} (w : VWord) (s : State) (h : Keeps wd s.watched) :
    KeepsOut (execVxOr w s) wd := by simp [execVxOr, h]

@[simp] theorem keepsOut_execVxXor {wd : Watched} (w : VWord) (s : State) (h : Keeps wd s.watched) :
    KeepsOut (execVxXor w s) wd := by simp [execVxXor, h]

@[simp] theorem keepsOut_execVxShl {wd : Watched} (w : VWord) (s : State) (h : Keeps wd s.watched) :
    KeepsOut (execVxShl w s) wd := by simp [execVxShl, h]

@[simp] theorem keepsOut_execVxShr {wd : Watched} (w : VWord) (s : State) (h : Keeps wd s.watched) :
    KeepsOut (execVxShr w s) wd := by simp [execVxShr, h]

@[simp] theorem keepsOut_execVxSar {wd : Watched} (w : VWord) (s : State) (h : Keeps wd s.watched) :
    KeepsOut (execVxSar w s) wd := by simp [execVxSar, h]

@[simp] theorem keepsOut_execVxFma {wd : Watched} (w : VWord) (s : State) (h : Keeps wd s.watched) :
    KeepsOut (execVxFma w s) wd := by simp [execVxFma, h]

@[simp] theorem keepsOut_execVxFms {wd : Watched} (w : VWord) (s : State) (h : Keeps wd s.watched) :
    KeepsOut (execVxFms w s) wd := by simp [execVxFms, h]

@[simp] theorem keepsOut_execVxFnma {wd : Watched} (w : VWord) (s : State) (h : Keeps wd s.watched) :
    KeepsOut (execVxFnma w s) wd := by simp [execVxFnma, h]

@[simp] theorem keepsOut_execVxSel {wd : Watched} (w : VWord) (s : State) (h : Keeps wd s.watched) :
    KeepsOut (execVxSel w s) wd := by simp [execVxSel, h]

@[simp] theorem keepsOut_execVxCeq {wd : Watched} (w : VWord) (s : State) (h : Keeps wd s.watched) :
    KeepsOut (execVxCeq w s) wd := by simp [execVxCeq, h]

@[simp] theorem keepsOut_execVxCne {wd : Watched} (w : VWord) (s : State) (h : Keeps wd s.watched) :
    KeepsOut (execVxCne w s) wd := by simp [execVxCne, h]

@[simp] theorem keepsOut_execVxClt {wd : Watched} (w : VWord) (s : State) (h : Keeps wd s.watched) :
    KeepsOut (execVxClt w s) wd := by simp [execVxClt, h]

@[simp] theorem keepsOut_execVxCle {wd : Watched} (w : VWord) (s : State) (h : Keeps wd s.watched) :
    KeepsOut (execVxCle w s) wd := by simp [execVxCle, h]

@[simp] theorem keepsOut_execVxCnan {wd : Watched} (w : VWord) (s : State) (h : Keeps wd s.watched) :
    KeepsOut (execVxCnan w s) wd := by simp [execVxCnan, h]

@[simp] theorem keepsOut_execVxMget {wd : Watched} (w : VWord) (s : State) (h : Keeps wd s.watched) :
    KeepsOut (execVxMget w s) wd := by simp [execVxMget, h]

@[simp] theorem keepsOut_execVxMput {wd : Watched} (w : VWord) (s : State) (h : Keeps wd s.watched) :
    KeepsOut (execVxMput w s) wd := by simp [execVxMput, h]

@[simp] theorem keepsOut_execVxMcnt {wd : Watched} (w : VWord) (s : State) (h : Keeps wd s.watched) :
    KeepsOut (execVxMcnt w s) wd := by simp [execVxMcnt, h]

@[simp] theorem keepsOut_execVxExp2 {wd : Watched} (w : VWord) (s : State) (h : Keeps wd s.watched) :
    KeepsOut (execVxExp2 w s) wd := by simp [execVxExp2, h]

@[simp] theorem keepsOut_execVxLog2 {wd : Watched} (w : VWord) (s : State) (h : Keeps wd s.watched) :
    KeepsOut (execVxLog2 w s) wd := by simp [execVxLog2, h]

@[simp] theorem keepsOut_execVxRcp {wd : Watched} (w : VWord) (s : State) (h : Keeps wd s.watched) :
    KeepsOut (execVxRcp w s) wd := by simp [execVxRcp, h]

@[simp] theorem keepsOut_execVxRsqrt {wd : Watched} (w : VWord) (s : State) (h : Keeps wd s.watched) :
    KeepsOut (execVxRsqrt w s) wd := by simp [execVxRsqrt, h]

@[simp] theorem keepsOut_execVxSqrt {wd : Watched} (w : VWord) (s : State) (h : Keeps wd s.watched) :
    KeepsOut (execVxSqrt w s) wd := by simp [execVxSqrt, h]

@[simp] theorem keepsOut_execVxExp {wd : Watched} (w : VWord) (s : State) (h : Keeps wd s.watched) :
    KeepsOut (execVxExp w s) wd := by simp [execVxExp, h]

@[simp] theorem keepsOut_execVxTanh {wd : Watched} (w : VWord) (s : State) (h : Keeps wd s.watched) :
    KeepsOut (execVxTanh w s) wd := by simp [execVxTanh, h]

@[simp] theorem keepsOut_execVxSigm {wd : Watched} (w : VWord) (s : State) (h : Keeps wd s.watched) :
    KeepsOut (execVxSigm w s) wd := by simp [execVxSigm, h]

@[simp] theorem keepsOut_execVxSilu {wd : Watched} (w : VWord) (s : State) (h : Keeps wd s.watched) :
    KeepsOut (execVxSilu w s) wd := by simp [execVxSilu, h]

@[simp] theorem keepsOut_execVxGelu {wd : Watched} (w : VWord) (s : State) (h : Keeps wd s.watched) :
    KeepsOut (execVxGelu w s) wd := by simp [execVxGelu, h]

@[simp] theorem keepsOut_execVxSin {wd : Watched} (w : VWord) (s : State) (h : Keeps wd s.watched) :
    KeepsOut (execVxSin w s) wd := by simp [execVxSin, h]

@[simp] theorem keepsOut_execVxCos {wd : Watched} (w : VWord) (s : State) (h : Keeps wd s.watched) :
    KeepsOut (execVxCos w s) wd := by simp [execVxCos, h]

@[simp] theorem keepsOut_execVxRsum {wd : Watched} (w : VWord) (s : State) (h : Keeps wd s.watched) :
    KeepsOut (execVxRsum w s) wd := by simp [execVxRsum, h]

@[simp] theorem keepsOut_execVxRmax {wd : Watched} (w : VWord) (s : State) (h : Keeps wd s.watched) :
    KeepsOut (execVxRmax w s) wd := by simp [execVxRmax, h]

@[simp] theorem keepsOut_execVxRmin {wd : Watched} (w : VWord) (s : State) (h : Keeps wd s.watched) :
    KeepsOut (execVxRmin w s) wd := by simp [execVxRmin, h]

@[simp] theorem keepsOut_execVxRmaxi {wd : Watched} (w : VWord) (s : State) (h : Keeps wd s.watched) :
    KeepsOut (execVxRmaxi w s) wd := by simp [execVxRmaxi, h]

@[simp] theorem keepsOut_execVxScan {wd : Watched} (w : VWord) (s : State) (h : Keeps wd s.watched) :
    KeepsOut (execVxScan w s) wd := by simp [execVxScan, h]

@[simp] theorem keepsOut_execVxTrn {wd : Watched} (w : VWord) (s : State) (h : Keeps wd s.watched) :
    KeepsOut (execVxTrn w s) wd := by simp [execVxTrn, h]

@[simp] theorem keepsOut_execVxGth {wd : Watched} (w : VWord) (s : State) (h : Keeps wd s.watched) :
    KeepsOut (execVxGth w s) wd := by simp [execVxGth, h]

@[simp] theorem keepsOut_execVxSct {wd : Watched} (w : VWord) (s : State) (h : Keeps wd s.watched) :
    KeepsOut (execVxSct w s) wd := by simp [execVxSct, h]

@[simp] theorem keepsOut_execVxDot {wd : Watched} (w : VWord) (s : State) (h : Keeps wd s.watched) :
    KeepsOut (execVxDot w s) wd := by simp [execVxDot, h]

@[simp] theorem keepsOut_execVxCvt {wd : Watched} (w : VWord) (s : State) (h : Keeps wd s.watched) :
    KeepsOut (execVxCvt w s) wd := by simp [execVxCvt, h]

@[simp] theorem keepsOut_execVxBndLip {wd : Watched} (w : VWord) (s : State) (h : Keeps wd s.watched) :
    KeepsOut (execVxBndLip w s) wd := by simp [execVxBndLip, h]

@[simp] theorem keepsOut_execVxBndCvt {wd : Watched} (w : VWord) (s : State) (h : Keeps wd s.watched) :
    KeepsOut (execVxBndCvt w s) wd := by simp [execVxBndCvt, h]

@[simp] theorem keepsOut_execVxBndAdd {wd : Watched} (w : VWord) (s : State) (h : Keeps wd s.watched) :
    KeepsOut (execVxBndAdd w s) wd := by simp [execVxBndAdd, h]

@[simp] theorem keepsOut_execVxClamp {wd : Watched} (w : VWord) (s : State) (h : Keeps wd s.watched) :
    KeepsOut (execVxClamp w s) wd := by simp [execVxClamp, h]

@[simp] theorem keeps_lsStep {wd : Watched} (s : State) (x : LsVec) (j : Nat) (h : Keeps wd s.watched) :
    Keeps wd (State.lsStep s x j).1.watched := by
  unfold State.lsStep
  repeat' first
    | assumption
    | (simp (maxDischargeDepth := 12) [*]; done)
    | refine keepsOut_short _ _ _ (by assumption) (fun _ => ?_)
    | refine keeps_foldl _ (fun _ _ _ => ?_) _ _ ?_
    | refine keeps_foldl1 _ (fun _ _ _ => ?_) _ _ ?_
    | split
    | dsimp only
    | simp only [watched_parts]
    | simp

@[simp] theorem keepsOut_verShort {wd : Watched} (t : Trig) (s : State) (f : U64 → State → State) (h : Keeps wd s.watched)
    (g : ∀ v s, Keeps wd s.watched → Keeps wd (f v s).watched) : KeepsOut (verShort t s f) wd := by
  unfold verShort; exact keepsOut_short _ _ _ h (fun v => by split <;> simp [h, g])

@[simp] theorem keeps_verStep {wd : Watched} (s : State) (h : Keeps wd s.watched) : Keeps wd (s.verStep).watched := by
  unfold State.verStep
  have hu (f : Core → Core) : Keeps wd (s.updMe f).watched := by rw [watched_updMe]; exact h
  refine keeps_ite (hu _) ?_
  rw [watched_updMe]; exact keeps_foldl _ (fun _ _ h => by simp [h]) _ _ (hu _)

@[simp] theorem keeps_storeLines {wd : Watched} (s : State) (v : VOp) (n : Nat) (o) (h : Keeps wd s.watched) :
    Keeps wd (s.storeLines v n o).watched := by
  unfold State.storeLines
  repeat' first
    | assumption
    | (simp (maxDischargeDepth := 12) [*]; done)
    | refine keepsOut_short _ _ _ (by assumption) (fun _ => ?_)
    | refine keeps_foldl _ (fun _ _ _ => ?_) _ _ ?_
    | refine keeps_foldl1 _ (fun _ _ _ => ?_) _ _ ?_
    | split
    | dsimp only
    | simp only [watched_parts]
    | simp

@[simp] theorem keeps_vxPut {wd : Watched} (s : State) (v : VOp) (n : Nat) (m : Made) (w : Writes) (h : Keeps wd s.watched) :
    Keeps wd (s.vxPut v n m w).watched := by
  unfold State.vxPut; dsimp only; (repeat' split) <;> simp [h]

@[simp] theorem keeps_vxDeliver {wd : Watched} (s : State) (pos : Nat) (v : VOp) (h : Keeps wd s.watched) :
    Keeps wd (s.vxDeliver pos v).1.watched := by
  unfold State.vxDeliver; (repeat' split) <;> simp [h]

@[simp] theorem keeps_vxDelivers {wd : Watched} (s : State) (h : Keeps wd s.watched) : Keeps wd s.vxDelivers.watched := by
  unfold State.vxDelivers
  rw [watched_updMe, watched_dropReplies]
  exact keeps_foldl1 _ (fun p x h => by exact keeps_vxDeliver p.1 x.2 x.1 h) _ _ h

@[simp] theorem keeps_lsReads {wd : Watched} (s : State) (b : Bool) (h : Keeps wd s.watched) :
    Keeps wd (s.lsReads b).watched := by
  unfold State.lsReads
  rw [watched_updMe]
  refine keeps_foldl1 _ (fun _ _ h => ?_) _ _ h
  refine keeps_foldl1 _ (fun _ _ h => ?_) _ _ h
  exact keeps_lsStep _ _ _ h

@[simp] theorem keeps_lsDelivers {wd : Watched} (s : State) (h : Keeps wd s.watched) : Keeps wd s.lsDelivers.watched := by
  unfold State.lsDelivers
  rw [watched_updMe, watched_dropReplies]
  exact keeps_foldl1 _ (fun _ _ h => by rw [watched_lsDeliver]; exact h) _ _ h

@[simp] theorem watched_enter (s : State) (k : EngKind) (c : Cmd) : (State.enter s k c).watched = s.watched :=
    by simp [State.enter]

@[simp] theorem watched_raiseEng (s : State) (cls code : Nat) (tval : U64) :
    (State.raiseEng s cls code tval).watched = s.watched := by simp [State.raiseEng]

@[simp] theorem watched_finish (s : State) (k : EngKind) (pos : Nat) (m : Cmd) (status offset : Nat) (ckv : U32) (flags : U32) : (State.finish s k pos m status offset ckv flags).watched = s.watched := by
  unfold State.finish; dsimp only; (repeat' split) <;> simp

@[simp] theorem keepsOut_engIssue {wd : Watched} (i : Instr) (keys : List Nat)
    (mask : Core → BitVec 4096) (more : Core → Core) (s : State) (h : Keeps wd s.watched) :
      KeepsOut (engIssue i keys mask more s) wd := by
  unfold engIssue; (repeat' split) <;> simp [h]

@[simp] theorem keeps_missQueue {wd : Watched} (s : State) (b : Bool) (k : EngKind) (h : Keeps wd s.watched) :
    Keeps wd (State.missQueue s b k).watched := by
  unfold State.missQueue
  repeat' first
    | assumption
    | (simp (maxDischargeDepth := 12) [*]; done)
    | refine keepsOut_short _ _ _ (by assumption) (fun _ => ?_)
    | refine keeps_foldl _ (fun _ _ _ => ?_) _ _ ?_
    | refine keeps_foldl1 _ (fun _ _ _ => ?_) _ _ ?_
    | split
    | dsimp only
    | simp only [watched_parts]
    | simp

@[simp] theorem keeps_engPut {wd : Watched} (s : State) (m : Cmd) (x : OpSrc) (l : Lay) (rs : List Res)
    (h : Keeps wd s.watched) : Keeps wd (State.engPut s m x l rs).1.watched := by
  unfold State.engPut
  repeat' first
    | assumption
    | (simp (maxDischargeDepth := 12) [*]; done)
    | refine keepsOut_short _ _ _ (by assumption) (fun _ => ?_)
    | refine keeps_foldl _ (fun _ _ _ => ?_) _ _ ?_
    | refine keeps_foldl1 _ (fun _ _ _ => ?_) _ _ ?_
    | split
    | dsimp only
    | simp only [watched_parts]
    | simp

@[simp] theorem watched_mxFinish (s : State) (m : Cmd) (opc : Nat) (w : MxWord) :
    (State.mxFinish s m opc w).watched = s.watched := by
  unfold State.mxFinish; (repeat' split) <;> simp

@[simp] theorem keepsOut_mxIssue {wd : Watched} (i : Instr) (w : MxWord) (s : State) (h : Keeps wd s.watched) :
    KeepsOut (mxIssue i w s) wd := by simp [mxIssue, h]

@[simp] theorem keepsOut_execMxStep {wd : Watched} (w : MxWord) (s : State) (h : Keeps wd s.watched) :
    KeepsOut (execMxStep w s) wd := by simp [execMxStep, h]

@[simp] theorem keepsOut_execMxRes {wd : Watched} (w : MxWord) (s : State) (h : Keeps wd s.watched) :
    KeepsOut (execMxRes w s) wd := by simp [execMxRes, h]

@[simp] theorem keepsOut_execMxZero {wd : Watched} (w : MxWord) (s : State) (h : Keeps wd s.watched) :
    KeepsOut (execMxZero w s) wd := by simp [execMxZero, h]

@[simp] theorem keepsOut_execMxDrain {wd : Watched} (w : MxWord) (s : State) (h : Keeps wd s.watched) :
    KeepsOut (execMxDrain w s) wd := by simp [execMxDrain, h]

@[simp] theorem keepsOut_execMxAssay {wd : Watched} (w : MxWord) (s : State) (h : Keeps wd s.watched) :
    KeepsOut (execMxAssay w s) wd := by simp [execMxAssay, h]

@[simp] theorem keepsOut_execMxCurGet {wd : Watched} (w : MxWord) (s : State) (h : Keeps wd s.watched) :
    KeepsOut (execMxCurGet w s) wd := by simp [execMxCurGet, h]

@[simp] theorem keepsOut_execMxCurSet {wd : Watched} (w : MxWord) (s : State) (h : Keeps wd s.watched) :
    KeepsOut (execMxCurSet w s) wd := by simp [execMxCurSet, h]

@[simp] theorem keepsOut_execMxBias {wd : Watched} (w : MxWord) (s : State) (h : Keeps wd s.watched) :
    KeepsOut (execMxBias w s) wd := by simp [execMxBias, h]

@[simp] theorem keepsOut_execMxSurvey {wd : Watched} (w : MxWord) (s : State) (h : Keeps wd s.watched) :
    KeepsOut (execMxSurvey w s) wd := by simp [execMxSurvey, h]

@[simp] theorem keepsOut_execMxLoad {wd : Watched} (w : MxWord) (s : State) (h : Keeps wd s.watched) :
    KeepsOut (execMxLoad w s) wd := by simp [execMxLoad, h]

@[simp] theorem keepsOut_execMxAset {wd : Watched} (w : MxWord) (s : State) (h : Keeps wd s.watched) :
    KeepsOut (execMxAset w s) wd := by simp [execMxAset, h]

@[simp] theorem keepsOut_execMxMark {wd : Watched} (w : MxWord) (s : State) (h : Keeps wd s.watched) :
    KeepsOut (execMxMark w s) wd := by simp [execMxMark, h]

@[simp] theorem watched_panFinish (s : State) (m : Cmd) (opc : Nat) (w : PanWord) :
    (State.panFinish s m opc w).watched = s.watched := by
  unfold State.panFinish; (repeat' split) <;> simp

@[simp] theorem keepsOut_execPanMerge {wd : Watched} (t : Trig) (s : State) (h : Keeps wd s.watched) :
    KeepsOut (execPanMerge t s) wd := by simp [execPanMerge, h]

@[simp] theorem keepsOut_execPanRand {wd : Watched} (t : Trig) (s : State) (h : Keeps wd s.watched) :
    KeepsOut (execPanRand t s) wd := by simp [execPanRand, h]

@[simp] theorem keepsOut_execPanCtr {wd : Watched} (t : Trig) (s : State) (h : Keeps wd s.watched) :
    KeepsOut (execPanCtr t s) wd := by simp [execPanCtr, h]

@[simp] theorem keepsOut_execPanClrf {wd : Watched} (t : Trig) (s : State) (h : Keeps wd s.watched) :
    KeepsOut (execPanClrf t s) wd := by simp [execPanClrf, h]

@[simp] theorem keepsOut_panIssue {wd : Watched} (i : Instr) (opc : Nat) (w : PanWord) (s : State)
    (h : Keeps wd s.watched) : KeepsOut (panIssue i opc w s) wd := by simp [panIssue, h]

@[simp] theorem keepsOut_execPanDraw {wd : Watched} (w : PanWord) (s : State) (h : Keeps wd s.watched) :
    KeepsOut (execPanDraw w s) wd := by simp [execPanDraw, h]

@[simp] theorem keepsOut_execPanShort {wd : Watched} (w : PanWord) (s : State) (h : Keeps wd s.watched) :
    KeepsOut (execPanShort w s) wd := by simp [execPanShort, h]

@[simp] theorem keepsOut_execPanPen {wd : Watched} (w : PanWord) (s : State) (h : Keeps wd s.watched) :
    KeepsOut (execPanPen w s) wd := by simp [execPanPen, h]

@[simp] theorem keepsOut_execPanBias {wd : Watched} (w : PanWord) (s : State) (h : Keeps wd s.watched) :
    KeepsOut (execPanBias w s) wd := by simp [execPanBias, h]

@[simp] theorem keepsOut_execPanScale {wd : Watched} (w : PanWord) (s : State) (h : Keeps wd s.watched) :
    KeepsOut (execPanScale w s) wd := by simp [execPanScale, h]

@[simp] theorem keepsOut_execPanFull {wd : Watched} (w : PanWord) (s : State) (h : Keeps wd s.watched) :
    KeepsOut (execPanFull w s) wd := by simp [execPanFull, h]

@[simp] theorem keepsOut_execPanLse {wd : Watched} (w : PanWord) (s : State) (h : Keeps wd s.watched) :
    KeepsOut (execPanLse w s) wd := by simp [execPanLse, h]

@[simp] theorem keepsOut_wzIssue {wd : Watched} (i : Instr) (w : WzWord) (s : State) (h : Keeps wd s.watched) :
    KeepsOut (wzIssue i w s) wd := by simp [wzIssue, h]

@[simp] theorem keepsOut_execWzCopy {wd : Watched} (w : WzWord) (s : State) (h : Keeps wd s.watched) :
    KeepsOut (execWzCopy w s) wd := by simp [execWzCopy, h]

@[simp] theorem keepsOut_execWzCopyk {wd : Watched} (w : WzWord) (s : State) (h : Keeps wd s.watched) :
    KeepsOut (execWzCopyk w s) wd := by simp [execWzCopyk, h]

@[simp] theorem keepsOut_execWzFill {wd : Watched} (w : WzWord) (s : State) (h : Keeps wd s.watched) :
    KeepsOut (execWzFill w s) wd := by simp [execWzFill, h]

@[simp] theorem keepsOut_execWzGat2 {wd : Watched} (w : WzWord) (s : State) (h : Keeps wd s.watched) :
    KeepsOut (execWzGat2 w s) wd := by simp [execWzGat2, h]

@[simp] theorem keepsOut_execWzSct2 {wd : Watched} (w : WzWord) (s : State) (h : Keeps wd s.watched) :
    KeepsOut (execWzSct2 w s) wd := by simp [execWzSct2, h]

@[simp] theorem keepsOut_execWzGat4 {wd : Watched} (w : WzWord) (s : State) (h : Keeps wd s.watched) :
    KeepsOut (execWzGat4 w s) wd := by simp [execWzGat4, h]

@[simp] theorem keepsOut_execWzSct4 {wd : Watched} (w : WzWord) (s : State) (h : Keeps wd s.watched) :
    KeepsOut (execWzSct4 w s) wd := by simp [execWzSct4, h]

@[simp] theorem keepsOut_execWzExpd {wd : Watched} (w : WzWord) (s : State) (h : Keeps wd s.watched) :
    KeepsOut (execWzExpd w s) wd := by simp [execWzExpd, h]

@[simp] theorem keepsOut_execWzPack {wd : Watched} (w : WzWord) (s : State) (h : Keeps wd s.watched) :
    KeepsOut (execWzPack w s) wd := by simp [execWzPack, h]

@[simp] theorem keepsOut_execWzRcopy {wd : Watched} (w : WzWord) (s : State) (h : Keeps wd s.watched) :
    KeepsOut (execWzRcopy w s) wd := by simp [execWzRcopy, h]

@[simp] theorem keepsOut_execWzMark {wd : Watched} (w : WzWord) (s : State) (h : Keeps wd s.watched) :
    KeepsOut (execWzMark w s) wd := by simp [execWzMark, h]

@[simp] theorem watched_settleChain (s : State) (k : EngKind) (pos : Nat) (m : Cmd) (st : Nat) :
    (State.settleChain s k pos m st).watched = s.watched := by simp [State.settleChain]

@[simp] theorem watched_doneHead (s : State) (k : EngKind) : (State.doneHead s k).watched = s.watched := by
  unfold State.doneHead; (repeat' split) <;> simp

@[simp] theorem watched_doneMark (s : State) : (State.doneMark s).watched = s.watched := by
  unfold State.doneMark; split
  · rfl
  · dsimp only; split <;> simp

@[simp] theorem watched_doneMarks (s : State) : (State.doneMarks s).watched = s.watched :=
  watched_foldl _ (fun _ _ => watched_doneMark _) _ _

@[simp] theorem watched_engDone (s : State) : (State.engDone s).watched = s.watched := by simp [State.engDone]

@[simp] theorem watched_startCmd (s : State) (k : EngKind) (pos : Nat) (m : Cmd) (eng : Nat) :
    (State.startCmd s k pos m eng).watched = s.watched := by
  unfold State.startCmd; (repeat' split) <;> simp

@[simp] theorem watched_startHead (s : State) (k : EngKind) (held : Bool) :
    (State.startHead s k held).watched = s.watched := by
  unfold State.startHead; (repeat' split) <;> simp

theorem watched_cur (s : State) (n : Nat) : ({ s with cur := n } : State).watched = s.watched := rfl

@[simp] theorem watched_wzHand (s : State) (slot : Nat) (held : Bool) : (State.wzHand s slot held).watched = s.watched := by
  unfold State.wzHand; split
  · dsimp only; split
    · rw [watched_updCluster, watched_startCmd, watched_cur]
    · rfl
  · rfl

@[simp] theorem watched_wzFree (s : State) (held : Bool) : (State.wzFree s held).watched = s.watched := by
  unfold State.wzFree; (repeat' split) <;> simp

@[simp] theorem watched_waitPage (s : State) (k : EngKind) (pos : Nat) (va : U64) (write : Bool) :
    (State.waitPage s k pos va write).watched = s.watched := by simp [State.waitPage]

@[simp] theorem keepsOut_execSysHalt {wd : Watched} (t : Trig) (s : State) (h : Keeps wd s.watched) :
    KeepsOut (execSysHalt t s) wd := keepsOut_short _ _ _ h (fun _ => by (repeat' split) <;> simp [h])

@[simp] theorem keepsOut_execSysTret {wd : Watched} (t : Trig) (s : State) (h : Keeps wd s.watched) :
    KeepsOut (execSysTret t s) wd := keepsOut_short _ _ _ h (fun _ => by (repeat' split) <;> simp [h])

@[simp] theorem keepsOut_execSysIfence {wd : Watched} (t : Trig) (s : State) (h : Keeps wd s.watched) :
    KeepsOut (execSysIfence t s) wd := by simp [execSysIfence, h]

@[simp] theorem keepsOut_execSysTrap {wd : Watched} (t : Trig) (s : State) (h : Keeps wd s.watched) :
    KeepsOut (execSysTrap t s) wd := by simp [execSysTrap, h]

@[simp] theorem keepsOut_execSysBrk {wd : Watched} (t : Trig) (s : State) (h : Keeps wd s.watched) :
    KeepsOut (execSysBrk t s) wd := keepsOut_short _ _ _ h (fun _ => by (repeat' split) <;> simp [h])

@[simp] theorem keepsOut_execSysTmark {wd : Watched} (t : Trig) (s : State) (h : Keeps wd s.watched) :
    KeepsOut (execSysTmark t s) wd := by simp [execSysTmark, h]

@[simp] theorem keepsOut_execSysTarm {wd : Watched} (t : Trig) (s : State) (h : Keeps wd s.watched) :
    KeepsOut (execSysTarm t s) wd := by simp [execSysTarm, h]

@[simp] theorem keepsOut_execSysTfrz {wd : Watched} (t : Trig) (s : State) (h : Keeps wd s.watched) :
    KeepsOut (execSysTfrz t s) wd := by simp [execSysTfrz, h]

@[simp] theorem keepsOut_execSysTmrs {wd : Watched} (t : Trig) (s : State) (h : Keeps wd s.watched) :
    KeepsOut (execSysTmrs t s) wd := by simp [execSysTmrs, h]

@[simp] theorem keepsOut_execSysTmrc {wd : Watched} (t : Trig) (s : State) (h : Keeps wd s.watched) :
    KeepsOut (execSysTmrc t s) wd := by simp [execSysTmrc, h]

@[simp] theorem keepsOut_execSysYield {wd : Watched} (t : Trig) (s : State) (h : Keeps wd s.watched) :
    KeepsOut (execSysYield t s) wd := keepsOut_short _ _ _ h (fun _ => by (repeat' split) <;> simp [h])

@[simp] theorem keepsOut_execSysSeed {wd : Watched} (t : Trig) (s : State) (h : Keeps wd s.watched) :
    KeepsOut (execSysSeed t s) wd := by simp [execSysSeed, h]

@[simp] theorem keepsOut_execSysDi {wd : Watched} (t : Trig) (s : State) (h : Keeps wd s.watched) :
    KeepsOut (execSysDi t s) wd := by simp [execSysDi, h]

@[simp] theorem keepsOut_execSysEi {wd : Watched} (t : Trig) (s : State) (h : Keeps wd s.watched) :
    KeepsOut (execSysEi t s) wd := by simp [execSysEi, h]

@[simp] theorem keeps_applyLate {wd : Watched} (s : State) (w : EndW) (h : Keeps wd s.watched) :
    Keeps wd (State.applyLate s w).watched := by
  unfold State.applyLate; split <;> simp [h]

@[simp] theorem watched_hide (s : State) : (State.hide s).watched = s.watched := by simp [State.hide]

@[simp] theorem watched_startHandler (s : State) (e : U64) (causes : List Cause) (cls : Nat) :
    (State.startHandler s e causes cls).watched = s.watched := by simp [State.startHandler]

@[simp] theorem watched_setSlot (s : State) (slot st : Nat) : (State.setSlot s slot st).watched = s.watched := rfl

@[simp] theorem watched_dropUnready (s : State) (slot : Nat) : (State.dropUnready s slot).watched = s.watched := rfl

@[simp] theorem watched_unpark (s : State) (slot : Nat) : (State.unpark s slot).watched = s.watched := by
  unfold State.unpark; (repeat' split) <;> simp [watched_parts]

@[simp] theorem keeps_endWrites {wd : Watched} (s : State) (slot : Nat) (h : Keeps wd s.watched) :
    Keeps wd (State.endWrites s slot).watched := by
  unfold State.endWrites
  rw [watched_updCluster]
  refine keeps_foldl _ (fun u i h => ?_) _ _ (by rw [watched_updCluster, watched_updCluster]; exact h)
  exact keeps_foldl _ (fun u x h => keeps_applyLate _ _ h) _ _ h

@[simp] theorem keeps_enterHandler {wd : Watched} (s : State) (slot : Nat) (cls : Nat) (h : Keeps wd s.watched) :
    Keeps wd (State.enterHandler s slot cls).watched := by
  unfold State.enterHandler
  repeat' first
    | assumption
    | (simp (maxDischargeDepth := 12) [watched_parts, *]; done)
    | refine keepsOut_short _ _ _ (by assumption) (fun _ => ?_)
    | refine keeps_foldl _ (fun _ _ _ => ?_) _ _ ?_
    | refine keeps_foldl1 _ (fun _ _ _ => ?_) _ _ ?_
    | split
    | dsimp only
    | simp only [watched_parts]
    | simp

@[simp] theorem keeps_toShiftboss {wd : Watched} (s : State) (slot : Nat) (x : Cause) (h : Keeps wd s.watched) :
    Keeps wd (State.toShiftboss s slot x).watched := by
  unfold State.toShiftboss
  rw [watched_setSlot, watched_updCluster]
  exact keeps_foldl _ (fun u i h => by rw [watched_updMe]; exact h) _ _ (by rw [watched_updCluster]; exact h)

@[simp] theorem keeps_takeTrap {wd : Watched} (s : State) (slot : Nat) (h : Keeps wd s.watched) :
    Keeps wd (State.takeTrap s slot).watched := by
  unfold State.takeTrap; dsimp only; (repeat' split) <;> simp [h]

@[simp] theorem keeps_park {wd : Watched} (s : State) (slot : Nat) (h : Keeps wd s.watched) :
    Keeps wd (State.park s slot).watched := by
  unfold State.park
  repeat' first
    | assumption
    | (simp (maxDischargeDepth := 12) [watched_parts, *]; done)
    | refine keepsOut_short _ _ _ (by assumption) (fun _ => ?_)
    | refine keeps_foldl _ (fun _ _ _ => ?_) _ _ ?_
    | refine keeps_foldl1 _ (fun _ _ _ => ?_) _ _ ?_
    | split
    | dsimp only
    | simp only [watched_parts]
    | simp

@[simp] theorem watched_nextGen (s : State) (k : EngKind) (eng : Nat) : (State.nextGen s k eng).watched = s.watched := by
  unfold State.nextGen; split <;> simp

@[simp] theorem watched_askPage (s : State) (k : EngKind) (m : Cmd) : (State.askPage s k m).watched = s.watched := by
  unfold State.askPage; dsimp only; (repeat' split) <;> simp

@[simp] theorem keeps_askPages {wd : Watched} (s : State) (slot : Nat) (h : Keeps wd s.watched) :
    Keeps wd (State.askPages s slot).watched := by
  unfold State.askPages
  repeat' first
    | assumption
    | (simp (maxDischargeDepth := 12) [watched_parts, *]; done)
    | refine keepsOut_short _ _ _ (by assumption) (fun _ => ?_)
    | refine keeps_foldl _ (fun _ _ _ => ?_) _ _ ?_
    | refine keeps_foldl1 _ (fun _ _ _ => ?_) _ _ ?_
    | split
    | dsimp only
    | simp only [watched_parts]
    | simp

@[simp] theorem watched_latchOf (s : State) (i : Instr) : (State.latchOf s i).watched = s.watched := by
  unfold State.latchOf; (repeat' split) <;> simp

@[simp] theorem watched_softNow (s : State) : (State.softNow s).watched = s.watched := by
  unfold State.softNow; dsimp only; (repeat' split) <;> simp

@[simp] theorem watched_carry (s t : State) (slot : Nat) (f : Core → Core → Core) :
    (State.carry s t slot f).watched = s.watched := by simp [State.carry]

@[simp] theorem watched_updLaunch (s : State) (id : Nat) (f : Launch → Launch) :
    (State.updLaunch s id f).watched = s.watched := rfl

@[simp] theorem keeps_stagePut {wd : Watched} (s : State) (t : Team) (j : Nat) (q : StageQ) (l : QLine)
    (h : Keeps wd s.watched) : Keeps wd (State.stagePut s t j q l).1.watched := by
  have ht (ks : List Nat) : Keeps wd (ks.foldl (fun s l => s.touch (.gal l)) s).watched :=
    keeps_foldl _ (fun _ _ g => by rw [watched_touch]; exact g) _ _ h
  have hm (ws : List (Nat × Byte)) (m : TMem) (hm : m.wf dtZero) :
      (ws.foldl (fun m (w : Nat × Byte) =>
        if w.1 % 64 = 0 then (m.wr w.1 w.2).wrTag dtZero w.1 dtOn else m.wr w.1 w.2) m).wf dtZero := by
    induction ws generalizing m with
    | nil => exact hm
    | cons w ws ih =>
      refine ih _ ?_
      by_cases hz : w.1 % 64 = 0
      · simp only [hz, if_true]; exact TMem.wf_wrTag _ _ (TMem.wf_wr _ _ hm)
      · simp only [hz, if_false]; exact TMem.wf_wr _ _ hm
  unfold State.stagePut
  dsimp only
  exact (ht _).trans ⟨rfl, rfl, rfl, fun w => ⟨hm _ _ w.1, w.2⟩⟩

theorem keeps_stagePuts {wd : Watched} (t : Team) (j : Nat) (ls : List QLine) (s : State) (q : StageQ)
    (h : Keeps wd s.watched) : Keeps wd (State.stagePuts t j ls s q).1.watched := by
  induction ls generalizing s q with
  | nil => exact h
  | cons l ls ih =>
    unfold State.stagePuts
    split
    · exact ih _ _ (keeps_stagePut _ _ _ _ _ h)
    · exact h

@[simp] theorem keeps_stageMet {wd : Watched} (s : State) (t : Team) (j : Nat) (q : StageQ) (h : Keeps wd s.watched) :
    Keeps wd (State.stageMet s t j q).watched := by
  unfold State.stageMet; split
  · exact keeps_ite (keeps_met _ _ h) h
  · exact h

@[simp] theorem keeps_stageMove {wd : Watched} (s : State) (k : Nat) (h : Keeps wd s.watched) :
    Keeps wd (State.stageMove s k).watched := by
  unfold State.stageMove
  dsimp only
  refine keeps_ite ?_ (keeps_ite ?_ h)
  · rw [watched_updLaunch, watched_updMe]; exact keeps_stagePuts _ _ _ _ _ h
  · rw [watched_updLaunch, watched_updMe]; exact keeps_stageMet _ _ _ _ h

@[simp] theorem watched_claimFrom (s : State) (w : Waiting) (ks : List Nat) : (s.claimFrom w ks).watched = s.watched := by
  unfold State.claimFrom State.claim; (repeat' split) <;> simp

@[simp] theorem watched_claimFree (s : State) : (State.claimFree s).watched = s.watched := by
  unfold State.claimFree State.claimFrom State.claim; (repeat' split) <;> simp

@[simp] theorem watched_dccStep (s : State) : (State.dccStep s).watched = s.watched := by
  have h : s.dropGone.claimFree.watched = s.watched := watched_claimFree _
  unfold State.dccStep
  rw [watched_mk]
  simp only [List.map_map, Function.comp_def]
  have h2 : s.dropGone.claimFree.watched.2 = s.watched.2 := by rw [h]
  exact Prod.ext rfl h2

@[simp] theorem keeps_holdStall {wd : Watched} (s : State) (slot : Nat) (h : Keeps wd s.watched) :
    Keeps wd (State.holdStall s slot).watched := by simp [State.holdStall, h]

@[simp] theorem keeps_tryTrap {wd : Watched} (s : State) (slot : Nat) (h : Keeps wd s.watched) :
    Keeps wd (State.tryTrap s slot).watched := by
  unfold State.tryTrap; (repeat' split) <;> simp [h]

@[simp] theorem keeps_vaRead {wd : Watched} (s : State) (t : Team) (va n : Nat) (h : Keeps wd s.watched) :
    Keeps wd (State.vaRead s t va n).1.watched :=
  keeps_foldl1 _ (fun p q h => by
    have hw := keeps_walked p.1 t (64 * q.1) h
    dsimp only
    split
    · exact keeps_engineRead _ _ _ hw
    · exact hw) _ _ h

@[simp] theorem keeps_vaWrite {wd : Watched} (s : State) (t : Team) (va : Nat) (bs : List Byte) (tag : Nat → U16)
    (h : Keeps wd s.watched) : Keeps wd (State.vaWrite s t va bs tag).watched :=
  keeps_foldl1 _ (fun p q h => by
    have hw := keeps_walked p.1 t (64 * q.1) h
    dsimp only
    split
    · exact keeps_engineWrite _ _ _ _ _ hw
    · exact hw) _ _ h

@[simp] theorem watched_vaReport (s : State) (t : Team) (w : Bool) (va n : Nat) : (s.vaReport t w va n).watched = s.watched := by
  unfold State.vaReport; split <;> simp

@[simp] theorem watched_sendTo (s : State) (m : CollMsg) (ns : List (BitVec 20)) : (s.sendTo m ns).watched = s.watched :=
  watched_foldl _ (fun s v => by (repeat' split) <;> rfl) _ _

@[simp] theorem watched_collSend (s : State) (n : Nat) (m : CollMsg) (ns : List (BitVec 20)) :
    (s.collSend n m ns).watched = s.watched := by simp [State.collSend]

@[simp] theorem keeps_collEnd {wd : Watched} (s : State) (n : Nat) (r : Ring) (x : Run) (status entry : Nat) (mask : List Nat)
    (h : Keeps wd s.watched) : Keeps wd (State.collEnd s n r x status entry mask).watched := by
  have hr : Keeps wd (((s.vaReport (s.ringTeam r) true (dDone x.desc) (64 + ceilDiv x.table.length 8)).ringErr r 1).ringErr r
      2).watched := keeps_ringErr _ _ _ (keeps_ringErr _ _ _ (by rw [watched_vaReport]; exact h))
  unfold State.collEnd; dsimp only
  rw [watched_updRing]
  exact keeps_ite (keeps_vaWrite _ _ _ _ _ (keeps_vaWrite _ _ _ _ _ h)) (keeps_ite (by rw [watched_collSend]; exact hr) hr)

@[simp] theorem keeps_collStop {wd : Watched} (s : State) (n : Nat) (r : Ring) (x : Run) (m : CollMsg) (status : Nat)
    (h : Keeps wd s.watched) : Keeps wd (State.collStop s n r x m status).watched :=
  keeps_collEnd _ _ _ _ _ _ _ (by rw [watched_collSend]; exact h)

@[simp] theorem keeps_collPage {wd : Watched} (s : State) (n : Nat) (r : Ring) (x : Run) (w : Bool) (va len : Nat)
    (h : Keeps wd s.watched) : Keeps wd (State.collPage s n r x w va len).watched := by
  have he : Keeps wd ((s.vaReport (s.ringTeam r) w va len).ringErr r 2).watched :=
    keeps_ringErr _ _ _ (by rw [watched_vaReport]; exact h)
  exact keeps_ite he (keeps_collStop _ _ _ _ _ _ he)

@[simp] theorem keeps_collDeliver {wd : Watched} (s : State) (n : Nat) (r : Ring) (x : Run) (mask : List Nat)
    (v : List Byte × List U16) (h : Keeps wd s.watched) : Keeps wd (State.collDeliver s n r x mask v).watched := by
  have he : Keeps wd ((s.vaReport (s.ringTeam r) true (dDst x.desc) (collDst x.desc v).1.length).ringErr r 2).watched :=
    keeps_ringErr _ _ _ (by rw [watched_vaReport]; exact h)
  exact keeps_ite (keeps_collEnd _ _ _ _ _ _ _ h) (keeps_ite (keeps_collEnd _ _ _ _ _ _ _ (keeps_vaWrite _ _ _ _ _ h))
    (keeps_ite (keeps_collEnd _ _ _ _ _ _ _ he) (keeps_collStop _ _ _ _ _ _ he)))

@[simp] theorem keeps_collForward {wd : Watched} (s : State) (n : Nat) (r : Ring) (x : Run) (h : Keeps wd s.watched) :
    Keeps wd (State.collForward s n r x).watched :=
  keeps_ite (keeps_collDeliver _ _ _ _ _ _ (keeps_ite (by rw [watched_collSend]; exact h) h))
    (by rw [watched_updRing, watched_collSend]; exact h)

@[simp] theorem keeps_collGo {wd : Watched} (s : State) (n : Nat) (r : Ring) (x : Run) (h : Keeps wd s.watched) :
    Keeps wd (State.collGo s n r x).watched := keeps_ite (keeps_collForward _ _ _ _ h) (by rw [watched_updRing]; exact h)

@[simp] theorem keeps_collTake {wd : Watched} (s : State) (n : Nat) (r : Ring) (x : Run) (at' : Nat) (m : CollMsg)
    (h : Keeps wd s.watched) : Keeps wd (State.collTake s n r x at' m).watched := by
  unfold State.collTake; dsimp only; (repeat' split) <;> simp [h]

@[simp] theorem keeps_collAfter {wd : Watched} (s : State) (n : Nat) (r : Ring) (i : U32) (m : CollMsg)
    (h : Keeps wd s.watched) : Keeps wd (State.collAfter s n r i m).watched := by
  unfold State.collAfter
  split
  · rename_i x _ _ _ _ _ _
    have hu : Keeps wd (s.updRing n (fun r => { r with last := some { x with late := x.late + 1 } })).watched := by
      rw [watched_updRing]; exact h
    exact keeps_ite (keeps_ite (keeps_vaWrite _ _ _ _ _ hu) hu) h
  · exact h

@[simp] theorem keeps_collMessage {wd : Watched} (s : State) (n : Nat) (i : U32) (at' : Nat) (m : CollMsg)
    (h : Keeps wd s.watched) : Keeps wd (State.collMessage s n i at' m).watched := by
  unfold State.collMessage; (repeat' split) <;> simp [h]

@[simp] theorem keeps_collCut {wd : Watched} (s : State) (n : Nat) (r : Ring) (x : Run) (h : Keeps wd s.watched) :
    Keeps wd (State.collCut s n r x).watched := keeps_collStop _ _ _ _ _ _ h

@[simp] theorem keeps_collJoin {wd : Watched} (s : State) (n : Nat) (r : Ring) (x : Run) (h : Keeps wd s.watched) :
    Keeps wd (State.collJoin s n r x).watched := by
  have hs := keeps_vaRead s (s.ringTeam r) (dSrc x.desc) (dLen x.desc) h
  have he : Keeps wd (if dEf x.desc then (s.vaRead (s.ringTeam r) (dSrc x.desc) (dLen x.desc)).1.vaRead (s.ringTeam r) (dEfb x.desc) (dLen x.desc)
      else ((s.vaRead (s.ringTeam r) (dSrc x.desc) (dLen x.desc)).1, [])).1.watched :=
        keeps_ite1 (keeps_vaRead _ _ _ _ hs) hs
  exact keeps_ite (keeps_collGo _ _ _ _ h) (keeps_ite (keeps_collPage _ _ _ _ _ _ _ h) (keeps_ite (keeps_collPage _ _ _ _ _ _ _ h)
    (keeps_ite (keeps_collPage _ _ _ _ _ _ _ h) (keeps_collGo _ _ _ _ (keeps_ite (keeps_vaWrite _ _ _ _ _ he) he)))))

@[simp] theorem keeps_collStart {wd : Watched} (s : State) (n : Nat) (r : Ring) (x : Run) (h : Keeps wd s.watched) :
    Keeps wd (State.collStart s n r x).watched := by
  unfold State.collStart
  exact keeps_ite (keeps_collCut _ _ _ _ h) (keeps_foldl _ (fun _ _ g => keeps_collMessage _ _ _ _ _ g) _ _
    (keeps_collJoin _ _ _ _ h))

@[simp] theorem keeps_sramError {wd : Watched} (s : State) (slot core : Nat) (k : SramKind) (n : Nat) (h : Keeps wd s.watched) :
    Keeps wd (State.sramError s slot core k n).watched := by
  unfold State.sramError
  cases k <;> dsimp only <;> rw [watched_updCluster] <;> first
    | exact h
    | (split
       · exact keeps_met _ _ h
       · exact h)

@[simp] theorem keeps_withSram {wd : Watched} (s : State) (i : Input) (h : Keeps wd s.watched) :
    Keeps wd (State.withSram s i).watched := by
  unfold State.withSram; dsimp only; (repeat' split) <;> simp [h]

@[simp] theorem keeps_clearMem {wd : Watched} (s : State) (pa n : Nat) (h : Keeps wd s.watched) :
    Keeps wd (State.clearMem s pa n).watched := keeps_foldl _ (fun _ _ h => by simp [h]) _ _ h

@[simp] theorem keeps_loadGallery {wd : Watched} (s : State) (base units : Nat) (secs : List (Nat × List Byte × List U64)) (h : Keeps wd s.watched) : Keeps wd (State.loadGallery s base units secs).watched := by
  unfold State.loadGallery
  repeat' first
    | assumption
    | (simp (maxDischargeDepth := 12) [*]; done)
    | refine keepsOut_short _ _ _ (by assumption) (fun _ => ?_)
    | refine keeps_foldl _ (fun _ _ _ => ?_) _ _ ?_
    | refine keeps_foldl1 _ (fun _ _ _ => ?_) _ _ ?_
    | split
    | dsimp only
    | simp only [watched_parts]
    | simp

@[simp] theorem watched_updQueue (s : State) (q : Nat) (f : LQueue → LQueue) :
    (State.updQueue s q f).watched = s.watched := rfl

@[simp] theorem watched_writeDoorbell (s : State) (q : Nat) (v : U64) : (State.writeDoorbell s q v).watched = s.watched :=
    by
  unfold State.writeDoorbell; split <;> simp

@[simp] theorem watched_writeInject (s : State) (v : U64) : (State.writeInject s v).watched = s.watched := rfl

@[simp] theorem watched_writeKillack (s : State) (v : U64) : (State.writeKillack s v).watched = s.watched := by
  unfold State.writeKillack; (repeat' split) <;> simp [watched_parts]

@[simp] theorem watched_record (s : State) (r : Completion) : (State.record s r).watched = s.watched := rfl

@[simp] theorem watched_refresh (s old : State) : (State.refresh s old).watched = s.watched := rfl

@[simp] theorem keeps_physWrite {wd : Watched} (s : State) (pa : Nat) (bs : List Byte) (h : Keeps wd s.watched) :
    Keeps wd (State.physWrite s pa bs).watched := keeps_foldl1 _ (fun _ _ h => by simp [h]) _ _ h

@[simp] theorem watched_raiseDrain (s : State) (slot : Nat) : (State.raiseDrain s slot).watched = s.watched :=
    by simp [State.raiseDrain]

@[simp] theorem keeps_revokeAll {wd : Watched} (s : State) (fs : Nat → Bool) (h : Keeps wd s.watched) :
    Keeps wd (State.revokeAll s fs).watched := by
  unfold State.revokeAll
  repeat' first
    | assumption
    | (simp (maxDischargeDepth := 12) [watched_parts, *]; done)
    | refine keepsOut_short _ _ _ (by assumption) (fun _ => ?_)
    | refine keeps_foldl _ (fun _ _ _ => ?_) _ _ ?_
    | refine keeps_foldl1 _ (fun _ _ _ => ?_) _ _ ?_
    | split
    | dsimp only
    | simp only [watched_parts]
    | simp

theorem watched_updTeam (s : State) (launch : Nat) (f : Team → Team) : (s.updTeam launch f).watched = s.watched := by
  simp [State.updTeam, State.watched, List.map_map, Function.comp_def, State.updLaunch]

@[simp] theorem keeps_putEntry {wd : Watched} (s : State) (launch : Nat) (p : EntryPlace) (e : U64) (h : Keeps wd s.watched) :
    Keeps wd (State.putEntry s launch p e).watched := by
  unfold State.putEntry; split
  · exact keeps_engineWrite _ _ _ _ _ h
  · rw [watched_updTeam]; exact h

@[simp] theorem watched_updRemote (s : State) (r : Remote) (f : CmdData → CmdData) :
    (State.updRemote s r f).watched = s.watched := by simp [State.updRemote]

@[simp] theorem watched_injected (s : State) (b : U64) (bs : List Byte) : (State.injected s b bs).1.watched = s.watched := by
  unfold State.injected; dsimp only; (repeat' split) <;> simp [watched_parts]

@[simp] theorem keeps_cutCollectives {wd : Watched} (s : State) (h : Keeps wd s.watched) :
    Keeps wd (State.cutCollectives s).watched := keeps_foldl _ (fun _ _ h => by (repeat' split) <;> simp [h]) _ _ h

@[simp] theorem keeps_endUnreached {wd : Watched} (s : State) (h : Keeps wd s.watched) :
    Keeps wd (State.endUnreached s).watched := keeps_foldl _ (fun _ _ h => by simp [h]) _ _ h

@[simp] theorem keeps_bist {wd : Watched} (s : State) (r : StartRun) (h : Keeps wd s.watched) :
    Keeps wd (State.bist s r).watched := by
  unfold State.bist
  repeat' first
    | assumption
    | (simp (maxDischargeDepth := 12) [watched_parts, *]; done)
    | refine keepsOut_short _ _ _ (by assumption) (fun _ => ?_)
    | refine keeps_foldl _ (fun _ _ _ => ?_) _ _ ?_
    | refine keeps_foldl1 _ (fun _ _ _ => ?_) _ _ ?_
    | split
    | dsimp only
    | simp only [watched_parts]
    | simp

@[simp] theorem keeps_atEvent {wd : Watched} (s : State) (h : Keeps wd s.watched) : Keeps wd (State.atEvent s).watched :=
  keeps_findAll _ _ h

@[simp] theorem keepsAct_withPut {wd : Watched} (s : State) (x : OpSrc) (k : Unit → EngAct) (g : KeepsAct (k ()) wd) :
    KeepsAct (s.withPut x k) wd := by
  unfold State.withPut; exact keepsAct_ite (keepsAct_ite (by simp) (keepsAct_ite (by simp) g)) g

@[simp] theorem keepsAct_withLines {wd : Watched} (s : State) (m : Cmd) (ls : List Nat) (k : Unit → EngAct)
    (g : KeepsAct (k ()) wd) : KeepsAct (s.withLines m ls k) wd := by
  unfold State.withLines; exact keepsAct_ite g trivial

@[simp] theorem keepsAct_withPages {wd : Watched} (s : State) (x) (k : Unit → EngAct) (g : KeepsAct (k ()) wd) :
    KeepsAct (s.withPages x k) wd := by
  unfold State.withPages; split <;> simp [g]

@[simp] theorem keeps_missAll {wd : Watched} (s : State) (b : Bool) (h : Keeps wd s.watched) : Keeps wd (s.missAll b).watched := by
  exact keeps_missQueue _ _ _ (keeps_missQueue _ _ _ (keeps_missQueue _ _ _ h))

@[simp] theorem keepsAct_withVas {wd : Watched} (s : State) (m : Cmd) (vas : List Nat) (k : Unit → EngAct)
    (g : KeepsAct (k ()) wd) : KeepsAct (s.withVas m vas k) wd :=
  keepsAct_withPages _ _ _ (keepsAct_withLines _ _ _ _ g)

@[simp] theorem watched_fetchLines (s : State) (m : Cmd) (ls : List Nat) : (State.fetchLines s m ls).1.watched = s.watched :=
  watched_foldl1 _ (fun _ _ => by simp) _ _

@[simp] theorem watched_wzFetch (s : State) (m : Cmd) (rs : List (Nat × Nat × Bool)) :
    (State.wzFetch s m rs).1.watched = s.watched :=
  watched_foldl1 _ (fun p x => by dsimp only; (repeat' split) <;> simp) _ _

@[simp] theorem watched_wzLine (s : State) (m : Cmd) (dc : BitVec 4) (a : Nat) (ws : List (Nat × SrcByte)) :
    (State.wzLine s m dc a ws).1.watched = s.watched := by
  unfold State.wzLine; dsimp only; split <;> simp

@[simp] theorem watched_wzWrite (s : State) (m : Cmd) (dc : BitVec 4) (ls : List (Nat × List (Nat × SrcByte))) :
    (State.wzWrite s m dc ls).1.watched = s.watched := by
  unfold State.wzWrite; exact watched_foldl1 _ (fun _ _ => by simp) _ _

@[simp] theorem keeps_wzWalks {wd : Watched} (s : State) (rs : List (Nat × Nat × Bool)) (h : Keeps wd s.watched) :
    Keeps wd (State.wzWalks s rs).watched := by
  unfold State.wzWalks
  exact keeps_ite h (keeps_foldl _ (fun _ _ g => keeps_foldl _ (fun _ _ g => keeps_ite (keeps_walked _ _ _ g) g) _ _ g) _ _ h)

@[simp] theorem watched_putWz (s : State) (pos : Nat) (m : Cmd) : (State.putWz s pos m).watched = s.watched := by
  simp [State.putWz]

@[simp] theorem watched_wzSend (s : State) (m : Cmd) (w : WzWord) (src : List SrcByte) :
    (State.wzSend s m w src).1.watched = s.watched := rfl

@[simp] theorem watched_wzStop (s : State) (pos : Nat) (m : Cmd) (a : Nat) (wr : Bool) (x : WzAt) :
    (State.wzStop s pos m a wr x).watched = s.watched := by
  unfold State.wzStop; dsimp only; (repeat' split) <;> simp

@[simp] theorem keeps_wzBegin {wd : Watched} (s : State) (pos : Nat) (m : Cmd) (opc : Nat) (w : WzWord)
    (h : Keeps wd s.watched) : Keeps wd (State.wzBegin s pos m opc w).watched := by
  unfold State.wzBegin
  lift_lets
  intro s1 m1 rs s2
  have h2 : Keeps wd s2.watched := keeps_wzWalks _ _ (keeps_ite (keeps_windowsMet _ _ _ h) h)
  split
  · rw [watched_wzStop]; exact h2
  · dsimp only; rw [watched_putWz, watched_wzFetch]; exact h2

@[simp] theorem keeps_wzGoOn {wd : Watched} (s : State) (pos : Nat) (m : Cmd) (opc : Nat) (w : WzWord)
    (h : Keeps wd s.watched) : Keeps wd (State.wzGoOn s pos m opc w).watched := by
  unfold State.wzGoOn
  lift_lets
  intro m1 o ls s1
  have h1 : Keeps wd s1.watched := keeps_wzWalks _ _ h
  split
  · rw [watched_wzStop]; exact h1
  · dsimp only; split <;> simp [h1]

theorem keeps_wzAdvance {wd : Watched} {s t : State} {pos : Nat} (h : s.wzAdvance pos = some t) (g : Keeps wd s.watched) :
    Keeps wd t.watched := by
  unfold State.wzAdvance at h
  split at h
  · cases h
  · split at h
    · cases h
    · dsimp only at h
      (repeat' split at h) <;> (try cases h) <;> simp [g]

theorem watched_wzEarly {s t : State} {pos : Nat} {m : Cmd} {o : Nat} {w : WzWord} {n : Nat}
    (h : s.wzEarly pos m o w n = some t) : t.watched = s.watched := by
  unfold State.wzEarly at h
  split at h
  · cases h
  · dsimp only at h
    split at h
    · cases h
    · split at h <;> cases h <;> simp

theorem watched_wzPart {s t : State} {pos : Nat} {write : Bool} {n : Nat} (h : s.wzPart pos write n = some t) :
    t.watched = s.watched := by
  unfold State.wzPart at h
  split at h
  · cases h
  · split at h
    · cases h
    · dsimp only at h
      split at h
      · cases h
      · split at h
        · exact watched_wzEarly h
        · simp only [Option.bind_eq_some_iff] at h
          obtain ⟨_, _, h⟩ := h
          split at h <;> cases h
          simp

@[simp] theorem watched_wzEnd (s : State) (m : Cmd) (opc : Nat) (w : WzWord) : (State.wzEnd s m opc w).1.watched = s.watched := by
  unfold State.wzEnd; dsimp only; (repeat' split) <;> simp

theorem watched_wzComplete {s t : State} {pos : Nat} (h : s.wzComplete pos = some t) : t.watched = s.watched := by
  unfold State.wzComplete at h
  (repeat' split at h) <;> (try cases h) <;> simp

@[simp] theorem keepsAct_mxTile {wd : Watched} (s : State) (m opc w) (h : Keeps wd s.watched) :
    KeepsAct (s.mxTile m opc w) wd := by
  unfold State.mxTile
  refine keepsAct_ite (.go h) (keepsAct_withVas _ _ _ _ ?_)
  refine keepsAct_ite (.go h) (keepsAct_ite (.go h) (keepsAct_withVas _ _ _ _ ?_))
  exact keepsAct_ite (.go h) (.go h)

@[simp] theorem keeps_mxDrain {wd : Watched} (s : State) (m w j) (h : Keeps wd s.watched) :
    Keeps wd (s.mxDrain m w j).1.watched := by
  unfold State.mxDrain; dsimp only; (repeat' split) <;> simp [h]

@[simp] theorem keepsAct_panWrite {wd : Watched} (s : State) (m : Cmd) (opc : Nat) (w : PanWord) (h : Keeps wd s.watched) :
    KeepsAct (State.panWrite s m opc w) wd := by
  unfold State.panWrite
  refine keepsAct_ite (keepsAct_withPut _ _ _ (.go (keeps_engPut _ _ _ _ _ h))) (.go ?_)
  exact keeps_ite (by rw [watched_updMe]; exact keeps_engPut _ _ _ _ _ h) (keeps_engPut _ _ _ _ _ h)

@[simp] theorem keepsAct_panRun {wd : Watched} (s : State) (m : Cmd) (opc : Nat) (w : PanWord) (el : Nat)
    (h : Keeps wd s.watched) : KeepsAct (State.panRun s m opc w el) wd := by
  unfold State.panRun
  refine keepsAct_ite ?_ (keepsAct_ite (.go h) ?_)
  · dsimp only; split
    · exact keepsAct_fault _ _ _ _
    · exact .go h
  · refine keepsAct_withLines _ _ _ _ (keepsAct_withLines _ _ _ _ ?_)
    exact keepsAct_ite (.go h) (keepsAct_panWrite _ _ _ _ h)

@[simp] theorem keepsAct_mxBegin {wd : Watched} (s : State) (m opc w) (h : Keeps wd s.watched) :
    KeepsAct (s.mxBegin m opc w) wd := by
  unfold State.mxBegin
  lift_lets
  intro rows x toMem toBin
  split
  · exact keepsAct_fault _ _ _ _
  · exact keepsAct_fault _ _ _ _
  · dsimp only
    split
    · exact keepsAct_ite (.go h) (keepsAct_withLines _ _ _ _ (.go h))
    · exact .go h
    · exact .go h
    · exact .go h
    · exact .go h
    · exact .go h
    · exact keepsAct_ite (.go h) (keepsAct_withLines _ _ _ _ (.go h))
    · exact keepsAct_withLines _ _ _ _ (.go h)
    · exact keepsAct_withLines _ _ _ _ (.go h)
    · exact .go h

@[simp] theorem keepsAct_mxRun {wd : Watched} (s : State) (m opc w el) (h : Keeps wd s.watched) :
    KeepsAct (s.mxRun m opc w el) wd := by
  unfold State.mxRun
  lift_lets
  intro rows x
  refine keepsAct_ite (keepsAct_mxBegin _ _ _ _ h) (keepsAct_ite (.go h) (keepsAct_ite (.go h)
    (keepsAct_ite (keepsAct_mxTile _ _ _ _ h) ?_)))
  have hact (first : Nat) : KeepsAct
      (if el < first then .go s (m.mxSlabs el)
      else if el < first + rows then
        s.withLines m (x.lines (mxLay opc w) (128 * (el - first)) 128) fun _ => .go s (s.mxRow m w (el - first))
      else .go s m) wd :=
    keepsAct_ite (.go h) (keepsAct_ite (keepsAct_withLines _ _ _ _ (.go h)) (.go h))
  split
  · exact hact _
  · exact hact _
  · exact keepsAct_withLines _ _ _ _ (keepsAct_ite (keepsAct_withPut _ _ _ (.go (keeps_engPut _ _ _ _ _ h))) (.go h))
  · exact keepsAct_ite (keepsAct_ite trivial (keepsAct_withPut _ _ _ (.go (keeps_mxDrain _ _ _ _ h)))) (.go h)
  · exact keepsAct_ite (keepsAct_withPut _ _ _ (.go (keeps_engPut _ _ _ _ _ h))) (.go h)
  · exact .go h

@[simp] theorem keeps_eachCore {wd : Watched} (s : State) (k) (f : State → State)
    (h : Keeps wd s.watched) (g : ∀ s, Keeps wd s.watched → Keeps wd (f s).watched) : Keeps wd (s.eachCore k f).watched :=
      by
  unfold State.eachCore; exact keeps_foldl _ (fun p x h => g _ (by rw [watched_mk]; exact h)) _ _ h

@[simp] theorem keeps_wzStarts {wd : Watched} (s : State) (k b) (h : Keeps wd s.watched) :
    Keeps wd (s.wzStarts k b).watched := by
  unfold State.wzStarts
  exact keeps_foldl _ (fun _ _ g => by rw [watched_wzHand]; exact g) _ _
    (keeps_foldl _ (fun _ _ g => by rw [watched_wzFree, watched_mk]; exact g) _ _ h)

@[simp] theorem keepsAct_headAct {wd : Watched} (s : State) (m : Cmd) (el : Nat) (h : Keeps wd s.watched) :
    KeepsAct (s.headAct m el) wd := by
  unfold State.headAct; (repeat' split) <;> simp [h]

@[simp] theorem keeps_headMet {wd : Watched} (s : State) (m : Cmd) (h : Keeps wd s.watched) :
    Keeps wd (s.headMet m).watched := by
  unfold State.headMet; dsimp only
  split
  · exact keeps_ite (keeps_walked _ _ _ (keeps_windowsMet _ _ _ h)) (keeps_windowsMet _ _ _ h)
  · exact keeps_windowsMet _ _ _ h
  · exact h

@[simp] theorem keeps_runHead {wd : Watched} (s : State) (k) (h : Keeps wd s.watched) : Keeps wd (s.runHead k).watched := by
  unfold State.runHead; split
  · exact h
  · split
    · exact h
    · exact h
    · refine keeps_ite h ?_
      lift_lets
      intro s1 r s2
      have h2 : Keeps wd s2.watched := by
        show Keeps wd (State.updMe _ _).watched
        rw [watched_updMe, watched_fetchLines]; exact keeps_ite (keeps_headMet _ _ h) h
      rename_i el _ _
      have ha := keepsAct_headAct s2 r.2 el h2
      split <;> rename_i e
      · rw [e] at ha; rw [watched_updMe]; exact ha
      · rw [watched_waitPage]; exact h2
      · rw [watched_askEngine, watched_updMe]; exact h2
      · rw [watched_askEngine]; exact h2
      · rw [watched_raiseEng, watched_updMe, watched_dropReplies]
        exact keeps_ite (by rw [watched_report]; exact h2) h2

@[simp] theorem keeps_engCycle {wd : Watched} (s : State) (k b) (h : Keeps wd s.watched) :
    Keeps wd (s.engCycle k b).watched := by
  unfold State.engCycle; apply keeps_eachCore
  · simp [h]
  · intro s h; simp [h]

@[simp] theorem watched_engEnd (s : State) (k : Nat) : (State.engEnd s k).watched = s.watched := by
  unfold State.engEnd State.eachCore
  rw [watched_updCluster]
  exact (watched_foldl _ (fun s i => watched_engDone { s with cur := 8 * k + i }) _ _).trans (watched_updCluster _ _ _)

theorem keeps_cur {wd : Watched} (s : State) (n : Nat) (h : Keeps wd s.watched) : Keeps wd ({ s with cur := n } : State).watched := by rw [watched_mk]; exact h

@[simp] theorem keeps_putNow {wd : Watched} (s : State) (p) (h : Keeps wd s.watched) : Keeps wd (s.putNow p).watched := by
  have e : (s.putNow p).watched = s.watched := by
    cases p <;> first | exact watched_updMe _ _ | exact watched_poisonRead _ _
  rw [e]; exact h

theorem fn1 (s : State) (forms : List Nat) : (s.flightsNow forms).watched = ((((s.me.pipe.flights.filter (fun f => f.left = 0))).foldl
    (fun s f => ((s.flightPuts f).filter (fun p => !(p.isStatus && forms.any (fun a => a < f.age)))).foldl State.putNow s)
      s).watched) := by
  unfold State.flightsNow
  exact (watched_updMe _ _).trans (watched_dropReplies _ _)

theorem fn2 {wd : Watched} (s : State) (forms : List Nat) (h : Keeps wd s.watched) (due : List Flight) :
    Keeps wd (due.foldl (fun s f =>
      ((s.flightPuts f).filter (fun p => !(p.isStatus && forms.any (fun a => a < f.age)))).foldl State.putNow s) s).watched := by
  induction due generalizing s with
  | nil => exact h
  | cons f l ih => exact ih _ (keeps_foldl State.putNow (fun s p g => keeps_putNow s p g) _ _ h)

@[simp] theorem keeps_flightsNow {wd : Watched} (s : State) (forms : List Nat) (h : Keeps wd s.watched) :
    Keeps wd (s.flightsNow forms).watched := by
  rw [fn1]; exact fn2 _ _ h _

@[simp] theorem keeps_resultsNow {wd : Watched} (s : State) (landed : Bool) (h : Keeps wd s.watched) :
    Keeps wd (s.resultsNow landed).watched := by
  unfold State.resultsNow
  exact keeps_flightsNow _ _ (keeps_ite h (keeps_lsDelivers _ (keeps_vxDelivers _ h)))

theorem keeps_asCores {wd : Watched} (s : State) (k is) (f : State → State)
    (h : Keeps wd s.watched) (g : ∀ s, Keeps wd s.watched → Keeps wd (f s).watched) :
      Keeps wd (s.asCores k is f).watched := by
  unfold State.asCores; exact keeps_foldl _ (fun p x h => g _ (keeps_cur _ _ h)) _ _ h

@[simp] theorem keeps_capture {wd : Watched} (s : State) (k) (h : Keeps wd s.watched) : Keeps wd (s.capture k).watched := by
  unfold State.capture; apply keeps_endWrites; exact keeps_eachCore _ _ _ h (fun s h => by simp [h])

@[simp] theorem keeps_beginStop {wd : Watched} (s : State) (k) (h : Keeps wd s.watched) :
    Keeps wd (s.beginStop k).watched := by
  unfold State.beginStop; simp [h]

@[simp] theorem keeps_trapReturn {wd : Watched} (s : State) (k) (h : Keeps wd s.watched) :
    Keeps wd (s.trapReturn k).watched := by
  unfold State.trapReturn; dsimp only; simp only [watched_unpark, watched_updCluster, watched_dropReplies,
    watched_dropUnready]; exact keeps_eachCore _ _ _ h (fun s h => by simp [h])

@[simp] theorem keeps_canary {wd : Watched} (s : State) (k) (h : Keeps wd s.watched) : Keeps wd (s.canary k).watched := by
  unfold State.canary; apply keeps_takeTrap; apply keeps_park; rw [watched_updCluster]
  have h1 : Keeps wd (s.updCluster k Cluster.endHoldNow).watched := by rw [watched_updCluster]; exact h
  exact keeps_ite h1 (keeps_beginStop _ _ h1)

@[simp] theorem keeps_beginSave {wd : Watched} (s : State) (k) (h : Keeps wd s.watched) :
    Keeps wd (s.beginSave k).watched := by
  unfold State.beginSave; simp [h]

@[simp] theorem keeps_haltTeam {wd : Watched} (s : State) (k) (h : Keeps wd s.watched) : Keeps wd (s.haltTeam k).watched := by
  unfold State.haltTeam; rw [watched_setSlot, watched_updCluster]
  have h1 : Keeps wd (s.updCluster k Cluster.endHoldNow).watched := by rw [watched_updCluster]; exact h
  exact keeps_ite h1 (keeps_beginStop _ _ h1)

@[simp] theorem keepsOut_iaOp {wd : Watched} (lat : Nat) (f : U32 → U32 → U32 → U32) (u : Bool) (t : Trig) (s : State)
    (h : Keeps wd s.watched) : KeepsOut (iaOp lat f u t s) wd := by simp [iaOp, h]

@[simp] theorem keepsOut_execIaAdd {wd : Watched} (u : Bool) (t : Trig) (s : State) (h : Keeps wd s.watched) :
    KeepsOut (execIaAdd u t s) wd := by simp [execIaAdd, h]

@[simp] theorem keepsOut_execIaSub {wd : Watched} (u : Bool) (t : Trig) (s : State) (h : Keeps wd s.watched) :
    KeepsOut (execIaSub u t s) wd := by simp [execIaSub, h]

@[simp] theorem keepsOut_execIaAdds {wd : Watched} (u : Bool) (t : Trig) (s : State) (h : Keeps wd s.watched) :
    KeepsOut (execIaAdds u t s) wd := by simp [execIaAdds, h]

@[simp] theorem keepsOut_execIaSubs {wd : Watched} (u : Bool) (t : Trig) (s : State) (h : Keeps wd s.watched) :
    KeepsOut (execIaSubs u t s) wd := by simp [execIaSubs, h]

@[simp] theorem keepsOut_execIaAddus {wd : Watched} (u : Bool) (t : Trig) (s : State) (h : Keeps wd s.watched) :
    KeepsOut (execIaAddus u t s) wd := by simp [execIaAddus, h]

@[simp] theorem keepsOut_execIaSubus {wd : Watched} (u : Bool) (t : Trig) (s : State) (h : Keeps wd s.watched) :
    KeepsOut (execIaSubus u t s) wd := by simp [execIaSubus, h]

@[simp] theorem keepsOut_execIaMin {wd : Watched} (u : Bool) (t : Trig) (s : State) (h : Keeps wd s.watched) :
    KeepsOut (execIaMin u t s) wd := by simp [execIaMin, h]

@[simp] theorem keepsOut_execIaMax {wd : Watched} (u : Bool) (t : Trig) (s : State) (h : Keeps wd s.watched) :
    KeepsOut (execIaMax u t s) wd := by simp [execIaMax, h]

@[simp] theorem keepsOut_execIaMinu {wd : Watched} (u : Bool) (t : Trig) (s : State) (h : Keeps wd s.watched) :
    KeepsOut (execIaMinu u t s) wd := by simp [execIaMinu, h]

@[simp] theorem keepsOut_execIaMaxu {wd : Watched} (u : Bool) (t : Trig) (s : State) (h : Keeps wd s.watched) :
    KeepsOut (execIaMaxu u t s) wd := by simp [execIaMaxu, h]

@[simp] theorem keepsOut_execIaAnd {wd : Watched} (u : Bool) (t : Trig) (s : State) (h : Keeps wd s.watched) :
    KeepsOut (execIaAnd u t s) wd := by simp [execIaAnd, h]

@[simp] theorem keepsOut_execIaOr {wd : Watched} (u : Bool) (t : Trig) (s : State) (h : Keeps wd s.watched) :
    KeepsOut (execIaOr u t s) wd := by simp [execIaOr, h]

@[simp] theorem keepsOut_execIaXor {wd : Watched} (u : Bool) (t : Trig) (s : State) (h : Keeps wd s.watched) :
    KeepsOut (execIaXor u t s) wd := by simp [execIaXor, h]

@[simp] theorem keepsOut_execIaShl {wd : Watched} (u : Bool) (t : Trig) (s : State) (h : Keeps wd s.watched) :
    KeepsOut (execIaShl u t s) wd := by simp [execIaShl, h]

@[simp] theorem keepsOut_execIaShr {wd : Watched} (u : Bool) (t : Trig) (s : State) (h : Keeps wd s.watched) :
    KeepsOut (execIaShr u t s) wd := by simp [execIaShr, h]

@[simp] theorem keepsOut_execIaSar {wd : Watched} (u : Bool) (t : Trig) (s : State) (h : Keeps wd s.watched) :
    KeepsOut (execIaSar u t s) wd := by simp [execIaSar, h]

@[simp] theorem keepsOut_execIaRotl {wd : Watched} (u : Bool) (t : Trig) (s : State) (h : Keeps wd s.watched) :
    KeepsOut (execIaRotl u t s) wd := by simp [execIaRotl, h]

@[simp] theorem keepsOut_execIaClz {wd : Watched} (u : Bool) (t : Trig) (s : State) (h : Keeps wd s.watched) :
    KeepsOut (execIaClz u t s) wd := by simp [execIaClz, h]

@[simp] theorem keepsOut_execIaCtz {wd : Watched} (u : Bool) (t : Trig) (s : State) (h : Keeps wd s.watched) :
    KeepsOut (execIaCtz u t s) wd := by simp [execIaCtz, h]

@[simp] theorem keepsOut_execIaPopc {wd : Watched} (u : Bool) (t : Trig) (s : State) (h : Keeps wd s.watched) :
    KeepsOut (execIaPopc u t s) wd := by simp [execIaPopc, h]

@[simp] theorem keepsOut_execIaExt {wd : Watched} (u : Bool) (t : Trig) (s : State) (h : Keeps wd s.watched) :
    KeepsOut (execIaExt u t s) wd := by simp [execIaExt, h]

@[simp] theorem keepsOut_execIaExtu {wd : Watched} (u : Bool) (t : Trig) (s : State) (h : Keeps wd s.watched) :
    KeepsOut (execIaExtu u t s) wd := by simp [execIaExtu, h]

@[simp] theorem keepsOut_execIaIns {wd : Watched} (u : Bool) (t : Trig) (s : State) (h : Keeps wd s.watched) :
    KeepsOut (execIaIns u t s) wd := by simp [execIaIns, h]

@[simp] theorem keepsOut_execIaCeq {wd : Watched} (u : Bool) (t : Trig) (s : State) (h : Keeps wd s.watched) :
    KeepsOut (execIaCeq u t s) wd := by simp [execIaCeq, h]

@[simp] theorem keepsOut_execIaCne {wd : Watched} (u : Bool) (t : Trig) (s : State) (h : Keeps wd s.watched) :
    KeepsOut (execIaCne u t s) wd := by simp [execIaCne, h]

@[simp] theorem keepsOut_execIaClt {wd : Watched} (u : Bool) (t : Trig) (s : State) (h : Keeps wd s.watched) :
    KeepsOut (execIaClt u t s) wd := by simp [execIaClt, h]

@[simp] theorem keepsOut_execIaCle {wd : Watched} (u : Bool) (t : Trig) (s : State) (h : Keeps wd s.watched) :
    KeepsOut (execIaCle u t s) wd := by simp [execIaCle, h]

@[simp] theorem keepsOut_execIaCltu {wd : Watched} (u : Bool) (t : Trig) (s : State) (h : Keeps wd s.watched) :
    KeepsOut (execIaCltu u t s) wd := by simp [execIaCltu, h]

@[simp] theorem keepsOut_execIaCleu {wd : Watched} (u : Bool) (t : Trig) (s : State) (h : Keeps wd s.watched) :
    KeepsOut (execIaCleu u t s) wd := by simp [execIaCleu, h]

@[simp] theorem keepsOut_execIaMul {wd : Watched} (u : Bool) (t : Trig) (s : State) (h : Keeps wd s.watched) :
    KeepsOut (execIaMul u t s) wd := by simp [execIaMul, h]

@[simp] theorem keepsOut_execIaMulh {wd : Watched} (u : Bool) (t : Trig) (s : State) (h : Keeps wd s.watched) :
    KeepsOut (execIaMulh u t s) wd := by simp [execIaMulh, h]

@[simp] theorem keepsOut_execIaMulhu {wd : Watched} (u : Bool) (t : Trig) (s : State) (h : Keeps wd s.watched) :
    KeepsOut (execIaMulhu u t s) wd := by simp [execIaMulhu, h]

@[simp] theorem keepsOut_execIaDiv {wd : Watched} (u : Bool) (t : Trig) (s : State) (h : Keeps wd s.watched) :
    KeepsOut (execIaDiv u t s) wd := by simp [execIaDiv, h]

@[simp] theorem keepsOut_execIaDivu {wd : Watched} (u : Bool) (t : Trig) (s : State) (h : Keeps wd s.watched) :
    KeepsOut (execIaDivu u t s) wd := by simp [execIaDivu, h]

@[simp] theorem keepsOut_execIaRem {wd : Watched} (u : Bool) (t : Trig) (s : State) (h : Keeps wd s.watched) :
    KeepsOut (execIaRem u t s) wd := by simp [execIaRem, h]

@[simp] theorem keepsOut_execIaRemu {wd : Watched} (u : Bool) (t : Trig) (s : State) (h : Keeps wd s.watched) :
    KeepsOut (execIaRemu u t s) wd := by simp [execIaRemu, h]

end Sys2Proof.Machine
end

