-- ==== Sys2Proof/Laws/WatchedCycle.lean ====
section
/-!
SUPPORT. `Keeps` for the words of a bundle and for a cycle of the clusters: one lemma per function.
-/
namespace Sys2Proof.Machine

open Sys2Proof

@[simp] theorem keepsOut_agOp {wd : Watched} (f : U64 → U64 → U64 → U64) (u : Bool) (t : Trig) (s : State)
    (h : Keeps wd s.watched) : KeepsOut (agOp f u t s) wd := by simp [agOp, h]

@[simp] theorem keepsOut_execAgAdd {wd : Watched} (u : Bool) (t : Trig) (s : State) (h : Keeps wd s.watched) :
    KeepsOut (execAgAdd u t s) wd := by simp [execAgAdd, h]

@[simp] theorem keepsOut_execAgSub {wd : Watched} (u : Bool) (t : Trig) (s : State) (h : Keeps wd s.watched) :
    KeepsOut (execAgSub u t s) wd := by simp [execAgSub, h]

@[simp] theorem keepsOut_execAgAddx {wd : Watched} (u : Bool) (t : Trig) (s : State) (h : Keeps wd s.watched) :
    KeepsOut (execAgAddx u t s) wd := by simp [execAgAddx, h]

@[simp] theorem keepsOut_execAgAnd {wd : Watched} (u : Bool) (t : Trig) (s : State) (h : Keeps wd s.watched) :
    KeepsOut (execAgAnd u t s) wd := by simp [execAgAnd, h]

@[simp] theorem keepsOut_execAgLtu {wd : Watched} (u : Bool) (t : Trig) (s : State) (h : Keeps wd s.watched) :
    KeepsOut (execAgLtu u t s) wd := by simp [execAgLtu, h]

@[simp] theorem keepsOut_execAgBnd {wd : Watched} (u : Bool) (t : Trig) (s : State) (h : Keeps wd s.watched) :
    KeepsOut (execAgBnd u t s) wd := by simp [execAgBnd, h]

@[simp] theorem keepsOut_execAgKv {wd : Watched} (u : Bool) (t : Trig) (s : State) (h : Keeps wd s.watched) :
    KeepsOut (execAgKv u t s) wd := by simp [execAgKv, h]

@[simp] theorem keepsOut_execAgKvmax {wd : Watched} (u : Bool) (t : Trig) (s : State) (h : Keeps wd s.watched) :
    KeepsOut (execAgKvmax u t s) wd := by simp [execAgKvmax, h]

@[simp] theorem keepsOut_execAgKvlen {wd : Watched} (u : Bool) (t : Trig) (s : State) (h : Keeps wd s.watched) :
    KeepsOut (execAgKvlen u t s) wd := by simp [execAgKvlen, h]

@[simp] theorem keepsOut_execAgKvget {wd : Watched} (u : Bool) (t : Trig) (s : State) (h : Keeps wd s.watched) :
    KeepsOut (execAgKvget u t s) wd := by simp [execAgKvget, h]

@[simp] theorem keepsOut_runWord {wd : Watched} (i : Instr) (s : State) (h : Keeps wd s.watched) :
    KeepsOut (runWord i s) wd := by
  cases i <;> simp (maxDischargeDepth := 12) [runWord, h]

theorem keepsOut_onNext {wd : Watched} (o : Host.Outcome State Fault Refusal) (f : State → Host.Outcome State Fault Refusal)
    (h : KeepsOut o wd) (g : ∀ t, Keeps wd t.watched → KeepsOut (f t) wd) : KeepsOut (onNext o f) wd := by
  intro t e; cases o with
  | next u => exact g u (h u rfl) t e
  | fault x => cases e
  | refused x => cases e

theorem keepsOut_overNext {α} {wd : Watched}
    (f : α → State → Host.Outcome State Fault Refusal) (l : List α) (s : State) (h : Keeps wd s.watched)
    (g : ∀ x t, Keeps wd t.watched → KeepsOut (f x t) wd) : KeepsOut (overNext f l s) wd := by
  induction l generalizing s with
  | nil => intro t e; cases e; exact h
  | cons x l ih => exact keepsOut_onNext _ _ (g x s h) (fun t ht => ih t ht)

@[simp] theorem keepsOut_runWords {wd : Watched} (ws) (s : State) (h : Keeps wd s.watched) : KeepsOut (runWords ws s) wd :=
    by
  unfold runWords; exact keepsOut_overNext _ _ _ h (fun x t h => keepsOut_runWord _ _ (by simp [h]))

@[simp] theorem keepsOut_issue {wd : Watched} (s : State) (h : Keeps wd s.watched) : KeepsOut s.issue wd := by
  unfold State.issue; dsimp only
  split
  · simp [h]
  · split
    · simp [h]
    · split
      · simp [h]
      · split
        · simp [h]
        · split
          · simp [h]
          · apply keepsOut_onNext
            · simp [h]
            · intro t h; simp [h]

@[simp] theorem keepsOut_issueAll {wd : Watched} (s : State) (k) (h : Keeps wd s.watched) : KeepsOut (s.issueAll k) wd := by
  unfold State.issueAll; exact keepsOut_overNext _ _ _ h (fun x t h => keepsOut_issue _ (keeps_cur _ _ h))

@[simp] theorem keeps_deliverDue {wd : Watched} (s : State) (k) (h : Keeps wd s.watched) :
    Keeps wd (s.deliverDue k).watched := by
  unfold State.deliverDue
  extract_lets again handler s1 s2 s3 s4
  have h2 : Keeps wd s2.watched := keeps_eachCore _ _ _ (by rw [watched_updCluster]; exact h) (fun _ h => keeps_resultsNow _ _ h)
  have h4 : Keeps wd s4.watched :=
    keeps_eachCore _ _ _ (by rw [watched_updCluster]; exact h2) (fun _ h => by rw [watched_softNow]; exact h)
  exact keeps_ite h4 (keeps_eachCore _ _ _ h4 (fun _ h => keeps_missAll _ _ h))

@[simp] theorem keepsOut_attempt {wd : Watched} (s : State) (k) (h : Keeps wd s.watched) : KeepsOut (s.attempt k) wd := by
  unfold State.attempt
  refine keepsOut_onNext _ _ (by simp [h]) (fun t h => ?_)
  dsimp only
  rw [keepsOut_next, watched_updCluster]
  have h6 : Keeps wd (t.eachCore k (fun s => ((s.vxReads false).lsReads false).verStep)).watched :=
    keeps_eachCore _ _ _ h (fun s h => keeps_verStep _ (keeps_lsReads _ _ (keeps_vxReads _ _ h)))
  exact keeps_ite h6 (keeps_engCycle _ _ _ h6)

@[simp] theorem keeps_commit {wd : Watched} (s : State) (k) (h : Keeps wd s.watched) : Keeps wd (s.commit k).watched := by
  unfold State.commit
  refine keeps_ite (keeps_trapReturn _ _ (keeps_endWrites _ _ h)) ?_
  rw [watched_updCluster]
  exact keeps_ite (by rw [watched_updCluster]; exact keeps_endWrites _ _ h)
    (by rw [watched_updCluster, watched_engEnd, watched_updCluster]; exact keeps_endWrites _ _ h)

@[simp] theorem watched_carryMarks (s t : State) (k : Nat) : (s.carryMarks t k).watched = s.watched := by
  have h : (s.carry t k Core.marks).watched = s.watched := watched_carry _ _ _ _
  unfold State.carryMarks; rw [watched_mk]; exact h

@[simp] theorem keeps_engHold {wd : Watched} (s : State) (k) (h : Keeps wd s.watched) : Keeps wd (s.engHold k).watched := by
  unfold State.engHold
  dsimp only
  have h1 : Keeps wd (((s.updCluster k (fun c => { c with stall := false, wait := false, raised := [] })).eachCore k
      (fun s => s.missAll true)).engCycle k true).watched :=
    keeps_engCycle _ _ _ (keeps_eachCore _ _ _ (by rw [watched_updCluster]; exact h) (fun _ h => keeps_missAll _ _ h))
  generalize State.engCycle _ k true = t at h1
  refine keeps_ite (keeps_holdStall _ _ ?_) ?_
  · rw [watched_updCluster, watched_carryMarks]; exact h
  · rw [watched_updCluster, watched_engEnd]; exact keeps_endWrites _ _ h1

@[simp] theorem keeps_holdWait {wd : Watched} (s : State) (k) (h : Keeps wd s.watched) : Keeps wd (s.holdWait k).watched :=
    by
  unfold State.holdWait; exact keeps_ite (by simp [h]) (by simp [h])

@[simp] theorem keeps_trap {wd : Watched} (s : State) (k cs) (h : Keeps wd s.watched) : Keeps wd (s.trap k cs).watched := by
  unfold State.trap; dsimp only; apply keeps_tryTrap; rw [watched_updCluster]; exact keeps_beginStop _ _ h

@[simp] theorem keeps_fireTimers {wd : Watched} (s : State) (k cs) (h : Keeps wd s.watched) :
    Keeps wd (s.fireTimers k cs).watched := by
  unfold State.fireTimers; apply keeps_trap; rw [watched_updCluster]; exact h

theorem keeps_settle {wd : Watched} (s d t : State) (k)
    (h : Keeps wd s.watched) (hd : Keeps wd d.watched) (ht : Keeps wd t.watched) : Keeps wd (s.settle d t k).watched := by
  unfold State.settle; dsimp only
  refine keeps_ite (keeps_ite (keeps_holdStall _ _ (by rw [watched_carryMarks, watched_updCluster]; exact h))
    (keeps_holdWait _ _ (by rw [watched_updCluster]; exact h))) (keeps_ite (by simp [hd]) (keeps_ite (by simp [hd])
    (keeps_ite (keeps_ite (by simp [hd]) (by simp [hd])) (keeps_ite (by simp [hd]) (keeps_ite (by simp [hd])
      (keeps_ite (by simp [hd]) (by simp [ht])))))))

@[simp] theorem keeps_engOver {wd : Watched} (s : State) (k) (h : Keeps wd s.watched) : Keeps wd (s.engOver k).watched := by
  unfold State.engOver
  exact keeps_ite h (by
    rw [watched_updCluster]
    exact keeps_eachCore _ _ _ h (fun _ h => by rw [watched_doneHead, watched_doneHead]; exact h))

@[simp] theorem keepsOut_boundary {wd : Watched} (s : State) (k) (h : Keeps wd s.watched) : KeepsOut (s.boundary k) wd := by
  unfold State.boundary; dsimp only
  have ho := keeps_engOver s k h
  generalize s.engOver k = s1 at ho
  have hd := keeps_deliverDue s1 k ho
  generalize s1.deliverDue k = d at hd
  refine keepsOut_ite (by simp [h]) (keepsOut_ite (by simp [hd]) (keepsOut_ite ?_ ?_))
  · rw [keepsOut_next]; exact keeps_settle _ _ _ _ ho hd (by rw [watched_updCluster]; exact hd)
  · exact keepsOut_onNext _ _ (keepsOut_attempt _ _ (by rw [watched_updCluster]; exact hd))
      (fun t ht => by rw [keepsOut_next]; exact keeps_settle _ _ _ _ ho hd ht)

@[simp] theorem keeps_vxAhead {wd : Watched} (s : State) (pos : Nat) (v : VOp) (h : Keeps wd s.watched) :
    Keeps wd (s.vxAhead pos v).watched := by
  unfold State.vxAhead
  exact keeps_ite h (keeps_foldl1 _ (fun p j h => by exact keeps_storeLines p.1 _ _ _ h) _ _ h)

@[simp] theorem keeps_storesAhead {wd : Watched} (s : State) (h : Keeps wd s.watched) : Keeps wd s.storesAhead.watched :=
  keeps_foldl _ (fun _ _ h => keeps_vxAhead _ _ _ h) _ _ h

@[simp] theorem keeps_saveTick {wd : Watched} (s : State) (k) (h : Keeps wd s.watched) : Keeps wd (s.saveTick k).watched := by
  unfold State.saveTick
  extract_lets s1 t
  have h0 : Keeps wd s1.watched := keeps_ite (keeps_eachCore _ _ _ h (fun _ h => keeps_storesAhead _ h)) h
  have h1 : Keeps wd t.watched := keeps_eachCore _ _ _ (by rw [watched_updCluster]; exact h0) (fun s h => by simp [h])
  refine keeps_ite (keeps_askPages _ _ (by rw [watched_carryMarks]; exact h0)) ?_
  rw [watched_updCluster]
  exact keeps_askPages _ _ (by rw [watched_engEnd]; exact keeps_endWrites _ _ h1)

@[simp] theorem keeps_stageStep {wd : Watched} (s : State) (k) (h : Keeps wd s.watched) :
    Keeps wd (s.stageStep k).watched := by
  unfold State.stageStep
  exact keeps_ite h (keeps_eachCore _ _ _ h (fun s h => keeps_foldl _ (fun s x h => by simp [h]) _ _ h))

@[simp] theorem keepsOut_clusterTick {wd : Watched} (s : State) (k) (h : Keeps wd s.watched) :
    KeepsOut (s.clusterTick k) wd := by
  unfold State.clusterTick; dsimp only
  repeat' (first | with_reducible apply keepsOut_ite | (simp [h]; done))

@[simp] theorem keepsOut_tick {wd : Watched} (s : State) (h : Keeps wd s.watched) : KeepsOut s.tick wd := by
  unfold State.tick
  refine keepsOut_onNext _ _ (keepsOut_overNext _ _ _ h (fun x t h => by simp [h])) (fun t h => by simp [h])

end Sys2Proof.Machine
end

