-- ==== Sys2Proof/Laws/WatchedDevice.lean ====
section
/-!
SUPPORT. `Keeps` for the rows of the device that change no slot, board or STATUS: one lemma per function.
-/
namespace Sys2Proof.Machine

open Sys2Proof

@[simp] theorem keepsOut_notYet {wd : Watched} (r) : KeepsOut (notYet r) wd := by simp [notYet]

@[simp] theorem keepsOut_execAccessLeave {wd : Watched} (s : State) (h : Keeps wd s.watched) :
    KeepsOut (execAccessLeave s) wd := by
  unfold execAccessLeave; (repeat' split) <;> simp [h]

@[simp] theorem keepsOut_execAccessAdvance {wd : Watched} (s : State) (h : Keeps wd s.watched) :
    KeepsOut (execAccessAdvance s) wd := by
  unfold execAccessAdvance; (repeat' split) <;> simp [h]

@[simp] theorem keepsOut_execAccessPerform {wd : Watched} (s : State) (h : Keeps wd s.watched) :
    KeepsOut (execAccessPerform s) wd := by
  unfold execAccessPerform; (repeat' split) <;> simp [h]

@[simp] theorem keepsOut_execMemoryReplyArrival {wd : Watched} (s : State) (h : Keeps wd s.watched) :
    KeepsOut (execMemoryReplyArrival s) wd := by
  unfold execMemoryReplyArrival; (repeat' split) <;> simp [watched_parts, h]

theorem keepsOut_slotStep {wd : Watched} (r) (s : State) (ok f) (g : ∀ k, Keeps wd (f k).watched) :
    KeepsOut (slotStep r s ok f) wd := by
  unfold slotStep; split
  · split <;> simp [g]
  · simp

@[simp] theorem keepsOut_execResultCompletion {wd : Watched} (s : State) (h : Keeps wd s.watched) :
    KeepsOut (execResultCompletion s) wd := by
  unfold execResultCompletion; exact keepsOut_slotStep _ _ _ _ (fun k => by
    rw [watched_updCluster]; exact keeps_eachCore _ _ _ h (fun s h => keeps_resultsNow _ _ h))

@[simp] theorem keepsOut_execXcArrival {wd : Watched} (s : State) (h : Keeps wd s.watched) :
    KeepsOut (execXcArrival s) wd := by
  unfold execXcArrival; exact keepsOut_slotStep _ _ _ _ (fun k => by simp [h])

@[simp] theorem keepsOut_boundaryStep {wd : Watched} (r) (s : State) (ok) (h : Keeps wd s.watched) :
    KeepsOut (boundaryStep r s ok) wd := by
  unfold boundaryStep; split
  · split
    · exact keepsOut_onNext _ _ (keepsOut_boundary _ _ h) (fun t h => by split <;> simp [h])
    · simp
  · simp

@[simp] theorem keepsOut_execTrapEntry {wd : Watched} (s : State) (h : Keeps wd s.watched) :
    KeepsOut (execTrapEntry s) wd := by
  unfold execTrapEntry; dsimp only; (repeat' split) <;> simp [h]

@[simp] theorem keepsOut_execTimerFire {wd : Watched} (s : State) (h : Keeps wd s.watched) :
    KeepsOut (execTimerFire s) wd := by
  unfold execTimerFire; simp [h]

@[simp] theorem keepsOut_execHoldEnd {wd : Watched} (s : State) (h : Keeps wd s.watched) : KeepsOut (execHoldEnd s) wd := by
  unfold execHoldEnd; split
  · dsimp only; split
    · exact keepsOut_onNext _ _ (keepsOut_boundary _ _ h) (fun t _ => by split <;> simp [h])
    · simp
  · simp

@[simp] theorem keepsOut_execCanaryExpiry {wd : Watched} (s : State) (h : Keeps wd s.watched) :
    KeepsOut (execCanaryExpiry s) wd := by
  unfold execCanaryExpiry; exact keepsOut_slotStep _ _ _ _ (fun k => by simp [h])

theorem keepsOut_ofOption {wd : Watched} (r : String) (o : Option State) (h : ∀ t, o = some t → Keeps wd t.watched) :
    KeepsOut (ofOption r o) wd := by
  unfold ofOption; split
  · rw [keepsOut_next]; exact h _ rfl
  · exact keepsOut_notYet _

@[simp] theorem keepsOut_execEngineCommandStart {wd : Watched} (s : State) (h : Keeps wd s.watched) :
    KeepsOut (execEngineCommandStart s) wd := by
  unfold execEngineCommandStart
  split
  · rename_i slot core k pos _
    have h1 : Keeps wd ({ s with cur := 8 * slot.toNat + core.toNat } : State).watched := keeps_cur s _ h
    dsimp only
    generalize State.mk .. = u at h1
    split
    · exact keepsOut_notYet _
    · refine keepsOut_ite (keepsOut_ite (keepsOut_notYet _) (keepsOut_ofOption _ _ (fun t e => keeps_wzAdvance e h1)))
        (keepsOut_ite (keepsOut_notYet _) (keepsOut_ite (keepsOut_notYet _) (keepsOut_ite ?_ (keepsOut_ite (keepsOut_notYet _)
          (keepsOut_ite ?_ (keepsOut_ite ?_ (keepsOut_notYet _)))))))
      · rw [keepsOut_next, watched_updCluster, watched_startCmd]; exact h1
      · rw [keepsOut_next, watched_updCluster, watched_wzFree]; exact h1
      · rw [keepsOut_next, watched_updCluster, watched_wzHand]; exact h1
  · exact keepsOut_ite (keepsOut_notYet _) (keepsOut_ofOption _ _ (fun t e => by
      rw [watched_wzPart e]; exact keeps_cur s _ h))
  · exact keepsOut_notYet _

@[simp] theorem keepsOut_execEngineCommandComplete {wd : Watched} (s : State) (h : Keeps wd s.watched) :
    KeepsOut (execEngineCommandComplete s) wd := by
  unfold execEngineCommandComplete
  split
  · rename_i slot core k pos _
    have h1 : Keeps wd ({ s with cur := 8 * slot.toNat + core.toNat } : State).watched := keeps_cur s _ h
    dsimp only
    generalize State.mk .. = u at h1
    refine keepsOut_ite (keepsOut_notYet _) (keepsOut_ite ?_ ?_)
    · split
      · rename_i t e; rw [keepsOut_next, watched_wzComplete e]; exact h1
      · simp
    · split
      · exact keepsOut_ite (by simp [h1]) (keepsOut_notYet _)
      · simp
  · simp

@[simp] theorem keepsOut_execCollectiveMessage {wd : Watched} (s : State) (h : Keeps wd s.watched) :
    KeepsOut (execCollectiveMessage s) wd := by
  unfold execCollectiveMessage; dsimp only; split
  · split
    · exact keepsOut_notYet _
    · refine keepsOut_ite (keepsOut_notYet _) ?_
      rw [keepsOut_next]; exact keeps_collMessage _ _ _ _ _ h
  · exact keepsOut_notYet _

@[simp] theorem keepsOut_execQuorumClose {wd : Watched} (s : State) (h : Keeps wd s.watched) :
    KeepsOut (execQuorumClose s) wd := by
  unfold execQuorumClose; (repeat' split) <;> simp [h]

@[simp] theorem keepsOut_execQueueCreate {wd : Watched} (s : State) (h : Keeps wd s.watched) :
    KeepsOut (execQueueCreate s) wd := by
  unfold execQueueCreate; (repeat' split) <;> simp [watched_parts, h]

@[simp] theorem keepsOut_execQueueDestroy {wd : Watched} (s : State) (h : Keeps wd s.watched) :
    KeepsOut (execQueueDestroy s) wd := by
  unfold execQueueDestroy; (repeat' split) <;> simp [watched_parts, h]

@[simp] theorem keepsOut_execDoorbellWrite {wd : Watched} (s : State) (h : Keeps wd s.watched) :
    KeepsOut (execDoorbellWrite s) wd := by
  unfold execDoorbellWrite; (repeat' split) <;> simp [h]

@[simp] theorem keepsOut_execInjectWrite {wd : Watched} (s : State) (h : Keeps wd s.watched) :
    KeepsOut (execInjectWrite s) wd := by
  unfold execInjectWrite; (repeat' split) <;> simp [h]

@[simp] theorem keepsOut_execKillackWrite {wd : Watched} (s : State) (h : Keeps wd s.watched) :
    KeepsOut (execKillackWrite s) wd := by
  unfold execKillackWrite; (repeat' split) <;> simp [h]

@[simp] theorem keepsOut_execPriRequestSend {wd : Watched} (s : State) (h : Keeps wd s.watched) :
    KeepsOut (execPriRequestSend s) wd := by
  unfold execPriRequestSend; (repeat' split) <;> simp [watched_parts, h]

@[simp] theorem keepsOut_execPageRequestRouteSelect {wd : Watched} (s : State) (h : Keeps wd s.watched) :
    KeepsOut (execPageRequestRouteSelect s) wd := by
  unfold execPageRequestRouteSelect; (repeat' split) <;> simp [watched_parts, h]

@[simp] theorem watched_answerRemote (s : State) (a : Answer) : (s.answerRemote a).watched = s.watched := rfl

@[simp] theorem watched_payloadPut (s : State) (t : Team) (p : Payload) (bs : List Byte) :
    (s.payloadPut t p bs).1.watched = s.watched := by
  have step (l : List ((Nat × Nat × Nat) × U16 × Option U64)) (x : State × List Nat × List Byte) (f)
      (g : ∀ x q, (f x q).1.watched = x.1.watched) : (l.foldl f x).1.watched = x.1.watched := by
    induction l generalizing x with
    | nil => rfl
    | cons q l ih => rw [List.foldl_cons, ih, g]
  unfold State.payloadPut; dsimp only; rw [watched_mk, watched_keys, watched_board, watched_status, watched_gal, watched_dram]
  exact step _ _ _ (fun x q => by split <;> simp)

@[simp] theorem watched_takePayload (s : State) (p : Payload) : (s.takePayload p).watched = s.watched := by
  unfold State.takePayload; dsimp only; (repeat' split) <;> simp [watched_parts]

@[simp] theorem keepsOut_execRemoteCopyPayload {wd : Watched} (s : State) (h : Keeps wd s.watched) :
    KeepsOut (execRemoteCopyPayload s) wd := by
  unfold execRemoteCopyPayload
  repeat' first
    | assumption
    | exact keepsOut_notYet _
    | with_reducible apply keepsOut_ite
    | with_reducible apply keeps_ite
    | (simp (maxDischargeDepth := 12) [watched_parts, *]; done)
    | with_reducible refine keeps_foldl _ (fun _ _ _ => ?_) _ _ ?_
    | with_reducible refine keeps_foldl1 _ (fun _ _ _ => ?_) _ _ ?_
    | with_reducible refine keeps_eachCore _ _ _ ?_ (fun _ _ => ?_)
    | split
    | dsimp only
    | simp only [keepsOut_next, watched_parts]

@[simp] theorem keepsOut_execAllowListInstall {wd : Watched} (s : State) (h : Keeps wd s.watched) :
    KeepsOut (execAllowListInstall s) wd := by
  unfold execAllowListInstall; (repeat' split) <;> simp [watched_parts, h]

@[simp] theorem keepsOut_execSessionSetup {wd : Watched} (s : State) (h : Keeps wd s.watched) :
    KeepsOut (execSessionSetup s) wd := by
  unfold execSessionSetup; split
  · refine keepsOut_ite ?_ (keepsOut_ite ?_ ?_) <;> rw [keepsOut_next]
    · exact keeps_cutCollectives _ h
    · exact h
    · exact h
  · exact keepsOut_notYet _

@[simp] theorem keepsOut_execSessionRekey {wd : Watched} (s : State) (h : Keeps wd s.watched) :
    KeepsOut (execSessionRekey s) wd := by
  unfold execSessionRekey; (repeat' split) <;> simp [watched_parts, h]

@[simp] theorem keepsOut_execSessionFrameReceive {wd : Watched} (s : State) (h : Keeps wd s.watched) :
    KeepsOut (execSessionFrameReceive s) wd := by
  unfold execSessionFrameReceive; (repeat' split) <;> simp [watched_parts, h]

@[simp] theorem keeps_loadBlock {wd : Watched} (s : State) (b bs tag) (h : Keeps wd s.watched) :
    Keeps wd (s.loadBlock b bs tag).watched := keeps_writeMeta _ _ _ (keeps_writeLoc _ _ _ _ h)

@[simp] theorem keeps_loadMem {wd : Watched} (s : State) (pa bs tags) (h : Keeps wd s.watched) :
    Keeps wd (s.loadMem pa bs tags).watched := by
  unfold State.loadMem; exact keeps_foldl _ (fun s p h => by simp [h]) _ _ h

@[simp] theorem keeps_writeRecord {wd : Watched} (s : State) (q) (h : Keeps wd s.watched) :
    Keeps wd (s.writeRecord q).watched := by
  unfold State.writeRecord; split
  · exact h
  · split
    · exact h
    · dsimp only; rw [watched_mk, watched_keys, watched_board, watched_status, watched_gal, watched_dram, watched_updQueue]
      exact keeps_ite (keeps_physWrite _ _ _ h) h

@[simp] theorem keepsOut_execCompletionRecordWrite {wd : Watched} (s : State) (h : Keeps wd s.watched) :
    KeepsOut (execCompletionRecordWrite s) wd := by
  unfold execCompletionRecordWrite; (repeat' split) <;> simp [h]

@[simp] theorem keeps_reportArea {wd : Watched} (s : State) (l st) (h : Keeps wd s.watched) :
    Keeps wd (s.reportArea l st).watched := by
  unfold State.reportArea; exact keeps_ite h (keeps_vaWrite _ _ _ _ _ h)

theorem watched_refreshed (s o : State) : (s.refresh o).watched = s.watched := rfl

@[simp] theorem keeps_endLaunch {wd : Watched} (s : State) (l st) (h : Keeps wd s.watched) :
    Keeps wd (s.endLaunch l st).watched := by
  unfold State.endLaunch; dsimp only; rw [watched_refreshed, watched_mk, watched_keys, watched_board, watched_status,
    watched_gal, watched_dram]
  rw [watched_record]; exact keeps_ite (keeps_reportArea _ _ _ h) h

@[simp] theorem keeps_settleLaunch {wd : Watched} (s : State) (id) (h : Keeps wd s.watched) :
    Keeps wd (s.settleLaunch id).watched := by
  unfold State.settleLaunch; split
  · exact h
  · refine keeps_ite (keeps_endLaunch _ _ _ h) ?_
    split
    · exact keeps_ite (keeps_endLaunch _ _ _ h) h
    · exact h

@[simp] theorem keeps_accept {wd : Watched} (s : State) (q idx prio e m p) (h : Keeps wd s.watched) :
    Keeps wd (s.accept q idx prio e m p).watched := by
  unfold State.accept
  extract_lets old rd image bound gbase gsize code args arglen maps info tags bytes locals gals wins entries blk codeTags s1 s2 s3 s4 s5 s6 l
  have h3 : Keeps wd s3.watched := keeps_loadMem _ _ _ _ (keeps_clearMem _ _ _ (keeps_loadGallery _ _ _ _ h))
  have h5 : Keeps wd s5.watched :=
    keeps_foldl _ (fun s w h => keeps_loadMem _ _ _ _ h) _ _ (keeps_foldl _ (fun s w h => keeps_clearMem _ _ _ h) _ _ h3)
  have h6 : Keeps wd s6.watched := keeps_physWrite _ _ _ h5
  rw [watched_refresh, watched_mk]; exact h6

@[simp] theorem keepsOut_execSubmissionTake {wd : Watched} (s : State) (h : Keeps wd s.watched) :
    KeepsOut (execSubmissionTake s) wd := by
  unfold execSubmissionTake
  split
  · split
    · exact keepsOut_notYet _
    · rename_i q given plan _ _ x _
      refine keepsOut_ite (keepsOut_notYet _) ?_
      have h := keeps_ite (c := x.par.dev = true) (keeps_met s (.mem ((x.par.ring.toNat + 64 * x.head.toNat) / 64)) h) h
      dsimp only
      generalize (if x.par.dev = true then s.met (.mem ((x.par.ring.toNat + 64 * x.head.toNat) / 64)) else s) = s at h ⊢
      have ht : Keeps wd (s.updQueue q.toNat (fun x => { x with head := BitVec.ofNat 16 ((x.head.toNat + 1) % x.par.entries) })).watched := by
        rw [watched_updQueue]; exact h
      split
      · rw [keepsOut_next]
        have hr (u : State) (r : Completion) (hu : Keeps wd u.watched) : Keeps wd (u.record r).watched :=
          by rw [watched_record]; exact hu
        exact keeps_ite (keeps_writeRecord _ _ (hr _ _ (by rw [watched_updQueue]; exact h))) (hr _ _ (by rw [watched_updQueue]; exact h))
      · exact keepsOut_ite ((keepsOut_next _ _).2 (keeps_accept _ _ _ _ _ _ _ (by rw [watched_updQueue]; exact h))) (keepsOut_notYet _)
      · exact keepsOut_notYet _
  · exact keepsOut_notYet _

@[simp] theorem keepsOut_execGangAgreement {wd : Watched} (s : State) (h : Keeps wd s.watched) :
    KeepsOut (execGangAgreement s) wd := by
  unfold execGangAgreement; (repeat' split) <;> simp [h]

@[simp] theorem keepsOut_execDieLinkRetrainRequest {wd : Watched} (s : State) (h : Keeps wd s.watched) :
    KeepsOut (execDieLinkRetrainRequest s) wd := by
  unfold execDieLinkRetrainRequest; (repeat' split) <;> simp [watched_parts, h]

@[simp] theorem keepsOut_execCollectiveRingMap {wd : Watched} (s : State) (h : Keeps wd s.watched) :
    KeepsOut (execCollectiveRingMap s) wd := by
  unfold execCollectiveRingMap; split
  · dsimp only
    refine keepsOut_ite (keepsOut_notYet _) ?_
    rw [keepsOut_next, watched_mk, watched_keys, watched_board, watched_status, watched_gal, watched_dram]
    exact keeps_vaWrite _ _ _ _ _ h
  · simp

@[simp] theorem keepsOut_execCollectiveDescriptorTake {wd : Watched} (s : State) (h : Keeps wd s.watched) :
    KeepsOut (execCollectiveDescriptorTake s) wd := by
  unfold execCollectiveDescriptorTake
  split
  · rename_i n _
    split
    · simp
    · rename_i r _
      dsimp only
      refine keepsOut_ite (keepsOut_notYet _) ?_
      have h1 := keeps_vaRead (wd := wd) s (s.ringTeam r) (r.crb.toNat + 0x40 + 64 * (r.head.toNat % r.size.toNat)) 64 h
      generalize State.vaRead s (s.ringTeam r) (r.crb.toNat + 0x40 + 64 * (r.head.toNat % r.size.toNat)) 64 = got at h1
      have h2 : Keeps wd ((got.1.ringWord r 4 (r.head + 1)).updRing n (fun r => { r with head := r.head + 1, posts := r.posts.drop 1 })).watched := by simp [h1]
      generalize (got.1.ringWord r 4 (r.head + 1)).updRing n (fun r => { r with head := r.head + 1, posts := r.posts.drop 1 }) = u at h2
      have h3 := fun d => keeps_vaRead (wd := wd) u (s.ringTeam r) (dTable d) 16 h2
      have he (v : State) (x : Run) (m : CollMsg) (k e : Nat) (hv : Keeps wd v.watched) :
          Keeps wd (((v.updRing n (fun r => { r with code := k })).collSend n m x.others).collEnd n r x 1 e []).watched :=
        keeps_collEnd _ _ _ _ _ _ _ (by rw [watched_collSend, watched_updRing]; exact hv)
      refine keepsOut_ite ?_ ?_
      · rw [keepsOut_next]; exact keeps_collEnd _ _ _ _ _ _ _ h2
      refine keepsOut_ite ?_ ?_
      · rw [keepsOut_next]; exact keeps_collPage _ _ _ _ _ _ _ h2
      refine keepsOut_ite ?_ ?_
      · rw [keepsOut_next]; exact he _ _ _ _ _ (h3 _)
      refine keepsOut_ite ?_ ?_
      · rw [keepsOut_next]; exact keeps_collPage _ _ _ _ _ _ _ (h3 _)
      split
      · rw [keepsOut_next]; exact he _ _ _ _ _ (keeps_vaRead _ _ _ _ (h3 _))
      · rw [keepsOut_next]; exact keeps_collStart _ _ _ _ (keeps_vaRead _ _ _ _ (h3 _))
  · simp

@[simp] theorem watched_revokeAll (s : State) (f) : (s.revokeAll f).watched = s.watched := by
  unfold State.revokeAll; rw [watched_mk]; simp only [State.watched]; congr 1; exact keys_mapsnd _ _

@[simp] theorem keeps_copyPage {wd : Watched} (s : State) (x d n g) (h : Keeps wd s.watched) :
    Keeps wd (s.copyPage x d n g).watched := by
  unfold State.copyPage; extract_lets u
  have hu : Keeps wd u.watched := by
    show Keeps wd (match s.fire.loc with | some (.mem b) => if x ≤ 64 * b && 64 * b < x + n then s.eccRead (.mem b) .clean else s | _ => s).watched
    split
    · exact keeps_ite (keeps_eccRead _ _ _ h) h
    · exact h
  refine hu.trans ⟨rfl, rfl, rfl, fun w => ?_⟩
  exact ⟨w.1, ⟨swf_sput _ (swf_sclear _ _ w.2.1.1), swf_sput _ (swf_sclear _ _ w.2.1.2)⟩, swf_sput (m :=
    sclear u.dram.swMeta _ _) _ (swf_sclear _ _ w.2.2.1),
    swf_sput (m := sclear u.dram.grade _ _) _ (swf_sclear _ _ w.2.2.2)⟩

@[simp] theorem keeps_format {wd : Watched} (s : State) (d n g) (h : Keeps wd s.watched) :
    Keeps wd (s.format d n g).watched := by
  refine h.trans ⟨rfl, rfl, rfl, fun w => ?_⟩
  exact ⟨w.1, TMem.wf_clear _ _ w.2.1, swf_sclear _ _ w.2.2.1, swf_sput (m :=
    sclear s.dram.grade _ _) _ (swf_sclear _ _ w.2.2.2)⟩

@[simp] theorem watched_retarget (s : State) (a b : U64) : (s.retarget a b).watched = s.watched := by
  unfold State.retarget; rw [watched_mk]; simp only [State.watched]; congr 1; exact keys_mapsnd _ _

@[simp] theorem keeps_changeEntry {wd : Watched} (s : State) (l va old p lv e) (h : Keeps wd s.watched) :
    Keeps wd (s.changeEntry l va old p lv e).watched := by
  unfold State.changeEntry; extract_lets n dst gone s1 s2 s3
  have h1 : Keeps wd s1.watched := keeps_ite (by rw [watched_retarget]; exact keeps_copyPage _ _ _ _ _ h) (keeps_ite (keeps_format _ _ _ _ h) h)
  have h2 : Keeps wd s2.watched := keeps_putEntry _ _ _ _ h1
  have h3 : Keeps wd s3.watched := keeps_ite (by rw [watched_revokeAll]; exact h2) h2
  rw [watched_mk, show (List.map Prod.fst (s3.clusters.map _)) = s3.clusters.map Prod.fst from by simp,
    watched_keys, watched_board, watched_status, watched_gal, watched_dram]
  exact h3

@[simp] theorem keeps_makeResident {wd : Watched} (s : State) (l va) (h : Keeps wd s.watched) :
    Keeps wd (s.makeResident l va).watched := by
  unfold State.makeResident; (repeat' split) <;> simp [h]

@[simp] theorem keeps_endRequest {wd : Watched} (s : State) (p d) (h : Keeps wd s.watched) :
    Keeps wd (s.endRequest p d).watched := by
  unfold State.endRequest; extract_lets s1 s2 st
  have h2 : Keeps wd s2.watched := keeps_ite (keeps_makeResident _ _ _ h) h
  refine keeps_ite (keeps_ite h2 ?_) ?_
  · rw [watched_mk, show (List.map Prod.fst (s2.clusters.map _)) = s2.clusters.map Prod.fst from by
      rw [List.map_map]; congr 1; funext c; simp only [Function.comp]; split <;> rfl]
    exact h2
  · rw [watched_mk, show (List.map Prod.fst (s2.clusters.map _)) = s2.clusters.map Prod.fst from by simp]
    exact h2

@[simp] theorem watched_staleReply (s : State) : s.staleReply.watched = s.watched := rfl

@[simp] theorem watched_answer (s : State) (i st p) : (s.answer i st p).watched = s.watched := rfl

@[simp] theorem keeps_takeAnswer {wd : Watched} (s : State) (a : PageAnswer) (h : Keeps wd s.watched) :
    Keeps wd (s.takeAnswer a).watched := by
  unfold State.takeAnswer; split
  · exact keeps_ite (by rw [watched_staleReply]; exact keeps_endRequest _ _ _ h) (keeps_endRequest _ _ _ h)
  · exact h

@[simp] theorem keeps_takeAnswers {wd : Watched} (s : State) (h : Keeps wd s.watched) : Keeps wd s.takeAnswers.watched :=
  keeps_foldl _ (fun _ _ g => keeps_takeAnswer _ _ g) _ _ h

@[simp] theorem keepsOut_execPageReply {wd : Watched} (s : State) (h : Keeps wd s.watched) :
    KeepsOut (execPageReply s) wd := by
  unfold execPageReply; split
  · refine keepsOut_ite (keepsOut_notYet _) ?_
    have h := keeps_ite (c := s.host.service.repDev = true)
      (keeps_met s (.mem ((s.host.service.rep.toNat + 16 * s.host.rpqHead.toNat) / 64)) h) h
    dsimp only
    generalize (if s.host.service.repDev = true then s.met (.mem ((s.host.service.rep.toNat + 16 * s.host.rpqHead.toNat) / 64))
      else s) = s at h ⊢
    refine keepsOut_ite (keepsOut_notYet _) ?_
    rw [keepsOut_next, watched_answer]; exact h
  · simp

@[simp] theorem keepsOut_execPriResponse {wd : Watched} (s : State) (h : Keeps wd s.watched) :
    KeepsOut (execPriResponse s) wd := by
  unfold execPriResponse; (repeat' split) <;> simp [h]

@[simp] theorem keepsOut_execPageRequestTimeout {wd : Watched} (s : State) (h : Keeps wd s.watched) :
    KeepsOut (execPageRequestTimeout s) wd := by
  unfold execPageRequestTimeout; (repeat' split) <;> simp [h]

@[simp] theorem keepsOut_execPageTableChange {wd : Watched} (s : State) (h : Keeps wd s.watched) :
    KeepsOut (execPageTableChange s) wd := by
  unfold execPageTableChange; dsimp only; (repeat' split) <;> simp [h]

theorem watched_lend {s t : State} {l lv : Nat} {p : U64} (h : s.lend l lv p = some t) : t.watched = s.watched := by
  unfold State.lend at h; split at h
  · cases h; rfl
  · dsimp only at h
    split at h <;> cases h
    exact watched_foldl _ (fun _ _ => watched_updCluster _ _ _) _ _

@[simp] theorem keepsOut_execMigrationStart {wd : Watched} (s : State) (h : Keeps wd s.watched) :
    KeepsOut (execMigrationStart s) wd := by
  unfold execMigrationStart; split
  · dsimp only; split
    · simp
    · split
      · split
        · rename_i t _ e
          refine keepsOut_ite (keepsOut_notYet _) ?_
          rw [keepsOut_next]
          exact keeps_changeEntry _ _ _ _ _ _ _ (by rw [watched_lend e]; exact h)
        · simp
      · simp
  · simp

@[simp] theorem keeps_visit {wd : Watched} (s : State) (l) (h : Keeps wd s.watched) : Keeps wd (s.visit l).watched := by
  have e : ∀ (l : List Nat) (u : State), (l.foldl (fun s k => s.updErr k (fun e => { e with pass := satInc e.pass })) u).watched = u.watched :=
    fun l u => watched_foldl _ (fun s x => by simp) l u
  unfold State.visit; dsimp only; split
  · rw [watched_mk]; exact h
  · rw [watched_mk, watched_keys, watched_board, watched_status, watched_gal, watched_dram, e]; exact h

@[simp] theorem keepsOut_execFirebossRead {wd : Watched} (s : State) (h : Keeps wd s.watched) :
    KeepsOut (execFirebossRead s) wd := by
  unfold execFirebossRead; split
  · split
    · rename_i l _
      have hv := keeps_visit (wd := wd) s l h
      dsimp only
      exact keepsOut_ite (keepsOut_notYet _) (keepsOut_ite (by rw [keepsOut_next]; exact hv) (by rw [keepsOut_next, watched_mk]; exact hv))
    · simp
  · simp

@[simp] theorem keepsOut_execFirebossWrite {wd : Watched} (s : State) (h : Keeps wd s.watched) :
    KeepsOut (execFirebossWrite s) wd := by
  unfold execFirebossWrite; split
  · simp
  · dsimp only
    refine keepsOut_ite ?_ (keepsOut_ite ?_ ?_) <;>
      rw [keepsOut_next, watched_mk, watched_keys, watched_board, watched_status, watched_gal, watched_dram]
    · simp [h]
    · rename_i l _; have := keeps_poisonLoc (wd := wd) s l h; simpa using this
    · simp [h]

end Sys2Proof.Machine
end

