-- ==== Sys2Proof/Laws/WatchedRows.lean ====
section
/-!
SUPPORT. The rows of the device that bind or free slots, start or stop the module, or change STATUS: each leaves what the
invariant reads as the invariant asks.
-/
namespace Sys2Proof.Machine

open Sys2Proof

/-- The invariant, of what it reads. -/
def Sound (x : Watched) : Prop :=
  (rising x.1 = true ∧ ∀ k ∈ x.1, k < 64) ∧ Canonical x ∧ (x.2.2.1.getLsbD 0 = true ↔ x.2.1.phase = .ready)

theorem inv_iff_sound (s : State) : s.Inv ↔ Sound s.watched := by
  unfold State.Inv Sound State.slotsInv Canonical State.isReady
  simp only [State.watched]
  constructor
  · rintro ⟨a, b, c, d, e, f⟩; exact ⟨a, ⟨b, c, d, e⟩, f⟩
  · rintro ⟨a, ⟨b, c, d, e⟩, f⟩; exact ⟨a, b, c, d, e, f⟩

theorem Sound.of_keeps {a b : Watched} (h : Sound a) (k : Keeps a b) : Sound b := by
  obtain ⟨k1, k2, k3, k4⟩ := k
  unfold Sound; rw [k1, k2, k3]; exact ⟨h.1, k4 h.2.1, h.2.2⟩

/-- A next state meets the invariant. -/
def SoundOut (o : Host.Outcome State Fault Refusal) : Prop := ∀ t, o = .next t → Sound t.watched

theorem SoundOut.of_keeps {o} {a : Watched} (h : Sound a) (k : KeepsOut o a) : SoundOut o := fun t e => h.of_keeps (k t e)

@[simp] theorem soundOut_next (t : State) : SoundOut (.next t) ↔ Sound t.watched := by simp [SoundOut]

@[simp] theorem soundOut_fault (x : Fault) : SoundOut (.fault x) := by simp [SoundOut]

@[simp] theorem soundOut_refused (x : Refusal) : SoundOut (.refused x) := by simp [SoundOut]

@[simp] theorem soundOut_notYet (r) : SoundOut (notYet r) := by simp [notYet]

theorem soundOut_ite {c : Prop} [Decidable c] {x y : Host.Outcome State Fault Refusal}
    (h : SoundOut x) (g : SoundOut y) : SoundOut (if c then x else y) := by split <;> assumption

theorem soundOut_ite' {c : Prop} [Decidable c] {x y : Host.Outcome State Fault Refusal}
    (h : c → SoundOut x) (g : ¬c → SoundOut y) : SoundOut (if c then x else y) := by
  split <;> rename_i e
  · exact h e
  · exact g e

theorem sound_status {k : List Nat} {b : Board} {st st' : U64} {g : TMem} {d : Dram}
    (h : Sound (k, b, st, g, d)) (e : st'.getLsbD 0 = st.getLsbD 0) :
    Sound (k, b, st', g, d) := ⟨h.1, h.2.1, by rw [show (k, b, st', g, d).2.2.1 = st' from rfl, e]; exact h.2.2⟩

theorem sound_judge (s : State) (h : Sound s.watched) : Sound s.judgeTime.watched := by
  unfold State.judgeTime; dsimp only; split
  · exact h
  · rw [watched_mk]; exact sound_status h (by simp)

theorem sound_portDown (s : State) (p) (h : Sound s.watched) : Sound (s.portDown p).watched := by
  unfold State.portDown; apply sound_judge; exact h.of_keeps (keeps_cutCollectives _ (keeps_endUnreached _ (by rw [watched_mk]; exact Keeps.refl _)))

theorem soundOut_execTimingMessage (s : State) (h : Sound s.watched) : SoundOut (execTimingMessage s) := by
  unfold execTimingMessage; split
  · refine soundOut_ite ?_ (soundOut_notYet _); dsimp only; rw [soundOut_next]; apply sound_judge; rw [watched_mk]; exact h
  · simp

theorem soundOut_execDccSynchronised (s : State) (h : Sound s.watched) : SoundOut (execDccSynchronised s) := by
  unfold execDccSynchronised; refine soundOut_ite ?_ (soundOut_notYet _); rw [soundOut_next, watched_mk]; exact sound_status h (by simp)

theorem soundOut_execLinkFlitReceive (s : State) (h : Sound s.watched) : SoundOut (execLinkFlitReceive s) := by
  unfold execLinkFlitReceive; split
  · refine soundOut_ite (soundOut_notYet _) (soundOut_ite ?_ (soundOut_ite ?_ ?_)) <;> rw [soundOut_next]
    · exact h
    · exact sound_portDown _ _ h
    · exact h
  · simp

theorem soundOut_execLinkAckTimeout (s : State) (h : Sound s.watched) : SoundOut (execLinkAckTimeout s) := by
  unfold execLinkAckTimeout; split
  · refine soundOut_ite ?_ (soundOut_notYet _); rw [soundOut_next]; exact sound_portDown _ _ h
  · simp

theorem rising_cons (a : Nat) (l : List Nat) : rising (a :: l) = true ↔ (∀ x ∈ l, a < x) ∧ rising l = true := by
  induction l generalizing a with
  | nil => simp [rising]
  | cons b t ih =>
    simp only [rising, Bool.and_eq_true, decide_eq_true_eq, List.mem_cons, forall_eq_or_imp]
    constructor
    · rintro ⟨h, g⟩; exact ⟨⟨h, fun x hx => Nat.lt_trans h (((ih b).1 g).1 x hx)⟩, g⟩
    · rintro ⟨⟨h, -⟩, g⟩; exact ⟨h, g⟩

theorem mem_keys_sins {α} (k : Nat) (v : α) (m : Store α) (x : Nat)
    (h : x ∈ (sins k v m).map Prod.fst) : x = k ∨ x ∈ m.map Prod.fst := by
  obtain ⟨p, hp, rfl⟩ := List.mem_map.1 h
  rcases mem_sins hp with rfl | hp
  · exact .inl rfl
  · exact .inr (List.mem_map_of_mem hp)

theorem rising_sins {α} (k : Nat) (v : α) (m : Store α)
    (h : rising (m.map Prod.fst) = true) : rising ((sins k v m).map Prod.fst) = true := by
  induction m with
  | nil => rfl
  | cons p t ih =>
    obtain ⟨i, w⟩ := p
    rw [List.map_cons, rising_cons] at h
    unfold sins
    split
    · rw [List.map_cons, rising_cons]
      refine ⟨fun x hx => ?_, ih h.2⟩
      rcases mem_keys_sins _ _ _ _ hx with rfl | hx
      · assumption
      · exact h.1 x hx
    · split
      · rw [List.map_cons, rising_cons]; subst_vars; exact h
      · rw [List.map_cons, rising_cons, List.map_cons]
        refine ⟨?_, by rw [rising_cons]; exact h⟩
        have hik : k < i := by omega
        intro x hx; rcases List.mem_cons.1 hx with rfl | hx
        · exact hik
        · exact Nat.lt_trans hik (h.1 x hx)

theorem rising_filter (f : Nat → Bool) (l : List Nat) (h : rising l = true) : rising (l.filter f) = true := by
  induction l with
  | nil => rfl
  | cons a t ih =>
    rw [rising_cons] at h
    rw [List.filter_cons]; split
    · rw [rising_cons]; exact ⟨fun x hx => h.1 x (List.mem_filter.1 hx).1, ih h.2⟩
    · exact ih h.2

theorem keys_sdel {α} (k : Nat) (m : Store α) : (sdel k m).map Prod.fst = (m.map Prod.fst).filter (fun i => i != k) := by
  unfold sdel; rw [List.filter_map]; rfl

theorem sound_sins (s u : State) (k : Nat) (v : Cluster) (hk : k < 64)
    (h : Sound s.watched) (e : u.watched = ((sins k v s.clusters).map Prod.fst, s.watched.2)) : Sound u.watched := by
  rw [e]; refine ⟨⟨rising_sins _ _ _ h.1.1, ?_⟩, h.2⟩
  intro x hx; rcases mem_keys_sins _ _ _ _ hx with rfl | hx
  · exact hk
  · exact h.1.2 x hx

theorem sound_sdel (s u : State) (k : Nat)
    (h : Sound s.watched) (e : u.watched = ((sdel k s.clusters).map Prod.fst, s.watched.2)) : Sound u.watched := by
  rw [e, keys_sdel]; exact ⟨⟨rising_filter _ _ h.1.1, fun x hx => h.1.2 x (List.mem_filter.1 hx).1⟩, h.2⟩

theorem sound_discard (s : State) (k) (h : Sound s.watched) : Sound (s.discard k).watched := by
  refine sound_sdel s _ k h ?_
  unfold State.discard; dsimp only; rw [watched_setSlot, watched_mk]; rfl

theorem sound_of_eq {s u : State} (h : Sound s.watched) (e : u.watched = s.watched) : Sound u.watched := e ▸ h

theorem sound_requeue (s : State) (k c) (h : Sound s.watched) : Sound (s.requeue k c).watched := by
  have hp : Sound (s.park k).watched := h.of_keeps (keeps_park _ _ (Keeps.refl _))
  refine sound_sdel (s.park k) _ k hp ?_
  unfold State.requeue; dsimp only; rw [watched_setSlot, watched_mk]; rfl

theorem sound_settle (s : State) (i) (h : Sound s.watched) : Sound (s.settleLaunch i).watched :=
    h.of_keeps (keeps_settleLaunch _ _ (Keeps.refl _))

theorem sound_retireTeam (s : State) (k) (h : Sound s.watched) : Sound (s.retireTeam k).watched :=
  sound_settle _ _ (sound_of_eq (sound_discard s k h) (by rw [watched_updLaunch]))

theorem sound_foldl {α : Type} (f : State → α → State) (h : ∀ s x, Sound s.watched → Sound (f s x).watched) (l : List α)
    (s : State) (g : Sound s.watched) : Sound (l.foldl f s).watched := by
  induction l generalizing s with
  | nil => exact g
  | cons x l ih => exact ih _ (h _ _ g)

theorem sound_doom (s : State) (i st f) (h : Sound s.watched) : Sound (s.doom i st f).watched := by
  have hr : Sound (((s.slotsOf i).filter s.retires).foldl State.retireTeam s).watched :=
    sound_foldl _ (fun s k g => sound_retireTeam s k g) _ _ h
  unfold State.doom; dsimp only
  generalize ((s.slotsOf i).filter s.retires).foldl State.retireTeam s = u at hr
  rw [watched_refreshed]; apply sound_settle
  refine hr.of_keeps (keeps_foldl _ (fun s k h => keeps_ite h (keeps_haltTeam _ _ h)) _ _ ?_)
  exact Keeps.refl u.watched

theorem sound_ite {c : Prop} [Decidable c] {x y : State} (h : Sound x.watched) (g : Sound y.watched) :
    Sound (if c then x else y).watched := by split <;> assumption

theorem sound_saveDone (s : State) (k) (h : Sound s.watched) : Sound (s.saveDone k).watched := by
  have hd := sound_discard s k h
  unfold State.saveDone; dsimp only
  split
  · exact hd
  · refine sound_ite (sound_settle _ _ (sound_of_eq hd (by simp))) (sound_ite (sound_settle _ _ hd) ?_)
    split
    · exact sound_requeue _ _ _ h
    · refine sound_ite (sound_of_eq h (by simp)) (sound_ite (sound_settle _ _ (sound_of_eq hd (by simp))) (sound_ite (sound_doom _ _ _ _ hd) (sound_requeue _ _ _ h)))

theorem sound_writeKill (s : State) (q v) (h : Sound s.watched) : Sound (s.writeKill q v).watched := by
  unfold State.writeKill
  refine sound_ite h ?_
  dsimp only
  split
  · exact h
  · refine sound_ite h ?_
    split
    · exact sound_doom _ _ _ _ h
    · exact sound_doom _ _ _ _ h

theorem soundOut_execKillWrite (s : State) (h : Sound s.watched) : SoundOut (execKillWrite s) := by
  unfold execKillWrite; split
  · rw [soundOut_next]; exact sound_writeKill _ _ _ h
  · simp

theorem soundOut_execBar0RegisterWrite (s : State) (h : Sound s.watched) : SoundOut (execBar0RegisterWrite s) := by
  unfold execBar0RegisterWrite; split
  · dsimp only
    refine soundOut_ite ?_ (soundOut_ite ?_ (soundOut_ite ?_ (soundOut_ite ?_ (soundOut_ite ?_ (soundOut_ite ?_ (soundOut_ite ?_ ?_))))))
      <;> rw [soundOut_next]
    · rw [watched_writeInject]; exact h
    · exact h
    · rw [watched_writeDoorbell]; exact h
    · exact sound_writeKill _ _ _ h
    · exact h
    · exact h
    · rw [watched_writeKillack]; exact h
    · exact h
  · simp

theorem soundOut_execGangAgreementTimeout (s : State) (h : Sound s.watched) : SoundOut (execGangAgreementTimeout s) := by
  unfold execGangAgreementTimeout; split
  · split
    · rw [soundOut_next]; exact sound_doom _ _ _ _ h
    · simp
  · simp

theorem watched_asCores (s : State) (k is) (f : State → State) (g : ∀ s, (f s).watched = s.watched) :
    (s.asCores k is f).watched = s.watched := by
  unfold State.asCores; exact watched_foldl _ (fun s i => (g _).trans (watched_cur _ _)) _ _

theorem soundOut_execDebuggerResume (s : State) (h : Sound s.watched) : SoundOut (execDebuggerResume s) := by
  unfold execDebuggerResume; split
  · dsimp only
    refine soundOut_ite (soundOut_notYet _) (soundOut_ite ?_ ?_) <;> rw [soundOut_next]
    · rw [watched_updCluster, watched_asCores _ _ _ _ (fun s => watched_updMe _ _)]; exact h
    · exact sound_doom _ _ _ _ h
  · simp

theorem soundOut_slotStep (r) (s : State) (ok f) (g : ∀ k, ok k = true → Sound (f k).watched) :
    SoundOut (slotStep r s ok f) := by
  unfold slotStep; split
  · split
    · rw [soundOut_next]; apply g; assumption
    · simp
  · simp

theorem soundOut_execSaveComplete (s : State) (h : Sound s.watched) : SoundOut (execSaveComplete s) :=
    soundOut_slotStep _ _ _ _ (fun k _ => sound_saveDone s k h)

theorem soundOut_execTeamRetirement (s : State) (h : Sound s.watched) : SoundOut (execTeamRetirement s) :=
  soundOut_slotStep _ _ _ _ (fun k _ => sound_retireTeam s k h)

theorem soundOut_execTeamStart (s : State) (h : Sound s.watched) : SoundOut (execTeamStart s) :=
  soundOut_slotStep _ _ _ _ (fun k _ => sound_of_eq h (by simp))

theorem watched_drainFor (s : State) (ks : List Nat) : (s.drainFor ks).watched = s.watched := by
  have e : (ks.foldl State.raiseDrain s).watched = s.watched := watched_foldl _ (fun s x => by simp [State.raiseDrain]) _ _
  unfold State.drainFor; dsimp only; split
  · rw [watched_claimFrom, e]
  · exact e

theorem watched_sliceBoundary (s : State) (k : Nat) : (s.sliceBoundary k).watched = s.watched := by
  unfold State.sliceBoundary; dsimp only; (repeat' split) <;> simp [watched_drainFor]

theorem watched_govern (s : State) (k : Nat) (b : Bool) (r) : (s.govern k b r).watched = s.watched := by
  unfold State.govern; dsimp only
  split
  · split
    · exact (watched_foldl _ (fun s x => by simp) _ _).trans rfl
    · rfl
  · rfl

theorem soundOut_execSliceBoundary (s : State) (h : Sound s.watched) : SoundOut (execSliceBoundary s) := by
  unfold execSliceBoundary; split
  · refine soundOut_ite ?_ (soundOut_notYet _)
    rw [soundOut_next, watched_govern, watched_sliceBoundary]; exact h
  · exact soundOut_slotStep _ _ _ _ (fun k _ => by rw [watched_sliceBoundary]; exact h)

theorem soundOut_execEscalationWindowExpiry (s : State) (h : Sound s.watched) : SoundOut (execEscalationWindowExpiry s) :=
  soundOut_slotStep _ _ _ _ (fun k _ => sound_of_eq h (by simp))

theorem sound_place (s : State) (k c r) (hk : k < 64) (h : Sound s.watched) : Sound (s.place k c r).watched := by
  refine sound_sins s _ k { c with
    imem := s.loadCode c.info, imemTag := s.loadCodeTags c.info, running := false, start := r.start
    lastSlice := if r.start = 0#64 then s.dcc.toNat else r.start.toNat } hk h ?_
  unfold State.place; dsimp only; rw [watched_setSlot, watched_mk]; rfl

theorem sound_bindTeam (s : State) (k l t) (hk : k < 64) (h : Sound s.watched) : Sound (s.bindTeam k l t).watched := by
  unfold State.bindTeam; dsimp only; split
  · rw [watched_updLaunch]
    refine sound_of_eq (sound_place _ k _ _ hk ?_) (watched_unpark _ _); rw [watched_mk]; exact h
  · rw [watched_refresh, watched_updLaunch]; exact sound_place _ k _ _ hk h

theorem soundOut_execBind (s : State) (h : Sound s.watched) : SoundOut (execBind s) := by
  unfold execBind; split
  · split
    · refine soundOut_ite' (fun _ => ?_)
        (fun _ => soundOut_notYet _); rw [soundOut_next]; exact sound_bindTeam _ _ _ _ (BitVec.isLt _) h
    · simp
  · simp

theorem canonical_empty (k : List Nat) (b : Board) (st : U64) : Canonical (k, b, st, {}, {}) :=
    ⟨⟨rfl, rfl⟩, ⟨rfl, rfl⟩, rfl, rfl⟩

theorem watched_cleared (s : State) (w) : (s.cleared w).watched =
    ([], { s.board with hot := false, jpq := 0#32, readyAt := none, memReady := w && s.board.memReady }, 0#64, s.gal, s.dram) := rfl

theorem sound_nil {b : Board} {st : U64} {g : TMem} {d : Dram}
    (h : ∀ k c e, Canonical (k, c, e, g, d)) (k : st.getLsbD 0 = true ↔ b.phase = .ready) : Sound ([], b, st, g, d) :=
  ⟨⟨rfl, by simp⟩, h _ _ _, k⟩

@[simp] theorem watched_bist (s : State) (r) : (s.bist r).watched = s.watched := by
  unfold State.bist; refine watched_foldl _ (fun s p => ?_) _ _
  dsimp only; split
  · simp
  · split
    · rw [watched_mk]; rfl
    · rfl

/-- What the steps of a start leave of what the invariant reads, from a module that is not ready. -/
def Starting (s : State) : Prop :=
  (rising s.watched.1 = true ∧ ∀ k ∈ s.watched.1, k < 64) ∧ s.watched.2.2.1.getLsbD 0 = false ∧
    ∀ k c e, Canonical (k, c, e, s.watched.2.2.2)

theorem Starting.sound {s : State} (h : Starting s) (b : Board) (x : HostIf) (hb : x.status.getLsbD 0 = true ↔ b.phase = .ready) :
    Sound ({ s with board := b, host := x } : State).watched := by
  rw [watched_mk]; exact ⟨h.1, h.2.2 _ _ _, hb⟩

theorem starting_portsUp (s : State) (r) (h : Starting s) : Starting (s.portsUp r) :=
  ⟨h.1, by show (4#64).getLsbD 0 = false; rfl, h.2.2⟩

theorem starting_initMemory (s : State) (r w) (h : Starting s) : Starting (s.initMemory r w) := by
  unfold State.initMemory; dsimp only; split
  · exact h
  · exact ⟨h.1, h.2.1, fun _ _ _ => canonical_empty _ _ _⟩

theorem starting_ite {c : Prop} [Decidable c] {x y : State} (h : Starting x) (g : Starting y) :
    Starting (if c then x else y) := by split <;> assumption

theorem starting_stepsDone (s : State) (r w k n) (h : Starting s) : Starting (s.stepsDone r w k n) := by
  unfold State.stepsDone
  extract_lets at1 b2 s2 s3 s5 b6 s6
  have h2 : Starting s2 := starting_ite h h
  have h3 : Starting s3 := starting_ite (starting_portsUp _ _ h2) h2
  have h5 : Starting s5 := starting_ite (by unfold Starting; rw [watched_bist]; exact h3) h3
  have h6 : Starting s6 := starting_ite h5 h5
  exact starting_ite (starting_initMemory _ _ _ h6) h6

theorem sound_startSteps (s : State) (r w sf k) (h : Starting s) : Sound (s.startSteps r w sf k).watched := by
  have hz : Starting { s with dcc := if s.dcc.toNat < r.dcc.toNat then r.dcc else s.dcc } := h
  have hd (u : State) (hu : Starting u) (n : Nat) :
      Starting (if sf = true then u.stepsDone r w k (min 2 n) else u.stepsDone r w k (min 7 n)) :=
    starting_ite (starting_stepsDone _ _ _ _ _ hu) (starting_stepsDone _ _ _ _ _ hu)
  have hp (u : State) (p : Phase) (hu : Starting u) (e : p ≠ .ready) : Sound (u.stopsAt p).watched :=
    Starting.sound hu { u.board with phase := p } u.host (by
      rw [show u.host.status.getLsbD 0 = false from hu.2.1]; exact iff_of_false Bool.false_ne_true e)
  have hf (u : State) (f : Nat) (hu : Starting u) : Sound (u.startFailed f).watched :=
    Starting.sound hu { u.board with
      phase := .failed f, fails := u.board.fails + 1, failStep := f, failCode := Config.freeWord (u.freeAt 19 f) } u.host (by
      rw [show u.host.status.getLsbD 0 = false from hu.2.1]; exact iff_of_false Bool.false_ne_true (by simp))
  have hs (u : State) (hu : Starting u) : Sound u.enterSafe.watched :=
    Starting.sound hu { u.board with phase := .safe } _ (by simp)
  have hr (u : State) (hu : Starting u) : Sound u.becomeReady.watched :=
    Starting.sound hu _ _ (by simp)
  unfold State.startSteps
  generalize ({ s with dcc := if s.dcc.toNat < r.dcc.toNat then r.dcc else s.dcc } : State) = u at hz
  dsimp only
  split
  · exact sound_ite (hf _ _ (hd _ hz _)) (hp _ _ (hd _ hz _) (by simp))
  · exact sound_ite (hp _ _ (hd _ hz _) (by simp)) (sound_ite (hs _ (hd _ hz _)) (hr _ (hd _ hz _)))

theorem starting_cleared (s : State) (w) (h : Canonical s.watched) : Starting (s.cleared w) := by
  unfold Starting; rw [watched_cleared]
  exact ⟨⟨rfl, by simp⟩, by show (0#64).getLsbD 0 = false; rfl, fun _ _ _ => h⟩

theorem sound_start (s : State) (r w) (h : Canonical s.watched) : Sound (s.start r w).watched := by
  have hc := starting_cleared s w h
  unfold State.start; dsimp only
  refine sound_ite ?_ (sound_startSteps _ _ _ _ _ hc)
  exact Starting.sound hc { (s.cleared w).board with phase := .waitPll } (s.cleared w).host (by
    rw [show (s.cleared w).host.status.getLsbD 0 = false from hc.2.1]; exact iff_of_false Bool.false_ne_true (by simp))

theorem soundOut_execMainPowerApplied (s : State) (h : Sound s.watched) : SoundOut (execMainPowerApplied s) := by
  unfold execMainPowerApplied; split
  · refine soundOut_ite ?_ (soundOut_notYet _); rw [soundOut_next]; exact sound_start _ _ _ h.2.1
  · simp

theorem soundOut_execHostReset (s : State) (h : Sound s.watched) : SoundOut (execHostReset s) := by
  unfold execHostReset; split
  · refine soundOut_ite (soundOut_notYet _) (soundOut_ite ?_ ?_) <;> rw [soundOut_next] <;> exact sound_start _ _ _ h.2.1
  · simp

theorem sound_phase {k : List Nat} {b b' : Board} {st : U64} {g : TMem} {d : Dram}
    (h : Sound (k, b, st, g, d)) (e : b'.phase = b.phase) :
    Sound (k, b', st, g, d) := ⟨h.1, h.2.1, by rw [show (k, b', st, g, d).2.1 = b' from rfl, e]; exact h.2.2⟩

theorem sound_phase' {k : List Nat} {b b' : Board} {st : U64} {g : TMem} {d : Dram}
    (h : Sound (k, b, st, g, d)) (e : b.phase ≠ .ready) (e' : b'.phase ≠ .ready) :
    Sound (k, b', st, g, d) := ⟨h.1, h.2.1, ⟨fun x => absurd (h.2.2.1 x) e, fun x => absurd x e'⟩⟩

theorem soundOut_execPllLockTimeout (s : State) (h : Sound s.watched) : SoundOut (execPllLockTimeout s) := by
  unfold execPllLockTimeout; refine soundOut_ite' (fun e => ?_) (fun _ => soundOut_notYet _); rw [soundOut_next]
  exact sound_phase' h (by rw [e]; simp) (by simp [State.startFailed])

theorem sound_off (s : State) : Sound s.powerOff.watched := by
  unfold State.powerOff; dsimp only; rw [watched_mk]
  exact sound_nil (fun _ _ _ => canonical_empty _ _ _) (by simp [State.cleared, State.reset])

theorem soundOut_execMainPowerRemoved (s : State) : SoundOut (execMainPowerRemoved s) := by
  unfold execMainPowerRemoved; refine soundOut_ite (soundOut_notYet _) ?_; rw [soundOut_next]; exact sound_off s

@[simp] theorem watched_preempt (s : State) (k : Nat) : (s.preempt k).watched = s.watched := by
  unfold State.preempt; dsimp only; split <;> simp

theorem soundOut_execThermalPreempt (s : State) (h : Sound s.watched) : SoundOut (execThermalPreempt s) := by
  unfold execThermalPreempt; refine soundOut_ite (soundOut_notYet _) ?_; rw [soundOut_next]
  refine sound_of_eq (s := { s with board := { s.board with hot := true } }) ?_ (watched_foldl _ (fun s x => by simp) _ _)
  rw [watched_mk]; exact sound_phase h rfl

theorem soundOut_execThermalRecover (s : State) (h : Sound s.watched) : SoundOut (execThermalRecover s) := by
  unfold execThermalRecover; refine soundOut_ite ?_ (soundOut_notYet _); rw [soundOut_next, watched_mk]; exact sound_phase h rfl

theorem soundOut_execThermalTrip (s : State) : SoundOut (execThermalTrip s) := by
  unfold execThermalTrip; split
  · refine soundOut_ite (soundOut_notYet _) ?_; dsimp only; rw [soundOut_next, watched_mk]; exact sound_phase (sound_off s) rfl
  · simp

theorem soundOut_execThermalTripRecordRead (s : State) (h : Sound s.watched) : SoundOut (execThermalTripRecordRead s) := by
  unfold execThermalTripRecordRead; refine soundOut_ite ?_ (soundOut_notYet _); rw [soundOut_next, watched_mk]; exact sound_phase h rfl

theorem soundOut_execFirmwareUpdate (s : State) (h : Sound s.watched) : SoundOut (execFirmwareUpdate s) := by
  unfold execFirmwareUpdate; split
  · refine soundOut_ite (soundOut_notYet _) (soundOut_ite ?_ ?_) <;> rw [soundOut_next]
    · rw [watched_mk]; exact sound_phase h rfl
    · exact h
  · simp

theorem soundOut_execAttestationRequest (s : State) (h : Sound s.watched) : SoundOut (execAttestationRequest s) := by
  unfold execAttestationRequest; split
  · refine soundOut_ite ?_ (soundOut_notYet _); dsimp only; rw [soundOut_next, watched_mk]; exact sound_phase h rfl
  · simp

theorem watched_loseTeam (s : State) (k) : (s.loseTeam k).watched = s.watched := by
  unfold State.loseTeam; dsimp only; rw [watched_updCluster, watched_mk]; rfl

theorem watched_cutTeams (s : State) : s.cutTeams.watched = s.watched := by
  unfold State.cutTeams; split
  · exact watched_foldl _ (fun s k => watched_loseTeam s k) _ _
  · rfl

theorem soundOut_execBundleIssue (s : State) (h : Sound s.watched) : SoundOut (execBundleIssue s) := by
  unfold execBundleIssue; split
  · rename_i k r e _
    refine soundOut_ite ?_ (soundOut_notYet _)
    rw [soundOut_next]
    refine sound_startSteps _ _ _ _ _ ⟨h.1, ?_, fun _ _ _ => h.2.1⟩
    have hn : ¬ s.watched.2.2.1.getLsbD 0 = true := fun g => by
      have := h.2.2.1 g; rw [show s.watched.2.1.phase = Phase.partway k from e] at this; cases this
    simpa using hn
  · refine SoundOut.of_keeps h (keepsOut_onNext _ _ (keepsOut_tick _ (keeps_withSram _ _ (Keeps.refl _))) (fun t g => ?_))
    rw [keepsOut_next, watched_cutTeams]; exact keeps_takeAnswers _ g

theorem soundOut_execDieLinkLoss (s : State) (h : Sound s.watched) : SoundOut (execDieLinkLoss s) := by
  unfold execDieLinkLoss; refine soundOut_ite (soundOut_notYet _) ?_; dsimp only; rw [soundOut_next, watched_refresh]
  refine Sound.of_keeps (a := (s.clusters.map Prod.fst, s.board, s.host.status &&& ~~~4#64, s.gal, s.dram)) (sound_status h (by simp)) ?_
  refine keeps_foldl _ (fun s k h => keeps_settleLaunch _ _ h) _ _ ?_
  refine keeps_foldl (fun (s : State) (k : Nat) => s.updCluster k (fun c =>
    if c.saving || c.stopped then c else { c with drain := none, polite := false })) (fun s k h => by rw [watched_updCluster]; exact h) _ _ ?_
  refine keeps_foldl _ (fun s k h => by rw [watched_loseTeam]; exact h) _ _ ?_
  rw [watched_mk]; exact Keeps.refl _

theorem soundOut_execDieLinkRetrainRequest (s : State) (h : Sound s.watched) : SoundOut (execDieLinkRetrainRequest s) := by
  unfold execDieLinkRetrainRequest; refine soundOut_ite (soundOut_notYet _) ?_; rw [soundOut_next, watched_mk]; exact h

theorem soundOut_execDieLinkRetrain (s : State) (h : Sound s.watched) : SoundOut (execDieLinkRetrain s) := by
  unfold execDieLinkRetrain; split
  · refine soundOut_ite (soundOut_notYet _) (soundOut_ite ?_ ?_) <;> rw [soundOut_next, watched_mk]
    · exact sound_status h (by simp)
    · exact h
  · simp

end Sys2Proof.Machine
end

