-- ==== Sys2Proof/Tests/Slice0.lean ====
section
/-!
SUPPORT. Tests of the model: every word of the opcode table written out from its encoding (spec/03 R78, R85-R91) and
the words that the spec lists decode to what they stand for; an ill-formed term for each check is refused; values that
the spec works out; and, for every statement with hypotheses, states and operands that meet them.
-/
namespace Sys2Proof.Tests

open Sys2Proof Sys2Proof.Machine

/-! ## A word of every row of the opcode table that has one -/

/-- The trigger fields of the short words below: guard `!p5`, end of bundle, the immediate 0x155 (R78). -/
def tt : Trig := { g := 5#4, n := true, e := true, src := .imm 0x155#11 }
/-- The fields of the vector words below (R85, R86). -/
def vw : VWord :=
  { g := 5#4, n := true, e := true, u := true, opm := 9#4, rnd := 2#4, cls := 3#4
    a := { space := 1#3, index := 2#6, rs := 3#6, str := 4#6 }, b := { space := 4#3, index := 5#6, rs := 6#6, str := 7#6 }
    d := { space := 1#3, index := 8#6, rs := 9#6, str := 10#6 } }
/-- The common fields of the engine words below (R88). -/
def ec : EngCommon :=
  { g := 5#4, n := true, e := true, kin0 := 6#6, kin1 := 5#6, kin2 := 4#6, kout := 33#6, stamp := 0x89ABCDEF#32, rcl := 3#4
    aft := 0x8001#16 }
/-- The fields of the matrix words below (R89). -/
def mw : MxWord :=
  { c := ec, zero := true, surv := false, fmt := 0x25#7, xa := 2#2
    bin := { space := 4#3, index := 5#6, rs := 6#6, str := 7#6 }, cur := 3#2, es := 20#6, m1 := 77#7
    x := { space := 1#3, index := 2#6, rs := 3#6, str := 4#6 }, wo := 0xABCDE#20, wa := 9#5 }
/-- The fields of the Winze words below (R90). -/
def ww : WzWord :=
  { c := ec, wr := 5#4, df := 0x21#7, dc := 6#4, pm := 1#2, ce := true, ci := false, ck := 2#2, pa := 17#5, xs := 35#6
    ls := 44#6, da := 21#5, sa := 11#5 }
/-- The fields of the Panner words below (R91). -/
def pw : PanWord :=
  { c := ec, xs := 35#6, aa := 17#5, ns := 44#6, row1 := 77#7, ts := 36#6
    lg := { space := 1#3, index := 2#6, rs := 3#6, str := 4#6 }, da := 11#5 }
/-- Every word of a list names the instruction beside it. -/
def named (ws : List (List U32 × Instr)) : Bool := ws.all (fun p => (decodeOne [] p.1).map (·.1.instr) == some (some p.2))

theorem test_words_control : named ([
    ([0x2012AB5C#32], .move 8#5 1#6 tt), ([0x6032AB5C#32], .sflagWrite tt), ([0xB402AB5C#32], .ctlPbr tt),
    ([0xB412AB5C#32], .ctlBr tt), ([0xB422AB5C#32], .ctlCall tt), ([0xB432AB5C#32], .ctlRet tt),
    ([0xB442AB5C#32], .ctlLoop tt), ([0xB452AB5C#32], .ctlJt tt), ([0xB462AB5C#32], .ctlTwait tt),
    ([0xB472AB5C#32], .ctlTpoll tt), ([0xB482AB5C#32], .ctlSkip tt), ([0xB492AB5C#32], .ctlLbrk tt),
    ([0xB4A2AB5C#32], .ctlPand tt), ([0xB4B2AB5C#32], .ctlPor tt), ([0xB4C2AB5C#32], .ctlPxor tt)]) = true := by decide

theorem test_words_ia_1 : named ([
    ([0xA002AB5C#32], .iaAdd false tt), ([0xA402AB5C#32], .iaAdd true tt), ([0xA012AB5C#32], .iaSub false tt),
    ([0xA412AB5C#32], .iaSub true tt), ([0xA022AB5C#32], .iaAdds false tt), ([0xA422AB5C#32], .iaAdds true tt),
    ([0xA032AB5C#32], .iaSubs false tt), ([0xA432AB5C#32], .iaSubs true tt), ([0xA042AB5C#32], .iaAddus false tt),
    ([0xA442AB5C#32], .iaAddus true tt), ([0xA052AB5C#32], .iaSubus false tt), ([0xA452AB5C#32], .iaSubus true tt),
    ([0xA062AB5C#32], .iaMin false tt), ([0xA462AB5C#32], .iaMin true tt), ([0xA072AB5C#32], .iaMax false tt),
    ([0xA472AB5C#32], .iaMax true tt), ([0xA082AB5C#32], .iaMinu false tt), ([0xA482AB5C#32], .iaMinu true tt),
    ([0xA092AB5C#32], .iaMaxu false tt), ([0xA492AB5C#32], .iaMaxu true tt)] ++ [
    ([0xA0A2AB5C#32], .iaAnd false tt), ([0xA4A2AB5C#32], .iaAnd true tt), ([0xA0B2AB5C#32], .iaOr false tt),
    ([0xA4B2AB5C#32], .iaOr true tt), ([0xA0C2AB5C#32], .iaXor false tt), ([0xA4C2AB5C#32], .iaXor true tt),
    ([0xA0D2AB5C#32], .iaShl false tt), ([0xA4D2AB5C#32], .iaShl true tt), ([0xA0E2AB5C#32], .iaShr false tt),
    ([0xA4E2AB5C#32], .iaShr true tt), ([0xA0F2AB5C#32], .iaSar false tt), ([0xA4F2AB5C#32], .iaSar true tt),
    ([0xA102AB5C#32], .iaRotl false tt), ([0xA502AB5C#32], .iaRotl true tt), ([0xA112AB5C#32], .iaClz false tt),
    ([0xA512AB5C#32], .iaClz true tt), ([0xA122AB5C#32], .iaCtz false tt), ([0xA522AB5C#32], .iaCtz true tt),
    ([0xA132AB5C#32], .iaPopc false tt), ([0xA532AB5C#32], .iaPopc true tt)]) = true := by decide

theorem test_words_ia_2 : named ([
    ([0xA142AB5C#32], .iaExt false tt), ([0xA542AB5C#32], .iaExt true tt), ([0xA152AB5C#32], .iaExtu false tt),
    ([0xA552AB5C#32], .iaExtu true tt), ([0xA162AB5C#32], .iaIns false tt), ([0xA562AB5C#32], .iaIns true tt),
    ([0xA172AB5C#32], .iaCeq false tt), ([0xA572AB5C#32], .iaCeq true tt), ([0xA182AB5C#32], .iaCne false tt),
    ([0xA582AB5C#32], .iaCne true tt), ([0xA192AB5C#32], .iaClt false tt), ([0xA592AB5C#32], .iaClt true tt),
    ([0xA1A2AB5C#32], .iaCle false tt), ([0xA5A2AB5C#32], .iaCle true tt), ([0xA1B2AB5C#32], .iaCltu false tt),
    ([0xA5B2AB5C#32], .iaCltu true tt), ([0xA1C2AB5C#32], .iaCleu false tt), ([0xA5C2AB5C#32], .iaCleu true tt),
    ([0xA202AB5C#32], .iaMul false tt), ([0xA602AB5C#32], .iaMul true tt)] ++ [
    ([0xA212AB5C#32], .iaMulh false tt), ([0xA612AB5C#32], .iaMulh true tt), ([0xA222AB5C#32], .iaMulhu false tt),
    ([0xA622AB5C#32], .iaMulhu true tt), ([0xA232AB5C#32], .iaDiv false tt), ([0xA632AB5C#32], .iaDiv true tt),
    ([0xA242AB5C#32], .iaDivu false tt), ([0xA642AB5C#32], .iaDivu true tt), ([0xA252AB5C#32], .iaRem false tt),
    ([0xA652AB5C#32], .iaRem true tt), ([0xA262AB5C#32], .iaRemu false tt), ([0xA662AB5C#32], .iaRemu true tt)]) = true := by decide

theorem test_words_ag : named ([
    ([0xA802AB5C#32], .agAdd false tt), ([0xAC02AB5C#32], .agAdd true tt), ([0xA812AB5C#32], .agSub false tt),
    ([0xAC12AB5C#32], .agSub true tt), ([0xA822AB5C#32], .agAddx false tt), ([0xAC22AB5C#32], .agAddx true tt),
    ([0xA832AB5C#32], .agAnd false tt), ([0xAC32AB5C#32], .agAnd true tt), ([0xA842AB5C#32], .agLtu false tt),
    ([0xAC42AB5C#32], .agLtu true tt), ([0xA852AB5C#32], .agBnd false tt), ([0xAC52AB5C#32], .agBnd true tt),
    ([0xA862AB5C#32], .agKv false tt), ([0xAC62AB5C#32], .agKv true tt), ([0xA872AB5C#32], .agKvmax false tt),
    ([0xAC72AB5C#32], .agKvmax true tt), ([0xA882AB5C#32], .agKvlen false tt), ([0xAC82AB5C#32], .agKvlen true tt),
    ([0xA892AB5C#32], .agKvget false tt), ([0xAC92AB5C#32], .agKvget true tt)]) = true := by decide

theorem test_words_ls : named ([
    ([0xB022AB5C#32], .lsLd 2#2 tt), ([0xB062AB5C#32], .lsLdn 2#2 tt), ([0xB0A2AB5C#32], .lsLdf 2#2 tt),
    ([0xB0E2AB5C#32], .lsLdh 2#2 tt), ([0xB122AB5C#32], .lsSt 2#2 tt), ([0xB162AB5C#32], .lsStn 2#2 tt),
    ([0xB1A2AB5C#32], .lsStf 2#2 tt), ([0xB1E2AB5C#32], .lsSth 2#2 tt), ([0xB202AB5C#32], .lsVld tt),
    ([0xB212AB5C#32], .lsVst tt), ([0xB222AB5C#32], .lsVldh tt), ([0xB232AB5C#32], .lsVsth tt),
    ([0xB242AB5C#32], .lsXlat tt), ([0xB252AB5C#32], .lsPreq tt), ([0xB262AB5C#32], .lsMeta tt),
    ([0xB272AB5C#32], .lsSetmeta tt), ([0xB282AB5C#32], .lsLdd tt), ([0xB292AB5C#32], .lsStd tt),
    ([0xB2A2AB5C#32], .lsFence tt), ([0xB2B2AB5C#32], .lsPst tt)]) = true := by decide

theorem test_words_ga : named ([
    ([0xBC02AB5C#32], .gaAdd tt), ([0xBC12AB5C#32], .gaAnd tt), ([0xBC22AB5C#32], .gaOr tt),
    ([0xBC32AB5C#32], .gaXor tt), ([0xBC42AB5C#32], .gaMaxs tt), ([0xBC52AB5C#32], .gaMins tt),
    ([0xBC62AB5C#32], .gaSwap tt), ([0xBC72AB5C#32], .gaCas tt), ([0xBC82AB5C#32], .gaFadd tt),
    ([0xBC92AB5C#32], .gaFmax tt), ([0xBCA2AB5C#32], .gaMdraw tt), ([0xBCB2AB5C#32], .gaBar tt),
    ([0xBE02AB5C#32], .gaAddFar tt), ([0xBE12AB5C#32], .gaAndFar tt), ([0xBE22AB5C#32], .gaOrFar tt),
    ([0xBE32AB5C#32], .gaXorFar tt), ([0xBE42AB5C#32], .gaMaxsFar tt), ([0xBE52AB5C#32], .gaMinsFar tt),
    ([0xBE62AB5C#32], .gaSwapFar tt), ([0xBE72AB5C#32], .gaCasFar tt)] ++ [
    ([0xBE82AB5C#32], .gaFaddFar tt), ([0xBE92AB5C#32], .gaFmaxFar tt), ([0xBEA2AB5C#32], .gaMdrawFar tt),
    ([0xBEB2AB5C#32], .gaBarFar tt)]) = true := by decide

theorem test_words_short : named ([
    ([0xB802AB5C#32], .xcSnd tt), ([0xB812AB5C#32], .xcBcs tt), ([0xB822AB5C#32], .xcRcv tt),
    ([0xB832AB5C#32], .xcSync tt), ([0xD802AB5C#32], .qCfg tt), ([0xD812AB5C#32], .qClr tt),
    ([0xD822AB5C#32], .qCnt tt), ([0xD832AB5C#32], .qLink tt), ([0xDC02AB5C#32], .zSet tt),
    ([0xDC12AB5C#32], .zRst tt), ([0xDC22AB5C#32], .zPos tt), ([0xCE02AB5C#32], .panMerge tt),
    ([0xCE12AB5C#32], .panRand tt), ([0xCE22AB5C#32], .panCtr tt), ([0xCE32AB5C#32], .panClrf tt),
    ([0xD002AB5C#32], .verCfg tt), ([0xD012AB5C#32], .verCand tt), ([0xD022AB5C#32], .verChk tt),
    ([0xD032AB5C#32], .verFin tt), ([0xD042AB5C#32], .verSetf tt)] ++ [
    ([0xD052AB5C#32], .verStop tt)]) = true := by decide

theorem test_words_sys : named ([
    ([0xE002AB5C#32], .sysHalt tt), ([0xE012AB5C#32], .sysTret tt), ([0xE022AB5C#32], .sysIfence tt),
    ([0xE032AB5C#32], .sysTrap tt), ([0xE042AB5C#32], .sysBrk tt), ([0xE052AB5C#32], .sysTmark tt),
    ([0xE062AB5C#32], .sysTarm tt), ([0xE072AB5C#32], .sysTfrz tt), ([0xE082AB5C#32], .sysTmrs tt),
    ([0xE092AB5C#32], .sysTmrc tt), ([0xE0A2AB5C#32], .sysYield tt), ([0xE0B2AB5C#32], .sysSeed tt),
    ([0xE0C2AB5C#32], .sysDi tt), ([0xE0D2AB5C#32], .sysEi tt)]) = true := by decide

theorem test_words_vx_1 : named ([
    ([0x9230225D#32, 0x30E420C4#32, 0x12092A0A#32], .vxMov vw),
    ([0x9230625D#32, 0x30E420C4#32, 0x12092A0A#32], .vxAdd vw),
    ([0x9230A25D#32, 0x30E420C4#32, 0x12092A0A#32], .vxSub vw),
    ([0x9230E25D#32, 0x30E420C4#32, 0x12092A0A#32], .vxMul vw),
    ([0x9231225D#32, 0x30E420C4#32, 0x12092A0A#32], .vxMulz vw),
    ([0x9231625D#32, 0x30E420C4#32, 0x12092A0A#32], .vxDiv vw),
    ([0x9231A25D#32, 0x30E420C4#32, 0x12092A0A#32], .vxMin vw),
    ([0x9231E25D#32, 0x30E420C4#32, 0x12092A0A#32], .vxMax vw),
    ([0x9232225D#32, 0x30E420C4#32, 0x12092A0A#32], .vxAbs vw),
    ([0x9232625D#32, 0x30E420C4#32, 0x12092A0A#32], .vxNeg vw),
    ([0x9232A25D#32, 0x30E420C4#32, 0x12092A0A#32], .vxAnd vw),
    ([0x9232E25D#32, 0x30E420C4#32, 0x12092A0A#32], .vxOr vw),
    ([0x9233225D#32, 0x30E420C4#32, 0x12092A0A#32], .vxXor vw),
    ([0x9233625D#32, 0x30E420C4#32, 0x12092A0A#32], .vxShl vw),
    ([0x9233A25D#32, 0x30E420C4#32, 0x12092A0A#32], .vxShr vw),
    ([0x9233E25D#32, 0x30E420C4#32, 0x12092A0A#32], .vxSar vw),
    ([0x9234225D#32, 0x30E420C4#32, 0x12092A0A#32], .vxFma vw),
    ([0x9234625D#32, 0x30E420C4#32, 0x12092A0A#32], .vxFms vw),
    ([0x9234A25D#32, 0x30E420C4#32, 0x12092A0A#32], .vxFnma vw),
    ([0x9234E25D#32, 0x30E420C4#32, 0x12092A0A#32], .vxSel vw)] ++ [
    ([0x9235225D#32, 0x30E420C4#32, 0x12092A0A#32], .vxCeq vw),
    ([0x9235625D#32, 0x30E420C4#32, 0x12092A0A#32], .vxCne vw),
    ([0x9235A25D#32, 0x30E420C4#32, 0x12092A0A#32], .vxClt vw),
    ([0x9235E25D#32, 0x30E420C4#32, 0x12092A0A#32], .vxCle vw),
    ([0x9236225D#32, 0x30E420C4#32, 0x12092A0A#32], .vxCnan vw),
    ([0x9236625D#32, 0x30E420C4#32, 0x12092A0A#32], .vxMget vw),
    ([0x9236A25D#32, 0x30E420C4#32, 0x12092A0A#32], .vxMput vw),
    ([0x9236E25D#32, 0x30E420C4#32, 0x12092A0A#32], .vxMcnt vw),
    ([0x9237225D#32, 0x30E420C4#32, 0x12092A0A#32], .vxExp2 vw),
    ([0x9237625D#32, 0x30E420C4#32, 0x12092A0A#32], .vxLog2 vw),
    ([0x9237A25D#32, 0x30E420C4#32, 0x12092A0A#32], .vxRcp vw),
    ([0x9237E25D#32, 0x30E420C4#32, 0x12092A0A#32], .vxRsqrt vw),
    ([0x9238225D#32, 0x30E420C4#32, 0x12092A0A#32], .vxSqrt vw),
    ([0x9238625D#32, 0x30E420C4#32, 0x12092A0A#32], .vxExp vw),
    ([0x9238A25D#32, 0x30E420C4#32, 0x12092A0A#32], .vxTanh vw),
    ([0x9238E25D#32, 0x30E420C4#32, 0x12092A0A#32], .vxSigm vw),
    ([0x9239225D#32, 0x30E420C4#32, 0x12092A0A#32], .vxSilu vw),
    ([0x9239625D#32, 0x30E420C4#32, 0x12092A0A#32], .vxGelu vw),
    ([0x9239A25D#32, 0x30E420C4#32, 0x12092A0A#32], .vxSin vw),
    ([0x9239E25D#32, 0x30E420C4#32, 0x12092A0A#32], .vxCos vw)]) = true := by decide

theorem test_words_vx_2 : named ([
    ([0x923A225D#32, 0x30E420C4#32, 0x12092A0A#32], .vxRsum vw),
    ([0x923A625D#32, 0x30E420C4#32, 0x12092A0A#32], .vxRmax vw),
    ([0x923AA25D#32, 0x30E420C4#32, 0x12092A0A#32], .vxRmin vw),
    ([0x923AE25D#32, 0x30E420C4#32, 0x12092A0A#32], .vxRmaxi vw),
    ([0x923B225D#32, 0x30E420C4#32, 0x12092A0A#32], .vxScan vw),
    ([0x923B625D#32, 0x30E420C4#32, 0x12092A0A#32], .vxTrn vw),
    ([0x923BA25D#32, 0x30E420C4#32, 0x12092A0A#32], .vxGth vw),
    ([0x923BE25D#32, 0x30E420C4#32, 0x12092A0A#32], .vxSct vw),
    ([0x923C225D#32, 0x30E420C4#32, 0x12092A0A#32], .vxDot vw),
    ([0x923C625D#32, 0x30E420C4#32, 0x12092A0A#32], .vxCvt vw),
    ([0x923CA25D#32, 0x30E420C4#32, 0x12092A0A#32], .vxBndLip vw),
    ([0x923CE25D#32, 0x30E420C4#32, 0x12092A0A#32], .vxBndCvt vw),
    ([0x923D225D#32, 0x30E420C4#32, 0x12092A0A#32], .vxBndAdd vw),
    ([0x923D625D#32, 0x30E420C4#32, 0x12092A0A#32], .vxShape vw),
    ([0x923DA25D#32, 0x30E420C4#32, 0x12092A0A#32], .vxClamp vw)]) = true := by decide

theorem test_words_mx : named ([
    ([0xBC90245E#32, 0x84189579#32, 0xA30FA934#32, 0x844146A0#32, 0x89ABCDEF#32, 0x0C0009A5#32], .mxStep mw),
    ([0xBC90645E#32, 0x84189579#32, 0xA30FA934#32, 0x844146A0#32, 0x89ABCDEF#32, 0x0C0009A5#32], .mxRes mw),
    ([0xBC90A45E#32, 0x84189579#32, 0xA30FA934#32, 0x844146A0#32, 0x89ABCDEF#32, 0x0C0009A5#32], .mxZero mw),
    ([0xBC90E45E#32, 0x84189579#32, 0xA30FA934#32, 0x844146A0#32, 0x89ABCDEF#32, 0x0C0009A5#32], .mxDrain mw),
    ([0xBC91245E#32, 0x84189579#32, 0xA30FA934#32, 0x844146A0#32, 0x89ABCDEF#32, 0x0C0009A5#32], .mxAssay mw),
    ([0xBC91645E#32, 0x84189579#32, 0xA30FA934#32, 0x844146A0#32, 0x89ABCDEF#32, 0x0C0009A5#32], .mxCurGet mw),
    ([0xBC91A45E#32, 0x84189579#32, 0xA30FA934#32, 0x844146A0#32, 0x89ABCDEF#32, 0x0C0009A5#32], .mxCurSet mw),
    ([0xBC91E45E#32, 0x84189579#32, 0xA30FA934#32, 0x844146A0#32, 0x89ABCDEF#32, 0x0C0009A5#32], .mxBias mw),
    ([0xBC92245E#32, 0x84189579#32, 0xA30FA934#32, 0x844146A0#32, 0x89ABCDEF#32, 0x0C0009A5#32], .mxSurvey mw),
    ([0xBC92645E#32, 0x84189579#32, 0xA30FA934#32, 0x844146A0#32, 0x89ABCDEF#32, 0x0C0009A5#32], .mxLoad mw),
    ([0xBC92A45E#32, 0x84189579#32, 0xA30FA934#32, 0x844146A0#32, 0x89ABCDEF#32, 0x0C0009A5#32], .mxAset mw),
    ([0xBC92E45E#32, 0x84189579#32, 0xA30FA934#32, 0x844146A0#32, 0x89ABCDEF#32, 0x0C0009A5#32], .mxMark mw)]) = true := by decide

theorem test_words_pan : named ([
    ([0x88B0265E#32, 0x64D90841#32, 0x000008E3#32, 0x84414600#32, 0x89ABCDEF#32, 0x04000980#32], .panDraw pw),
    ([0x88B0665E#32, 0x64D90841#32, 0x000008E3#32, 0x84414600#32, 0x89ABCDEF#32, 0x04000980#32], .panShort pw),
    ([0x88B0A65E#32, 0x64D90841#32, 0x000008E3#32, 0x84414600#32, 0x89ABCDEF#32, 0x04000980#32], .panPen pw),
    ([0x88B0E65E#32, 0x64D90841#32, 0x000008E3#32, 0x84414600#32, 0x89ABCDEF#32, 0x04000980#32], .panBias pw),
    ([0x88B1265E#32, 0x64D90841#32, 0x000008E3#32, 0x84414600#32, 0x89ABCDEF#32, 0x04000980#32], .panScale pw),
    ([0x88B1665E#32, 0x64D90841#32, 0x000008E3#32, 0x84414600#32, 0x89ABCDEF#32, 0x04000980#32], .panFull pw),
    ([0x88B1A65E#32, 0x64D90841#32, 0x000008E3#32, 0x84414600#32, 0x89ABCDEF#32, 0x04000980#32], .panLse pw)]) = true := by decide

theorem test_words_wz : named ([
    ([0x2AB02A5E#32, 0x42CD463B#32, 0x00000005#32, 0x84414600#32, 0x89ABCDEF#32, 0x04000980#32], .wzCopy ww),
    ([0x2AB06A5E#32, 0x42CD463B#32, 0x00000005#32, 0x84414600#32, 0x89ABCDEF#32, 0x04000980#32], .wzCopyk ww),
    ([0x2AB0AA5E#32, 0x42CD463B#32, 0x00000005#32, 0x84414600#32, 0x89ABCDEF#32, 0x04000980#32], .wzFill ww),
    ([0x2AB0EA5E#32, 0x42CD463B#32, 0x00000005#32, 0x84414600#32, 0x89ABCDEF#32, 0x04000980#32], .wzGat2 ww),
    ([0x2AB12A5E#32, 0x42CD463B#32, 0x00000005#32, 0x84414600#32, 0x89ABCDEF#32, 0x04000980#32], .wzSct2 ww),
    ([0x2AB16A5E#32, 0x42CD463B#32, 0x00000005#32, 0x84414600#32, 0x89ABCDEF#32, 0x04000980#32], .wzGat4 ww),
    ([0x2AB1AA5E#32, 0x42CD463B#32, 0x00000005#32, 0x84414600#32, 0x89ABCDEF#32, 0x04000980#32], .wzSct4 ww),
    ([0x2AB1EA5E#32, 0x42CD463B#32, 0x00000005#32, 0x84414600#32, 0x89ABCDEF#32, 0x04000980#32], .wzExpd ww),
    ([0x2AB22A5E#32, 0x42CD463B#32, 0x00000005#32, 0x84414600#32, 0x89ABCDEF#32, 0x04000980#32], .wzPack ww),
    ([0x2AB26A5E#32, 0x42CD463B#32, 0x00000005#32, 0x84414600#32, 0x89ABCDEF#32, 0x04000980#32], .wzRcopy ww),
    ([0x2AB2AA5E#32, 0x42CD463B#32, 0x00000005#32, 0x84414600#32, 0x89ABCDEF#32, 0x04000980#32], .wzMark ww)]) = true := by decide

/-! ## Witnesses: for every statement with hypotheses, states and operands that meet them, clause by clause -/

/-- A team of one stream in slot 0, which is the issuing stream. -/
def ct (c : Core) : State := { clusters := [(0, { running := true, cores := [c] })] }
/-- A cluster in slot 0. -/
def cl (c : Cluster) : State := { clusters := [(0, c)] }
/-- A trigger with an immediate, and one with a register or port as its source. -/
def im (n : BitVec 11) : Trig := { g := 0#4, n := false, e := true, src := .imm n }
def rg (u : BitVec 5) (r : BitVec 6) : Trig := { g := 0#4, n := false, e := true, src := .reg u r }
/-- A step answers a next state. -/
def nexts (o : Host.Outcome State Fault Refusal) : Bool := match o with | .next _ => true | _ => false
/-- A step answers a next state with a property. -/
def nextIs (o : Host.Outcome State Fault Refusal) (p : State → Bool) : Bool := match o with | .next t => p t | _ => false
theorem of_nexts {o : Host.Outcome State Fault Refusal} (h : nexts o = true) : ∃ t, o = .next t := by
  cases o <;> simp_all [nexts]

theorem witness_IaTable : Issues (im 5#11) (ct {}) ∧ Issues (rg 8#5 0#6) (ct { res := [(keyOf 8 0, 0x80000000#64)] }) := by
  unfold Issues State.hasMe; decide

/-- Amounts below and at the width; and every case of the table of R140: by zero, the one overflow, an ordinary division. -/
theorem witness_IaShiftsFieldsAndDivision :
    Issues (im 31#11) (ct { opnd := [(keyOf 8 0, 0x80000001#64)] }) ∧ Issues (im 32#11) (ct { opnd := [(keyOf 8 0, 0x80000001#64)] }) ∧
    (∃ pos w : U32 → Nat, (∀ t, pos t = t.toNat % 32) ∧ (∀ t, w t = min (t.toNat / 256 % 64) (32 - pos t))) ∧
    (Issues (im 0#11) (ct {}) ∧ ((ct {}).source (im 0#11).src).setWidth 32 = 0#32) ∧
    (Issues (im 0x7FF#11) (ct { opnd := [(keyOf 8 0, 0x80000000#64)] }) ∧
      ((ct {}).source (im 0x7FF#11).src).setWidth 32 = 0xFFFFFFFF#32 ∧
      ((ct { opnd := [(keyOf 8 0, 0x80000000#64)] }).me.port 8 0).setWidth 32 = 0x80000000#32) ∧
    (Issues (im 3#11) (ct { opnd := [(keyOf 8 0, 7#64)] }) ∧ ((ct {}).source (im 3#11).src).setWidth 32 ≠ 0#32) :=
  ⟨by unfold Issues State.hasMe; decide, by unfold Issues State.hasMe; decide, ⟨fun t => t.toNat % 32,
    fun t => min (t.toNat / 256 % 64) (32 - t.toNat % 32), fun _ => rfl, fun _ => rfl⟩, by unfold Issues State.hasMe; decide,
    by unfold Issues State.hasMe; decide, by unfold Issues State.hasMe; decide⟩

theorem witness_AgArithmetic : Issues (im 0x7FF#11) (ct { opnd := [(keyOf 0x0A 0, 2#64), (keyOf 0x0A 1, 3#64)] }) := by
  unfold Issues State.hasMe; decide

theorem witness_AgSlots :
    (Issues (im 2#11) (ct { opnd := [(keyOf 0x0A 0, 5#64)], units := { kv := [(2, (8#32, 4#32))] } })) ∧ (3 : Nat) ≠ 2 := by
  unfold Issues State.hasMe; decide

theorem witness_MovesLand : Issues (rg 2#5 7#6) (ct { regs := [(kH 7, 0x8000000000000001#64)] }) ∧ Issues (im 1#11) (ct {}) := by
  unfold Issues State.hasMe; decide

/-- The first and the last register of each range, and a value of each kind for a predicate. -/
theorem witness_RegisterFiles :
    ((1 : Nat) ≤ 1 ∧ (1 : Nat) < 16) ∧ ((1 : Nat) ≤ 15 ∧ (15 : Nat) < 16) ∧ (0 : Nat) < 8 ∧ (7 : Nat) < 8 ∧ (0 : Nat) < 4 ∧ (3 : Nat) < 4 ∧
    ((1 : Nat) ≤ 63 ∧ (63 : Nat) < 64) ∧ ((1 : Nat) ≤ 31 ∧ (31 : Nat) < 32) ∧ kS 1 ≠ kS 2 := by decide

/-- Ports of several widths, one of the shared configuration, and the other port that changes with it; a unit of each kind. -/
theorem witness_OperandSources :
    (0x0C, 2, 4) ∈ [(0x0C, 2, 4), (0x0A, 2, 64)] ∧ ((63 : Nat) < 64 ∧ keyOf 0x08 63 ≠ keyOf 0x0C 2) ∧
    ¬(0x0A ∈ [0x0A, 0x0B] ∧ 0x0B ∈ [0x0A, 0x0B] ∧ 0x0A ≠ 0x0B ∧ (1 : Nat) = 1 ∧ 2 ≤ 1) ∧
    (3#5 : BitVec 5).toNat < 4 ∧ 5 ≤ (0x13#5 : BitVec 5).toNat ∧ (0x13#5 : BitVec 5) ≠ 0x18#5 ∧
    ¬((0#6 : BitVec 6) = 1#6 ∧ ((0x13#5 : BitVec 5) = 0x13#5 ∨ (0x13#5 : BitVec 5) = 0x14#5)) := by decide

theorem witness_EndOfCycleWrites :
    ¬(208 ≤ kP 15 ∧ kP 15 < 216) ∧ ¬(208 ≤ kLc 0 ∧ kLc 0 < 216) ∧ (7 : Nat) < 8 ∧ kA 3 ≠ kB 7 ∧
    ({ pipe := { endW := [.sys 3 0x11#64], sflagNew := 0x10#32 }, sflag := 0x11#32 } : Core).pipe.endW = [.sys 3 0x11#64] ∧
    ({ pipe := { endW := [.sys 3 0x11#64], sflagNew := 0x10#32 }, sflag := 0x11#32 } : Core).pipe.puts = [] := by decide

theorem witness_ResultsComplete :
    let f : Flight := { left := 0, puts := [.port (keyOf 8 0) 7#64] };
    let g : Flight := { left := 0, puts := [.port (keyOf 8 0) 9#64] };
    let h : Flight := { left := 0, puts := [.sticky 4#32] };
    let w : Flight := { left := 3, puts := [] };
    let e : Flight := { left := 0, age := 9, puts := [.port (keyOf 0x0C 1) 3#64] };
    ((keyOf 8 0 ≠ keyOf 0x0C 1 ∨ ∀ a ∈ ([] : List Nat), f.age ≤ a) ∧ (keyOf 0x0C 1 = keyOf 0x0C 1 ∧ ∃ a ∈ [5], a < e.age)) ∧
    ((ct { pipe := { flights := [f] } }).hasMe ∧ (ct { pipe := { flights := [f] } }).me.pipe.flights = [f] ∧ f.left = 0 ∧ f.ids = [] ∧
      f.need = none) ∧
    ((ct { pipe := { flights := [f, g] } }).hasMe ∧ (ct { pipe := { flights := [f, g] } }).me.pipe.flights = [f, g] ∧ g.ids = [] ∧
      g.need = none) ∧
    ((ct { pipe := { flights := [h] } }).hasMe ∧ (ct { pipe := { flights := [h] } }).me.pipe.flights = [h] ∧ h.need = none) ∧
    ((ct { pipe := { flights := [w] } }).hasMe ∧ ∀ x ∈ (ct { pipe := { flights := [w] } }).me.pipe.flights, x.left ≠ 0) ∧
    (0 : Nat) < 1 ∧ keyOf 9 0 ≠ keyOf 8 0 := by
  unfold State.hasMe; decide

/-- Taken and not taken; a call with room on the stack, a return with an address on it; a jump table with an entry and
without one. -/
theorem witness_Transfers :
    let s := cl { running := true, imem := [(0, 1#8), (4, 0x40#8)], cores := [{ ctl := { stack := [0x40#20] } }] };
    let u := ct { ctl := { stack := [0x40#20] } };
    (Issues (im 0x107#11) s ∧ (s.me.pred ((s.source (im 0x107#11).src).toNat / 16 % 16) ^^ (s.source (im 0x107#11).src).getLsbD 8) = false) ∧
    (Issues (im 7#11) s ∧ (s.me.pred ((s.source (im 7#11).src).toNat / 16 % 16) ^^ (s.source (im 7#11).src).getLsbD 8) = true ∧
      s.me.inDelay = false ∧ s.me.ctl.loop.active = false ∧ s.me.ctl.stack.length < 32 ∧ s.me.ctl.stack = 0x40#20 :: []) ∧
    s.me.units.ver.frag.toNat < (imemWord s.myCluster.imem (s.me.breg 0).toNat).toNat ∧
    (imemWord u.myCluster.imem (u.me.breg 0).toNat).toNat ≤ u.me.units.ver.frag.toNat := by
  unfold Issues State.hasMe; decide

/-- In a delay bundle, while the loop runs, with a full stack, with an empty one, and a loop without a body. -/
theorem witness_ControlFaults :
    let d := ct { ctl := { xfer := some { target := 0#20, slots := 1, bubble := 0 } } };
    let l := ct { ctl := { loop := { active := true } } };
    let f := ct { ctl := { stack := List.replicate 32 0#20 } };
    (Issues (im 0#11) d ∧ d.me.inDelay = true) ∧ (Issues (im 0#11) l ∧ l.me.inDelay = false ∧ l.me.ctl.loop.active = true) ∧
    (Issues (im 0#11) f ∧ f.me.inDelay = false ∧ f.me.ctl.loop.active = false ∧ 32 ≤ f.me.ctl.stack.length) ∧
    ((ct {}).me.ctl.stack = [] ∧ (ct {}).me.inDelay = false ∧ (ct {}).me.ctl.loop.active = false) ∧
    (let j := cl { imem := [(0, 1#8)], cores := [{}] };
     j.me.units.ver.frag.toNat < (imemWord j.myCluster.imem (j.me.breg (0 % 8)).toNat).toNat) ∧
    ((ct {}).me.pred (((ct {}).source (im 0#11).src).toNat / 16 % 16) ^^ ((ct {}).source (im 0#11).src).getLsbD 8) = true ∧
    ((ct {}).source (im 0#11).src).toNat / 16 % 65536 = 0 := by
  unfold Issues State.hasMe; decide

theorem witness_ControlSteps :
    let l := ct { ctl := { loop := { active := true, n := 3 } } };
    (Issues (im 0x21#11) (ct {}) ∧ ((ct {}).source (im 0x21#11).src).toNat / 16 % 65536 ≠ 0 ∧ (ct {}).me.ctl.loop.active = false ∧
      (ct {}).me.inDelay = false) ∧
    (Issues (im 2#11) (ct {}) ∧ ((ct {}).me.pred (((ct {}).me.port 0x0D 0).toNat % 16) ^^ ((ct {}).me.port 0x0D 0).getLsbD 4) = true) ∧
    (let s := ct { opnd := [(keyOf 0x0D 0, 0x10#64)] };
      Issues (im 2#11) s ∧ (s.me.pred ((s.me.port 0x0D 0).toNat % 16) ^^ (s.me.port 0x0D 0).getLsbD 4) = false) ∧
    (Issues (im 0#11) l ∧ l.me.ctl.loop.active = true ∧ l.me.ctl.loop.n < 4) ∧
    (let c : Core := { ctl := { loop := { active := true, n := 3, stages := 4, fresh := true } } };
      c.ctl.halted = false ∧ c.ctl.loop.pos = 0 ∧ c.ctl.loop.n < 4 ∧ c.ctl.loop.stages ≤ 4 ∧ c.ctl.xfer = none ∧
      c.lcreg c.ctl.loop.n = 0#32) ∧
    (let c : Core := { ctl := { loop := { active := true, cnt := 2#32 } } };
      c.ctl.xfer = none ∧ c.ctl.loop.fresh = false ∧ c.ctl.loop.cnt ≠ 0#32) ∧ (0 : Nat) ≠ kLc 0 ∧
    (let w := ct { ctl := { started := true }, tok := [(5, 1#2)], pipe := { twait := some 5 } };
      w.mustHold 0 = false ∧
      (let u := w.engOver 0; let d := u.deliverDue 0;
        d.retires 0 = false ∧ (d.cluster 0).stall = false ∧ (d.cluster 0).raised = [] ∧ (u.cluster 0).saveDue = false ∧
        0 < (d.cluster 0).cores.length ∧ ((d.cluster 0).core 0).pipe.twait = some 5 ∧ ((d.cluster 0).core 0).token 5 = 1#2)) ∧
    (cl { handler := true, cores := [{}] }).cluster 0 = { handler := true, cores := [{}] } := by
  unfold Issues State.hasMe; decide

/-- At the end of the scratchpad, one byte past it, a store and loads in the aperture, at a window's bound and past it. -/
theorem witness_LocalRefusals :
    (0x17FFF8 + 8 ≤ 0x180000) ∧ (0x180000 < 0x17FFF9 + 8 ∧ ¬(0xE00000 ≤ 0x17FFF9 ∧ 0x17FFF9 + 8 ≤ 0xF00000)) ∧
    (0xE00000 ≤ 0xEFFFF8 ∧ 0xEFFFF8 + 8 ≤ 0xF00000) ∧
    (let t : Team := { wins := [(0, (0x20000#64, 8))] };
     (∀ i < 8, ∃ w, slook t.wins ((0xE00000 + i - 0xE00000) / 65536) = some w ∧ (0xE00000 + i - 0xE00000) % 65536 < w.2) ∧
     (∃ i < 8, ∀ w, slook t.wins ((0xE00001 + i - 0xE00000) / 65536) = some w → w.2 ≤ (0xE00001 + i - 0xE00000) % 65536)) := by
  refine ⟨by decide, by decide, by decide, ?_, ⟨7, by decide, ?_⟩⟩
  · intro i hi; exact ⟨(0x20000#64, 8), by simp [slook]; omega, by show _ < 8; omega⟩
  · intro w h; simp only [slook] at h; simp at h; subst h; decide

/-- The address register of the accesses below. -/
def at1 (v : U64) (c : Core) : Core := { c with regs := sset 0#64 c.regs (kA 1) v }
def ta : Trig := rg 1#5 1#6
/-- A started core with WINE set. -/
def wine : Core := { ctl := { started := true }, fen := 1#32 }

theorem witness_LocalAccesses :
    (Issues ta (ct (at1 0x17FFF8#64 {})) ∧ localRefusal {} false 0x17FFF8 (2 ^ (3#2 : BitVec 2).toNat) = 0#8 ∧
      localRefusal {} true 0x17FFF8 (2 ^ (3#2 : BitVec 2).toNat) = 0#8) ∧
    (Issues ta (ct (at1 0x180000#64 {})) ∧ localRefusal {} false 0x180000 1 = 1#8 ∧ localRefusal {} true 0x180000 1 = 1#8 ∧
      (ct (at1 0x180000#64 {})).myCluster.fenOr 0 = false) ∧
    (Issues ta (ct (at1 0xE00000#64 {})) ∧ localRefusal {} false 0xE00000 1 = 2#8) ∧
    (Issues ta (ct (at1 0x180000#64 wine)) ∧ (ct (at1 0x180000#64 wine)).myCluster.fenOr 0 = true) ∧
    (localRefusal {} false 0x17FFC0 64 = 0#8 ∧ localRefusal {} true 0x17FFC0 64 = 0#8 ∧ localRefusal {} false 0x180000 64 = 1#8 ∧
      localRefusal {} true 0x180000 64 = 1#8) ∧
    (let s := cl { info := { wins := [(0, (0x20000#64, 8))] }, running := true, cores := [at1 0xE00000#64 {}] };
      Issues ta s ∧ localRefusal s.myCluster.info false 0xE00000 (2 ^ (3#2 : BitVec 2).toNat) = 0#8 ∧ s.fire.loc = none) := by
  unfold Issues State.hasMe; decide

/-- A write of bytes and one of a descriptor; writes that overlap, made in either order; and local bytes at the end. -/
theorem witness_ScratchpadWrites :
    let w : LocW := { prio := 0, core := 0, addr := 64, bytes := [1#8, 2#8] };
    let v : LocW := { prio := 0, core := 0, addr := 64, bytes := [], tags := [(1, 0x44FF#16)] };
    let c : Cluster := { cores := [{}], endLoc := [w] };
    (c.endLoc = [w] ∧ w.core < c.cores.length ∧ (0 : Nat) < w.bytes.length ∧ w.tags = []) ∧ v.tags = [(1, 0x44FF#16)] ∧ (0 : Nat) ≠ 1 ∧
    (let x : LocW := { prio := 4, core := 0, addr := 65, bytes := [3#8] };
     let c : Cluster := { cores := [{}], endLoc := [x, w] };
      w.core = x.core ∧ w.core < c.cores.length ∧ w.prio < x.prio ∧ w.tags = [] ∧ x.tags = [] ∧ (c.endLoc = [w, x] ∨ c.endLoc = [x, w]) ∧
      (w.addr + 0 < x.addr ∨ x.addr + x.bytes.length ≤ w.addr + 0)) ∧ 0x17FFFF + 1 ≤ 0x180000 := by decide

/-- The last word of an allocation, a word that crosses into the next line, and one byte past the end. -/
theorem witness_GalleryAccesses :
    let s (v : U64) : State := cl { info := { gbase := 0x10000, gsize := 0x10000 }, running := true, cores := [at1 v {}] };
    Issues ta (s 0x1FFF8#64) ∧ (Instr.lsLdn 3#2 ta, 0x04, 36, false) ∈ [(Instr.lsLdn 3#2 ta, 0x04, 36, false)] ∧
    (0x10000 ≤ 0x1FFF8 ∧ 0x1FFF8 + 8 ≤ 0x10000 + 0x10000 ∧ 0x1FFF8 + 8 ≤ 0x18000000) ∧
    (Issues ta (s 0x1003C#64) ∧ 64 < 0x1003C % 64 + 8) ∧
    (Issues ta (s 0x1FFF9#64) ∧ 0x10000 + 0x10000 < 0x1FFF9 + 8) ∧ (Issues ta (s 0xFFFF#64) ∧ 0xFFFF < 0x10000) := by
  unfold Issues State.hasMe; decide

/-- A handle of a resident 64 KiB page with both permissions, one without them, one that is not valid, and a page that
migrates. -/
theorem witness_HandleAccesses :
    let s (h v : U64) (m : List (Nat × U64 × Nat × Nat)) : State :=
      { clusters := [(0, { running := true, cores := [at1 v { opnd := [(keyOf 0x0C 1, h)] }] })], boss := { migrating := m } };
    let good : U64 := 0xD800000000000002#64;
    let none : U64 := 0xC000000000000002#64;
    (Issues ta (s good 0xFFF8#64 []) ∧ good.getLsbD 63 = true ∧ good.getLsbD 62 = true ∧ 0xFFF8 + 8 ≤ hSize good ∧
      good.getLsbD 60 = true ∧ good.getLsbD 59 = true ∧ (s good 0xFFF8#64 []).migrating 0 good = false) ∧
    (Issues ta (s good 0xFFF9#64 []) ∧ ¬(0xFFF9 + 8 ≤ hSize good)) ∧
    (none.getLsbD 63 = true ∧ none.getLsbD 62 = true ∧ none.getLsbD 60 = false ∧ none.getLsbD 59 = false) ∧
    (Issues ta (s good 0#64 [(0, 0#64, 0x20000, 0x30000)]) ∧ (s good 0#64 [(0, 0#64, 0x20000, 0x30000)]).migrating 0 good = true) ∧
    (0xFFF8 / 64 * 64 + 64 ≤ hSize good ∧ ¬(0x10000 / 64 * 64 + 64 ≤ hSize good)) := by
  unfold Issues State.hasMe; decide

/-- A shape of one byte in the scratchpad, and outside it with WINE; and a handle of each kind. -/
theorem witness_VectorAccesses :
    let c (v : U64) (k : Core) : State := ct (at1 v { k with vshape := 0x00000101#32 });
    (Issues ta (c 0x17FFFF#64 {}) ∧ shRows 0x00000101#32 * shCols 0x00000101#32 = 1 ∧ shWidth 0x00000101#32 = 1 ∧
      ∀ e < 1, localRefusal {} false (0x17FFFF + e) 1 = 1#8 → (c 0x17FFFF#64 {}).myCluster.fenOr 0 = false) ∧
    (Issues ta (c 0x180000#64 wine) ∧ localRefusal {} false (0x180000 + 0) 1 = 1#8 ∧ (∀ d < 0, localRefusal {} false (0x180000 + d) 1 ≠ 1#8) ∧
      (c 0x180000#64 wine).myCluster.fenOr 0 = true) ∧
    let s (h v : U64) : State := ct (at1 v { opnd := [(keyOf 0x0C 1, h)] });
    let good : U64 := 0xD800000000000002#64;
    (Issues ta (s good 0xFFFC#64) ∧ shRows 0x00044010#32 * shCols 0x00044010#32 ≤ 4096 ∧ good.getLsbD 63 = true ∧ good.getLsbD 62 = true ∧
      good.getLsbD 60 = true ∧ good.getLsbD 59 = true ∧ (s good 0xFFFC#64).migrating 0 good = false) ∧
    (let h : U64 := 0xC000000000000002#64;
     Issues ta (s h 0#64) ∧ h.getLsbD 63 = true ∧ h.getLsbD 62 = true ∧ ¬(h.getLsbD 60 = true) ∧ ¬(h.getLsbD 59 = true) ∧
      min ((hSize h - 0) / shWidth 0x00044010#32) (shRows 0x00044010#32 * shCols 0x00044010#32) ≠ 0) ∧
    (Issues ta (s good 0x10000#64) ∧ min ((hSize good - 0x10000) / shWidth 0x00044010#32) (shRows 0x00044010#32 * shCols 0x00044010#32) = 0) ∧
    (let m : State := { s good 0#64 with boss := { migrating := [(0, 0#64, 0x20000, 0x30000)] } };
     Issues ta m ∧ m.migrating m.myCluster.info.launch good = true) ∧
    (Issues ta (s 0#64 0#64) ∧ ¬((0#64).getLsbD 63 = true) ∧ 0 < shRows 0x00044010#32 * shCols 0x00044010#32) := by
  unfold Issues State.hasMe; decide

theorem witness_RepliesBecomeResults :
    let r : Reply := { id := 5, loc := .gal 0, bytes := List.replicate 64 0#8, tag := 0#16, swMeta := 0#64, old := 0#64, status := 0#8
                       flags := 0#32, arrived := true }
    (∀ n ∈ [Need.load 8 0, .store, .storeSw, .loadSw, .atomic],
      let f : Flight := { left := 0, puts := [], ids := [5], need := some n };
      f.ids = [r.id] ∧ f.puts = [] ∧ ({ replies := [r] } : State).arrivedReply r.id = some r) ∧
    (let q : Reply := { r with id := 6, loc := .gal 1 };
     ∀ n ∈ [Need.load 8 60, .store],
      let f : Flight := { left := 0, puts := [], ids := [5, 6], need := some n };
      f.ids = [r.id, q.id] ∧ f.puts = [] ∧ ({ replies := [r, q] } : State).arrivedReply r.id = some r ∧
      ({ replies := [r, q] } : State).arrivedReply q.id = some q ∧ r.bytes.length = 64 ∧ 60 ≤ 64 ∧ 64 - 60 ≤ 8) ∧
    (let f : Flight := { left := 0, puts := [], ids := [5], need := some .store };
     let s := ct { pipe := { flights := [f] } };
      f.left = 0 ∧ (∃ i ∈ f.ids, s.arrivedReply i = none) ∧ f ∈ s.me.pipe.flights) ∧ (7 : Nat) < 8 := by decide

/-- An address beyond 2^57, one of a page that the loader maps, one without an entry, and a malformed entry. -/
theorem witness_Translation :
    ({} : State).fire.loc = none ∧
    let s (v : U64) (m : Store U64) : State := cl { info := { ptroot := 0x20000, maps := m }, running := true, cores := [at1 v {}] };
    (Issues ta (s (BitVec.ofNat 64 (2 ^ 57)) []) ∧ 2 ^ 57 ≤ ((s (BitVec.ofNat 64 (2 ^ 57)) []).me.areg 1).toNat) ∧
    (let u := s 0x10000#64 [(1, ownLeaf 2)];
     Issues ta u ∧ u.translate u.myCluster.info (u.source ta.src).toNat = .leaf (ownLeaf 2) 3 ∧ memNode (entryAddr (ownLeaf 2)) ≠ none ∧
      (u.source ta.src).toNat < 2 ^ 57) ∧
    (let u := s 0x30000#64 []; Issues ta u ∧ u.translate u.myCluster.info (u.source ta.src).toNat = .unmapped) ∧
    (let u : State := { s 0x30000#64 [] with dram := { mem := ({} : TMem).wrs 0x20000 [5#8] } };
     Issues ta u ∧ u.translate u.myCluster.info (u.source ta.src).toNat = .malformed 0x20000 5#64) := by
  unfold Issues State.hasMe; decide

/-- Each answer of `ls.preq`: out of range, resident, asked already, no tag free, a tag free; and each of `ls.pst`. -/
theorem witness_PageRequests :
    let s (v : U64) (m : Store U64) (q : Store PTag) : State :=
      cl { info := { ptroot := 0x20000, maps := m }, running := true, cores := [at1 v { units := { preq := q } }] };
    let full : Store PTag := (List.range 16).map (fun i => (i, { page := 0#64, st := 1, id := 0#64 }));
    (Issues ta (s (BitVec.ofNat 64 (2 ^ 57)) [] [])) ∧
    (let u : State := { s 0x30000#64 [] [] with dram := { mem := ({} : TMem).wrs 0x20000 [5#8] } };
     Issues ta u ∧ u.translate u.myCluster.info 0x30000 = .malformed 0x20000 5#64) ∧
    (let u := s 0x10000#64 [(1, ownLeaf 2)] []; Issues ta u ∧ u.translate u.myCluster.info 0x10000 = .leaf (ownLeaf 2) 3 ∧ (ownLeaf 2).getLsbD 2 = true) ∧
    (let u := s 0x30000#64 [] [(3, { page := 0x30000#64, st := 0, id := 0#64 })];
     Issues ta u ∧ u.translate u.myCluster.info 0x30000 = .unmapped ∧
      (u.me.units.preq.find? (fun q => q.2.page = 0x30000#64 && q.2.st = 0)).isSome = true) ∧
    (let u := s 0x30000#64 [] full; Issues ta u ∧ freeTag u.me.units.preq = none ∧
      u.me.units.preq.find? (fun q => q.2.page = 0x30000#64 && q.2.st = 0) = none) ∧
    (let u := s 0x30000#64 [] []; Issues ta u ∧ freeTag u.me.units.preq = some 0) ∧
    (let u := s 3#64 [] [(3, { page := 0#64, st := 2, id := 0#64 })]; Issues ta u ∧ slook u.me.units.preq 3 ≠ none) ∧ (2 : Nat) ≠ 0 := by
  unfold Issues State.hasMe; decide

theorem witness_Fences : Issues ta (ct (at1 0x3F00FF#64 {})) ∧ (ct {}).hasMe := by unfold Issues State.hasMe; decide

theorem witness_BankOperationsIssue :
    let s (v : U64) : State := cl { info := { gbase := 0x10000, gsize := 0x10000 }, running := true, cores := [at1 v {}] };
    (Instr.gaAdd ta, 0, 8, 36) ∈ gaRows ta ∧ (Issues ta (s 0x1FFF8#64) ∧ 0x1FFF8 % 8 = 0 ∧ 0x1FFF8 + 8 ≤ 0x20000) ∧
    (Issues ta (s 0x10004#64) ∧ 0x10004 % 8 ≠ 0) ∧ (Issues ta (s 0x20000#64) ∧ ¬(0x20000 + 8 ≤ 0x20000)) := by
  unfold Issues State.hasMe; decide

/-- A barrier that releases and one that does not; a NaN, zeros of both signs, and numbers in order. -/
theorem witness_BankWords :
    (ofF32 0x7FC00000 = .nan ∧ ofF32 0x3F800000 ≠ .nan ∧ vlt (ofF32 0x3F800000) (ofF32 0x40000000) = true ∧
      vlt (ofF32 0x80000000) (ofF32 0) = false ∧ vlt (ofF32 0) (ofF32 0x80000000) = false ∧ (0x80000000 : Nat).testBit 31 = true) ∧
    (7 ≤ 7 ∨ 7 = 11) ∧ 9 ≤ 9 ∧ (7 : Nat) < 8 ∧
    (3#64 : U64).toNat % 2 ^ 32 ≤ ((2#64 : U64).toNat + 1) % 2 ^ 32 ∧ ((1#64 : U64).toNat + 1) % 2 ^ 32 < (3#64 : U64).toNat % 2 ^ 32 := by decide

/-- A line of a plain format, a poison line and a line of a reserved format. -/
theorem witness_BankPerform :
    let a : Access := { id := 0, slot := 0, core := 0, cls := 0#4, loc := .gal 3, op := .bank 0 56 1#64 0#64 0#64, stage := .system, seq := 0,
                        arr := 0, ready := true }
    a.loc = .gal 3 ∧ a.op = .bank 0 56 1#64 0#64 0#64 ∧ 56 + bankSize 0 ≤ 64 ∧ descFmt (({} : State).gal.tag dtZero 192) ≠ 0x7F ∧
    fmtReserved (descFmt (({} : State).gal.tag dtZero 192)) = false ∧ ({} : State).found a.loc .clean = .clean ∧ a.loc ∉ ({} : State).bad ∧
    descFmt (({ gal := { tags := [(3, 0xFFFF#16)] } } : State).gal.tag dtZero (64 * 3)) = 0x7F ∧
    fmtReserved (descFmt (({ gal := { tags := [(3, 0xFCFF#16)] } } : State).gal.tag dtZero (64 * 3))) = true ∧ galBank 0 ≠ galBank 1 := by decide

theorem witness_LoadsAndStoresPerform :
    (63 + ([1#8] : List Byte).length ≤ 64) ∧ (List.replicate 64 (0#8 : Byte)).length = 64 ∧
    AccOp.store (bytesAt 63 [1#8]) none ≠ .load ∧ ({} : State).found (.mem 5) .clean = .clean ∧ (Loc.mem 5) ∉ ({} : State).bad ∧
    (Loc.gal 5) ∉ ({} : State).bad ∧ ({} : State).rings = [] ∧ ({} : State).found (.gal 5) .clean = .clean ∧
    (let g (n : Nat) : Nat := sget 1 (({ dram := { grade := [(0, n)] } } : State).dram.grade) (64 * 5 / 65536);
      g 2 = 2 ∧ g 0 = 0 ∧ sget 1 ({} : State).dram.grade (64 * 5 / 65536) = 1) ∧ (6 : Nat) / 64 ≠ 5 := by decide

theorem witness_Exchange :
    let m : XcMsg := { dst := 0, src := 2, v := 5#64, left := 0 };
    let n : XcMsg := { dst := 0, src := 2, v := 5#64, left := 3 };
    (Issues (im 0#11) (cl { cores := [{}], here := [m] }) ∧
      (cl { cores := [{}], here := [m] }).myCluster.here.find? (fun m => m.dst = 0) = some m) ∧
    (Issues (im 0#11) (ct {}) ∧ (ct {}).myCluster.here.find? (fun m => m.dst = 0) = none) ∧
    (m.dst < 8 ∧ m.left = 0) ∧ n.left ≠ 0 ∧ (7 : Nat) < 8 ∧
    let m : XcMsg := { dst := 0, src := 1, v := 5#64, left := 0 };
    let n : XcMsg := { dst := 0, src := 2, v := 6#64, left := 0 };
    let c : Cluster := { cores := [{ ctl := { started := true } }], xc := [m, n] };
    c.xc = [m, n] ∧ m.left = 0 ∧ n.left = 0 ∧ m.dst = n.dst ∧ m.dst < 8 ∧ c.live.contains m.dst = true ∧
    0 < c.cores.length ∧ ((∃ x ∈ ({ c with here := [m] } : Cluster).here, x.dst = 0) ∧ (c.core 0).pipe.rcv = false) ∧ (7 : Nat) < 8 := by
  unfold Issues State.hasMe; decide

/-- A binding of one vector. -/
def zb : ZBind := { base := 0#64, handle := false, hand := 0#64, dims := [(1#32, 0#32), (2#32, 4#32), (1#32, 0#32)], ops := [] }
/-- The descriptor of R184 with counts 1, 2 and 1. -/
def zd : List Byte :=
  List.replicate 16 0#8 ++ leBytes 8 1 ++ leBytes 8 2 ++ leBytes 8 1 ++ List.replicate 24 0#8

/-- A queue operation; a bound stream and one that is not bound; a count that waits for the end of its cycle. -/
theorem witness_QueuesAndPositions :
    Issues (im 0x12#11) (ct {}) ∧ (1 : Nat) ≠ 2 ∧
    (let f : Flight := { left := 1, puts := [.count 3] };
     ({ pipe := { flights := [f] } } : Core).pipe.flights = [f] ∧ f.puts = [.count 3]) ∧
    (Issues (im 1#11) (ct { units := { z := [(1, zb)] } }) ∧ slook (ct { units := { z := [(1, zb)] } }).me.units.z 1 = some zb) ∧
    (Issues (im 1#11) (ct {}) ∧ slook (ct {}).me.units.z 1 = none) ∧ (bindingOf zd (fun _ => 0#64) (fun _ => 0#32)).isSome = true ∧
    (2 : Nat) ≠ 1 := by unfold Issues State.hasMe; decide

theorem witness_StreamBindings :
    ({} : State).fire.loc = none ∧ localRefusal {} false 0x17FFFF 1 = 0#8 ∧ localRefusal {} false 0x180000 1 ≠ 0#8 ∧
    Issues (im 1#11) (ct {}) ∧ (ct {}).hasMe ∧ zd.length = 64 ∧
    (zb.dims = [(1#32, 0#32), (2#32, 4#32), (1#32, 0#32)] ∧ zb.i0 < 1 ∧ zb.i1 < 2 ∧ zb.i2 < 1) := by
  unfold Issues State.hasMe; decide

theorem witness_PannerShort :
    Issues (im 1#11) (ct {}) ∧ ({ pipe := { endW := [.setFlags 3#64, .clrFlags 1#64] } } : Core).pipe.puts = [] ∧
    ({ pipe := { endW := [.clrFlags 1#64] } } : Core).pipe.endW = [.clrFlags 1#64] ∧
    ({ pipe := { endW := [.setFlags 3#64] } } : Core).pipe.endW = [.setFlags 3#64] := by unfold Issues State.hasMe; decide

/-- Draw pairs of λ 1.0, 2.0 and 2.0, the empty pair, and one with a NaN (R266). -/
def pA : U64 := 0x3F80000000000005#64
def pB : U64 := 0x4000000000000009#64
def pC : U64 := 0x4000000000000002#64
def pN : U64 := 0x7FC0000000000001#64

theorem witness_MergeRule :
    (pairValid true pA && pairValid true pN) = false ∧ (pairValid true pA && pairValid true pB) = true ∧
    (pairZero emptyPair = true ∧ pairZero pA = false ∧ pairZero pB = false ∧ (pairValid false pA && pairValid false emptyPair) = true) ∧
    vlt (ofF32 (pairLam pA)) (ofF32 (pairLam pB)) = true ∧
    (veq (ofF32 (pairLam pB)) (ofF32 (pairLam pC)) = true ∧ (pairIdx pC).toNat < (pairIdx pB).toNat) ∧
    (vlt (ofF32 (pairLam pB)) (ofF32 (pairLam pA)) = false ∧ veq (ofF32 (pairLam pB)) (ofF32 (pairLam pA)) = false) ∧
    (veq (ofF32 (pairLam pC)) (ofF32 (pairLam pB)) = true ∧ (pairIdx pC).toNat ≤ (pairIdx pB).toNat) ∧
    (let pi := expR false fp32 rne (vadd false (ofF32 (pairLam pB))
        (ofF32 (logMass { sat := true } [ofF32 (pairLam pA), ofF32 (pairLam pB)]).1).neg).1;
     vlt (.fin false (0#32).toNat (-32)) (ofF32 pi.1) = true ∧ vlt (.fin false (0xFFFFFFFF#32).toNat (-32)) (ofF32 pi.1) = false) := by
  decide +kernel

theorem witness_VerifierIssue :
    let b := ct { units := { ver := { busy := 3 } } };
    Instr.verCfg (im 0#11) ∈ [Instr.verCfg (im 0#11), .verCand (im 0#11)] ∧ (Issues (im 0#11) b ∧ b.me.units.ver.busy ≠ 0) ∧
    (Issues (im 0#11) (ct {}) ∧ (ct {}).me.units.ver.busy = 0 ∧ (ct {}).fire.loc = none) := by unfold Issues State.hasMe; decide

/-- No run, a run whose token stops it, and one whose token does not. -/
theorem witness_VerifierDecisions :
    ({} : Core).units.ver.run = false ∧ ({ units := { ver := { run := true, nstop := 1#4, stops := [7#32] } } } : Core).units.ver.run = true ∧
    (7#32 ∈ [7#32].take (1#4).toNat) ∧ ¬(8#32 ∈ [7#32].take (1#4).toNat) := by decide

theorem witness_SysOperations :
    let h := cl { handler := true, cores := [{}] };
    (Issues (im 0#11) (ct {}) ∧ (ct {}).myCluster.handler = false ∧ (ct {}).boss.debugger = false) ∧
    (Issues (im 0#11) h ∧ h.myCluster.handler = true) ∧
    (Issues (im 0#11) { ct {} with boss := { debugger := true } } ∧ ({ ct {} with boss := { debugger := true } } : State).boss.debugger = true) ∧
    (7 : Nat) < 8 := by unfold Issues State.hasMe; decide

/-- A tile operation of two registers into a third, and one with local operands that WINE does not stop. -/
def vt : VWord :=
  { g := 0#4, n := false, e := true, u := false, opm := 0#4, rnd := 0#4, cls := 0#4
    a := { space := 1#3, index := 1#6, rs := 0#6, str := 1#6 }, b := { space := 1#3, index := 2#6, rs := 0#6, str := 1#6 }
    d := { space := 1#3, index := 3#6, rs := 0#6, str := 1#6 } }
/-- A shape word from `s12`. -/
def vs : VWord :=
  { vt with a := { space := 7#3, index := 12#6, rs := 0#6, str := 0#6 }, b := { space := 0#3, index := 0#6, rs := 0#6, str := 0#6 }
            d := { space := 0#3, index := 0#6, rs := 0#6, str := 0#6 } }
/-- An operation that occupies `vx0` for three cycles. -/
def busyOp : VOp :=
  { opc := 1, word := vt, rows := 1, cols := 1, width := 1, srcWidth := 1, chunks := 3, lat := 4, age := 1, a := { spec := vt.a }
    b := { spec := vt.b }, d := { spec := vt.d } }

theorem witness_VectorIssue :
    let k (v : U32) : State := ct { regs := [(12, v.setWidth 64)] };
    let fits (v : U32) : Bool := !(v.getLsbD 7) && v.toNat / 2 ^ 17 < 3 && 1 ≤ v.toNat % 2 ^ 7 && v.toNat % 2 ^ 7 ≤ 64 &&
      1 ≤ v.toNat / 2 ^ 8 % 2 ^ 9 && v.toNat / 2 ^ 8 % 2 ^ 9 ≤ 256 &&
      v.toNat % 2 ^ 7 * (v.toNat / 2 ^ 8 % 2 ^ 9) * 2 ^ (v.toNat / 2 ^ 17) ≤ 4096;
    (vxOf (.vxAdd vt) = some (1, vt) ∧ (ct { pipe := { vops := [busyOp] } }).hasMe ∧
      (ct { pipe := { vops := [busyOp] } }).me.vxBusy false = true) ∧
    ((ct {}).hasMe ∧ (ct {}).me.guard vt.g vt.n = true ∧ (ct {}).me.vxBusy vt.u = false ∧
      (((ct {}).me.vop 1 vt).winByte (ct {}).myCluster.info).isSome = false ∧ ((ct {}).me.vop 1 vt).permByte = none ∧
      (ct {}).migratingD ((ct {}).me.vop 1 vt) = false ∧ (∀ o ∈ [vt.a, vt.b, vt.d], o.space.toNat ∉ [2, 3, 5])) ∧
    ((k 0x00044010#32).hasMe ∧ (k 0x00044010#32).me.sreg 12 = 0x00044010#32 ∧ fits 0x00044010#32 = true) ∧
    (fits 0x00044040#32 = false ∧ fits 0x00010001#32 = true ∧ fits 0x00064001#32 = false) := by
  unfold State.hasMe; decide

/-- A local operand outside the scratchpad, with and without WINE; an operand behind a handle without permission; and a
destination in a page that migrates. -/
theorem witness_VectorIssue_faults :
    let loc : VWord := { vt with a := { space := 4#3, index := 1#6, rs := 0#6, str := 1#6 } };
    let hb : VWord := { vt with b := { space := 5#3, index := 1#6, rs := 0#6, str := 1#6 } };
    let hd : VWord := { vt with d := { space := 5#3, index := 1#6, rs := 0#6, str := 1#6 } };
    let s (k : Core) : State := ct { k with vshape := 0x00000101#32 };
    (let u := s (at1 0x180000#64 wine);
     u.hasMe ∧ u.me.guard loc.g loc.n = true ∧ u.me.vxBusy loc.u = false ∧ (u.me.vop 1 loc).winByte u.myCluster.info = some 0x180000 ∧
      u.myCluster.fenOr 0 = true) ∧
    (let u := s (at1 0x180000#64 {}); ((u.me.vop 1 loc).winByte u.myCluster.info).isSome = true ∧ u.myCluster.fenOr 0 = false) ∧
    (let u := s { regs := [(kH 1, 0xC000000000000002#64)] };
     u.hasMe ∧ ((u.me.vop 1 hb).winByte u.myCluster.info).isSome = false ∧ (u.me.vop 1 hb).permByte = some 0 ∧
      (u.me.vop 1 hb).a.pop = none ∧ (u.me.vop 1 hb).b.pop = none ∧ (u.me.vop 1 hb).d.pop = none) ∧
    (let u : State := { s { regs := [(kH 1, 0xD800000000000002#64)] } with boss := { migrating := [(0, 0#64, 0x20000, 0x30000)] } };
     u.hasMe ∧ ((u.me.vop 1 hd).winByte u.myCluster.info).isSome = false ∧ (u.me.vop 1 hd).permByte = none ∧
      u.migratingD (u.me.vop 1 hd) = true) := by
  unfold State.hasMe; decide

/-- An operation of two byte elements with its operands read. -/
def readyOp (opc : Nat) (m : BitVec 4) (a b : List Nat) : VOp :=
  let line (x : Nat) : Elem := { bits := x, tag := dtOn }
  { busyOp with opc := opc, word := { vt with opm := m }, cols := 2, ea := a.map line, eb := b.map line, ed := b.map line, conv := [0#32] }

/-- Two byte elements in integer form, two of FP32 in floating form, shifts, and a comparison of raw bits. -/
theorem witness_VectorResults :
    (let v := readyOp 0x05 3#4 [0x90, 0x05] [0x00, 0xFE]
     v.width ∈ [1, 2, 4] ∧ v.word.opm ∈ [2#4, 3#4] ∧ v.opc ∈ vxExact ∧ (v.chunkElems 0).2 = 2 ∧
      ∀ i < 2, ∀ l ∈ [v.ea, v.eb, v.ed], (l.getD ((v.chunkElems 0).1 + i) noElem).isWhole v.width) ∧
    (let v : VOp := { readyOp 0x01 0#4 [0x3F800000, 0x40000000] [0x40400000, 0x7F800000] with width := 4, srcWidth := 4 }
     v.width ∈ [2, 4] ∧ v.word.opm ∈ [0#4, 1#4] ∧ v.opc ∈ vxExact ∧ vxSpecial 0x1C = true ∧ 1 < (v.chunkElems 0).2 ∧
      ∀ l ∈ [v.ea, v.eb, v.ed], (l.getD ((v.chunkElems 0).1 + 1) noElem).isReal v.width) ∧
    (let v := readyOp 0x0F 0#4 [0x90, 0x90] [3, 8]
     1 < (v.chunkElems 0).2 ∧ (v.ea.getD 1 noElem).kind = .line ∧ (v.eb.getD 1 noElem).kind = .line) ∧
    (let v := readyOp 0x16 8#4 [0x90, 0x05] [0x05, 0x90]
     v.count ≤ 4096 ∧ v.word.opm.getLsbD 3 = true ∧ ∀ e < v.count, ∀ l ∈ [v.ea, v.eb], (l.getD e {}).kind = .line) := by
  unfold Elem.isWhole Elem.isReal; decide

/-- A row of byte elements, one of FP32 elements, elements to move, mask bits to count, and bounds of each sign. -/
theorem witness_VectorWholeResults :
    ((∃ k, (2 : Nat) = 2 ^ k) ∧ 2 < [1, 2, 3].length ∧ [1, 2, 3].length ≤ 2 * 2 ∧ [1, 2, 3].length ≤ 2 ^ 16) ∧
    (∀ o ∈ [0x28, 0x29, 0x2A, 0x2B, 0x2C, 0x30], let v := readyOp o 3#4 [0x90, 0x05] [0x00, 0xFE]
     v.width ∈ [1, 2, 4] ∧ v.word.opm ∈ [2#4, 3#4] ∧ 0 < v.rows ∧ 1 < v.cols ∧ (∀ x ∈ v.ea ++ v.eb, x.isWhole v.width) ∧
      v.row v.ea 0 ≠ [] ∧ v.ea.length = v.rows * v.cols) ∧
    (let v : VOp := { readyOp 0x28 0#4 [0x3F800000, 0x40000000] [0, 0] with width := 4, srcWidth := 4 }
     v.width ∈ [2, 4] ∧ v.word.opm ∈ [0#4, 1#4] ∧ 0 < v.rows ∧ (∀ x ∈ v.ea, x.isReal v.width) ∧ v.row v.ea 0 ≠ []) ∧
    (let v := readyOp 0x2F 0#4 [5, 6] [0, 0]
     v.width ∈ [1, 2, 4] ∧ 1 < v.count ∧ (∀ e < v.count, ∀ l ∈ [v.ea, v.eb, v.ed], (l.getD e {}).kind = .line) ∧
      (v.eb.getD 0 {}).bits % 2 ^ (8 * v.width) = 0) ∧
    (let v := readyOp 0x1B 8#4 [] []
     v.word.opm.getLsbD 3 = true ∧ 1 < v.count ∧ ((List.range v.count).filter (fun k => v.maskIn.getLsbD k)).length < 2 ^ (8 * v.width)) ∧
    (let v : VOp := { readyOp 0x34 0#4 [0x3F800000] [0xBF800000] with width := 4, srcWidth := 4 }
     0 < v.rows ∧ (v.ea.getD 0 {}).isReal 4 ∧ (v.eb.getD 0 {}).isReal 4 ∧ (decFmt (.flt fp32) 0x3F800000 0).isNeg = false ∧
      decFmt (.flt fp32) 0x3F800000 0 ≠ .nan ∧ (decFmt (.flt fp32) 0xBF800000 0).isNeg = true ∧
      (decFmt (.flt fp32) 0xBF800000 0).isZero = false ∧ decFmt (.flt fp32) 0x7FC00000 0 = .nan) := by
  unfold Elem.isWhole Elem.isReal; refine ⟨⟨⟨1, by decide⟩, by decide +kernel⟩, ?_⟩; decide +kernel

/-- R215's own example: with w = 1 and 0x90 an amount of 3 gives 0x80, 0x12 and 0xF2, an amount of 8 gives 0, 0 and 0xFF. -/
theorem test_packed_shifts :
    [0x0D, 0x0E, 0x0F].map (fun o => ((readyOp o 0#4 [0x90, 0x90] [3, 8]).chunkResult 0 0 0).1.map (·.2.1)) =
      [[0x80, 0x00], [0x12, 0x00], [0xF2, 0xFF]] := by decide

/-- A matrix command that produces `k4`, and a copy that consumes `k3`. -/
def e4 : EngCommon :=
  { g := 0#4, n := false, e := true, kin0 := 3#6, kin1 := 0#6, kin2 := 0#6, kout := 4#6, stamp := 0#32, rcl := 0#4, aft := 0#16 }
def ms : Instr := .mxStep
  { c := e4, zero := true, surv := false, fmt := 0#7, xa := 1#2, bin := { space := 0#3, index := 0#6, rs := 0#6, str := 0#6 }, cur := 1#2
    es := 10#6, m1 := 0#7, x := { space := 4#3, index := 9#6, rs := 0#6, str := 1#6 }, wo := 0#20, wa := 8#5 }
def wc : Instr := .wzCopy
  { c := e4, wr := 0#4, df := 0#7, dc := 0#4, pm := 0#2, ce := false, ci := false, ck := 0#2, pa := 0#5, xs := 0#6, ls := 6#6, da := 5#5
    sa := 4#5 }

theorem witness_CommandIssue :
    let q := ct { units := { mxq := List.replicate 8 { instr := ms } } };
    (engWord ms = some (.mx, 0, e4) ∧ (ct {}).hasMe ∧ (ct {}).me.guard e4.g e4.n = true) ∧
    (cl { handler := true, cores := [{}] }).myCluster.handler = true ∧
    (e4.kout ≠ 0#6 ∧ (ct { tok := [(4, 1#2)] }).me.token 4 = 1#2) ∧
    (¬(e4.kout ≠ 0#6 ∧ q.me.token 4 = 1#2) ∧ 8 ≤ (q.me.engQ .mx).length) ∧ ((ct {}).me.engQ .mx).length < 8 := by
  unfold State.hasMe; decide

theorem witness_CommandQueuesAndTokens :
    let m : Cmd := { instr := ms };
    let s := ct { tok := [(3, 3#2)], units := { mxq := [m] } };
    (ct {}).hasMe ∧ m.kout ≠ 0 ∧ (255 : Nat) < 256 ∧ (2 ^ 48 - 1 : Nat) < 2 ^ 48 ∧ m.opc < 64 ∧ (5 ≠ m.kout) ∧
    ({ instr := .mxMark { (match ms with | .mxStep w => w | _ => mw) with c := { e4 with kout := 0#6 } } } : Cmd).kout = 0 ∧
    (s.hasMe ∧ s.me.failedIn m = some 3) ∧
    (let n : Cmd := { m with el := some 1, dur := 1, chain := some 2 };
     let t (x : Units) : State := ct { units := x };
      n.el = some n.dur ∧ n.dur ≠ 0 ∧ n.chain = some 2 ∧ (t { mxq := [n] }).hasMe ∧ (t { mxq := [n] }).written n = true ∧
      (t { mxq := [n] }).me.units.mxq.head? = some n ∧ (t { panq := [n] }).written n = true ∧
      (t { panq := [n] }).me.units.panq.head? = some n) := by unfold State.hasMe; decide +kernel

/-- A normal code of each format, a saturating byte format, each mode, a quotient, and infinities of both signs. -/
theorem witness_Rounding :
    (fp32 ∈ [fp32, bf16, fp16] ∧ 0x3F800000 < 2 ^ fp32.bits ∧ 0x3F800000 / 2 ^ (fp32.p - 1) % 2 ^ (fp32.bits - fp32.p) + 1 < 2 ^ (fp32.bits - fp32.p)) ∧
    (∃ c, 1 ≤ c ∧ c < 0x20 ∧ c % 8 ≠ 0 ∧ b8 0x1F = b8 c) ∧
    (∀ k < 4, let c : Rc := { mode := k };
      c.mode < 8 ∧ c.rn < 2 ^ 16 ∧
      (let r := rndRat bf16 c false 1 3 0
       r.1 < 2 ^ bf16.bits ∧ (match decFmt (.flt bf16) r.1 0 with | .fin _ _ _ => true | _ => false) = true)) ∧
    (let r := rndRat bf16 { sat := true } false 1 1 200
     r.2 &&& fOF ≠ 0#32) ∧
    (∀ t ∈ [(false, 3, (-2 : Int)), (true, 5, 4)], (-2 : Int) ≤ t.2.2) ∧
    ((∃ v ∈ [(Val.inf false, 0#32), (Val.inf true, 0#32)], v.1 = .inf false) ∧
      ∃ v ∈ [(Val.inf false, 0#32), (Val.inf true, 0#32)], v.1 = .inf true) := by
  refine ⟨by decide, ⟨0x1F, by decide⟩, by decide +kernel, by decide +kernel, by decide, by decide⟩

/-- A row and a slab of 1.0 for matrix commands, and their matrix word. -/
def onesRow (n : Nat) : List Elem := List.replicate n { bits := 0x3F800000, tag := 0x44FF#16 }
def mc : Cmd := { instr := ms, regs := [(kS 10, 5#64)], data := { row := onesRow 144, rows := [onesRow 128], width := 4, n := 1 } }
def msw : MxWord := match ms with | .mxStep w => w | _ => mw
theorem witness_EngineResults_matrix :
    (ct {}).hasMe ∧ mc.data.status = 0 ∧ msw.xa.toNat < 4 ∧ (mc.s msw.es).toNat ≤ 128 ∧ mc.data.row.length = 144 ∧ msw.fmt = 0#7 ∧
    mc.data.width = 4 ∧ mc.data.rows.length ≤ 128 ∧
    (∀ r ∈ mc.data.rows, r.length = 128 ∧ ∀ x ∈ r, x.kind = .line ∧ x.tag = 0x44FF#16 ∧ x.bits < 2 ^ 32) ∧ mc.data.n ≠ 0 ∧ mc.kout ≠ 0 ∧
    (match ofF32 0x3F800000 with | .fin _ _ _ => true | _ => false) = true ∧
    ((3 : Nat) < 128 ∧ (1#32).toNat % 8 < 4 ∧ ({} : Core).accVal 0 0 0 ≠ .poison) := by
  unfold State.hasMe; decide +kernel

/-- A copy of 64 bytes from core 2 to core 1, queued by core 0. -/
def cw : WzWord :=
  { c := e4, wr := 0#4, df := 0#7, dc := 0#4, pm := 0#2, ce := false, ci := false, ck := 0#2, pa := 0#5, xs := 0#6, ls := 6#6, da := 5#5
    sa := 4#5 }
def cn : Cmd := { instr := .wzCopy cw, regs := [(kS 6, 64#64), (kA 5, 0x8000000001000000#64), (kA 4, 0x8000000002000040#64)] }
def cs : State := cl { running := true, cores := { units := { wzq := [cn] } } :: List.replicate 7 {} }
theorem witness_EngineResults_copy :
    cs.hasMe ∧ cs.myCluster.cores.length = 8 ∧ (cs.me.units.wzq[0]?).isSome = true ∧ (∀ k ∈ cs.myCluster.cores, k.recent = []) ∧
    cn.data.pads = [] ∧ cn.data.reads = [] ∧ cn.data.wrote = [] ∧ cn.data.lost = [] ∧ cw.df = 0#7 ∧ cw.ck ≠ 2#2 ∧ (cn.s cw.ls).toNat = 64 ∧
    (cn.a cw.da).toNat = 2 ^ 63 + 1 * 2 ^ 24 + 0 ∧ (cn.a cw.sa).toNat = 2 ^ 63 + 2 * 2 ^ 24 + 64 := by
  unfold State.hasMe; decide +kernel

/-- A shape whose first element lies outside, draw pairs, and logarithms. -/
theorem witness_EngineResults :
    (let h : Shape := { esz := 4, counts := [2, 1, 1, 1], strides := [4, 0, 0, 0], origins := [-1, 0, 0, 0], extents := [2, 1, 1, 1] };
     h.counts.length = 4 ∧ h.origins.length = 4 ∧ h.extents.length = 4 ∧ h.strides.length = 4 ∧
      ∀ k < 4, (if k = 0 then 1 else 0) < h.counts.getD k 1 ∧ 0 < h.extents.getD k 1) ∧
    ([pA, pB, pC].length ≤ 2 ^ 32 ∧ (∀ p ∈ [pA, pB, pC], pairValid true p = true) ∧ ∃ p ∈ [pA, pB, pC], pairZero p = false) ∧
    ∀ v ∈ [ofF32 0x3F800000, ofF32 0x40000000], v.bad = false :=
  ⟨by decide +kernel, ⟨by decide +kernel, List.all_eq_true.mp (show [pA, pB, pC].all (pairValid true) = true by decide +kernel), pA, by simp, by decide +kernel⟩,
    by decide +kernel⟩

theorem witness_PackedStreams :
    (∀ b ∈ [(List.replicate 64 (7#8 : Byte), 0x44FF#16), (List.replicate 64 0#8, 0#16)], b.1.length = 64) ∧ (2 : Nat) < 2 ^ 32 := by decide

/-- A fault of a core whose handler is enabled, and one in handler mode. -/
def flt : Cause := { cls := 2, strm := 0, eng := false, code := 14, tval := 0#64 }
def hen : Core := { ctl := { started := true }, fen := 0x20000#32 }

theorem witness_Causes :
    firstCause [{ flt with cls := 8 }, flt] = some flt ∧ (flt.cls < 16 ∧ flt.strm < 8 ∧ flt.code < 65536) ∧
    (let s := cl { cores := [hen], handler := true, raised := [flt] };
     (slook s.clusters 0).isSome = true ∧ (s.cluster 0).cores.length ≤ 8 ∧ (firstCause (s.cluster 0).causes).isSome = true ∧
      (s.cluster 0).handler = true) ∧
    (let s := cl { cores := [{ hen with fen := 0#32 }], raised := [flt] };
     firstCause (s.cluster 0).causes = some flt ∧ (s.cluster 0).delivers = false ∧ flt.cls ≠ 11) := by decide

theorem witness_TrapEntry :
    let s := cl { cores := [hen], raised := [flt] };
    (slook s.clusters 0).isSome = true ∧ (s.cluster 0).cores.length ≤ 8 ∧ (s.cluster 0).handler = false ∧ (s.cluster 0).delivers = true ∧
    firstCause (s.cluster 0).raised = some flt ∧ flt.cls ∉ [7, 9, 12, 13] ∧ 0 ∈ (s.cluster 0).live := by decide

/-- A frame whose RPC is EPC, and one whose RPC is not. -/
theorem witness_TrapReturn :
    let h (e : Addr20) : Hidden :=
      { opnd := [], res := [], latch := [], loop := {}, preds := [false, true, false, true], bwait := [], skip := 2, xfer := none
        flights := [], vops := [], lsv := [], ver := [], verBusy := 0, vres := [], twait := none, redirect := false, epc := e };
    let c (e : Addr20) : Core := { scratch := ({} : TMem).wrs 0x17F804 [0x40#8], pipe := { hidden := some (h e), tret := true } };
    ((c 0x40#20).pipe.hidden = some (h 0x40#20) ∧ (h 0x40#20).preds.length = 4 ∧
      BitVec.ofNat 20 (leNat ((c 0x40#20).scratch.bytes 0x17F804 4)) = (h 0x40#20).epc) ∧
    BitVec.ofNat 20 (leNat ((c 0x80#20).scratch.bytes 0x17F804 4)) ≠ (h 0x80#20).epc ∧
    (slook (cl { handler := true, cores := [c 0x40#20] }).clusters 0).isSome = true := by decide

/-- A team whose one stream stands at a bundle of one word, with `s0 -> p5` there. -/
def one : State := State.reset.withFetchWord 32 0x0C500004

theorem witness_StepIssuesTheBundle :
    let u := one.engOver 0;
    let d := (u.deliverDue 0).updCluster 0 Cluster.waited;
    let e : Event := { row := .bundleIssue, inp := .none };
    ({ agenda := [e] } : State).agenda = e :: [] ∧ (one.agenda = [] ∧ one.pick = { row := .bundleIssue, inp := .none }) ∧
    (one.clusters.map (·.1) = [0] ∧ (one.cluster 0).info.stages ≤ 1 ∧ (one.cluster 0).running = true ∧ (one.cluster 0).saving = false ∧
      (one.cluster 0).stopped = false ∧ (one.cluster 0).holdLen < one.boss.canary ∧ (one.cluster 0).pause = 0 ∧
      (one.cluster 0).trapE = none ∧ one.mustHold 0 = false ∧ d.retires 0 = false ∧ (d.cluster 0).tokenWait = false ∧ e.finds = [] ∧
      nexts (d.attempt 0) = true) ∧
    nextIs (d.attempt 0) (fun t => !(t.cluster 0).stall && !(t.cluster 0).wait && (t.cluster 0).raised.isEmpty) = true ∧
    (d.cluster 0).raised = [] ∧ d.timersDue 0 = [] ∧ (u.cluster 0).saveDue = false ∧ d.loopStops 0 = [] ∧ u.doomed 0 = false := by decide +kernel

/-- The stream at a legal bundle with nothing to skip and with something to skip, and at an illegal one. -/
theorem witness_StepIssuesTheBundle_issue :
    let u := one.updMe (fun c => c.arrive.pass one.draining);
    let bad : State := State.reset.withFetchWord 32 0x7C000004;
    (one.hasMe ∧ one.me.runs = true ∧ one.me.inBubble = false) ∧
    (bundleAt u.lineOf u.me.ctl.pc).any (fun b => u.me.bundleCode b = 0 && u.me.ctl.skip = 0 && b.words.any isWord && b.words.length = 1) = true ∧
    (bundleAt bad.lineOf bad.me.ctl.pc).any (fun b => bad.me.bundleCode b ≠ 0) = true ∧
    ({ one.me with ctl := { one.me.ctl with skip := 1 } } : Core).ctl.skip ≠ 0 := by
  unfold State.hasMe; decide

theorem witness_StepIssuesTheBundle_decoded :
    decode [0x0C500004#32] = .ok (.move 3#5 5#6 { g := 0#4, n := false, e := true, src := .reg 0#5 0#6 }) ∧
    endOf (.move 3#5 5#6 { g := 0#4, n := false, e := true, src := .reg 0#5 0#6 }) = true := by
  exact ⟨rfl, rfl⟩

/-- Words of several kinds, one under a false guard; and a module that is not in the middle of a start. -/
theorem witness_CyclesComplete :
    isWord (.ctlJt (im 0#11)) = true ∧ isWord wc = true ∧ isWord (.vxDiv vt) = true ∧ (∀ k, ({} : State).board.phase ≠ .partway k) ∧
    isWord (.iaAdd false { im 0#11 with g := 5#4 }) = true ∧
    (ct {}).me.guard (guardOf (.iaAdd false { im 0#11 with g := 5#4 })).1 (guardOf (.iaAdd false { im 0#11 with g := 5#4 })).2 = false := by
  refine ⟨by decide, by decide, by decide, ?_, by decide, by decide⟩; intro k h; cases h

theorem witness_EncodingRoundTrip :
    (Instr.wf (.iaAdd true (im 0x7FF#11)) = true) ∧ Instr.wf (.vxAdd vt) = true ∧ Instr.wf ms = true ∧ Instr.wf wc = true ∧
    Instr.wf (.move 8#5 0#6 { im 0#11 with src := .imm2 0x1FFFFFFF#28 0x1FFFFFF#28 0x7FF#11 }) = true := by decide

theorem witness_DecodingIsExact :
    decode [0x20000800#32] = .ok (.move 8#5 0#6 { g := 0#4, n := false, e := false, src := .reg 0#5 4#6 }) := by rfl

theorem witness_ResetValues : (1 : Nat) ≤ 1 ∧ (1 : Nat) < 16 ∧ (15 : Nat) < 16 := by decide

/-- A reset module, and one with a team that issues a bundle. -/
theorem witness_InvariantKept :
    (State.reset.Inv ∧ nexts (step State.reset) = true) ∧ (one.Inv ∧ nexts (step one) = true ∧ one.clusters ≠ []) := by
  unfold State.Inv State.slotsInv; decide +kernel

/-! ### Steps of the device -/

/-- A start in which every step does what it should; the energy is the factory value times the quanta of 64 clusters. -/
def sr : StartRun :=
  { retained := true, pllLocks := true, fwGood := true, pcieTrains := true, dieLinkTrains := true, portsUp := 0xFFFFFF#24, eth := 3#2
    memTrains := true, gradesGood := true, defects := [], energy := 0xC18399 * 2 ^ 34 + 5, idle := 5, dcc := 9#64, upTo := 8 }

/-- Every outcome of a start: no lock, a step that fails, ready cold and warm, in parts, safe mode. -/
theorem witness_StartsAndBoard_starts :
    let off : State := { inp := .start sr };
    let up : State := { inp := .start sr, board := { phase := .ready, memReady := true } };
    let safe : State := { inp := .start sr, board := { phase := .safe, fails := 3 } };
    (off.inp = .start sr ∧ off.board.phase = .off ∧ off.board.fails < 3 ∧ off.startFails sr false false 1 = none) ∧
    (up.board.phase ≠ .off ∧ up.board.phase ≠ .safe ∧ (sr.retained && up.board.memReady) = true ∧ sr.gradesGood = true ∧
      up.startFails sr true false 1 = none) ∧
    (8 ≤ sr.upTo ∧ sr.pllLocks = true ∧ sr.upTo ≠ 0 ∧ ({ sr with upTo := 3 } : StartRun).upTo < 8) ∧
    (off.startFails { sr with memTrains := false } false false 1 = some 4 ∧ 4 ≤ sr.upTo) ∧ { sr with pllLocks := false }.pllLocks = false ∧
    (safe.board.phase = .safe ∧ 3 ≤ safe.board.fails ∧ safe.startFails sr false true 1 = none ∧ 3 ≤ sr.upTo ∧
      safe.startFails sr false false 1 = none) ∧
    (let p : State := { inp := .start sr, board := { phase := .partway 3 } };
     p.board.phase = .partway 3 ∧ 3 < sr.upTo ∧ p.board.fails < 3 ∧ p.startFails sr p.board.retained false 3 = none) ∧
    ({ board := { raiseTo := some 4#32 } } : State).board.raiseTo = some 4#32 := by decide +kernel

/-- The states of the other rows of the board. -/
theorem witness_StartsAndBoard :
    ({ board := { phase := .waitPll } } : State).board.phase = .waitPll ∧
    (let s : State := { one with host := { status := 1#64 } };
     s.board.hot = false ∧ s.isReady = true ∧ (slook s.clusters 0).isSome = true ∧ (s.cluster 0).drain = none ∧ (s.cluster 0).saving = false) ∧
    ({ board := { hot := true } } : State).board.hot = true ∧
    (let s : State := { inp := .die true, board := { phase := .ready, trips := [(true, 0#64, [])] }, host := { status := 1#64 } };
     s.inp = .die true ∧ s.board.phase ≠ .off ∧ s.isReady = true ∧ s.board.trips = (true, 0#64, []) :: []) ∧
    (let f : FwImage := { version := 3#32, digest := 0#512, shadow := 0#512, key := 7#512, good := true };
     let s : State := { inp := .image f, board := { phase := .safe, fuseA := { key := 7#512, rollback := 3#32 }
                                                    fuseB := { key := 7#512, rollback := 2#32 } } };
     s.inp = .image f ∧ s.board.phase = .safe ∧ f.good = true ∧ f.key = s.board.fuseA.key ∧ f.key = s.board.fuseB.key ∧
      s.board.fuseA.rollback.toNat ≤ f.version.toNat ∧ s.board.fuseB.rollback.toNat ≤ f.version.toNat ∧
      ({ f with version := 2#32 } : FwImage).version.toNat < s.board.fuseA.rollback.toNat) ∧
    (let s : State := { inp := .nonce 5#512, board := { phase := .ready } }; s.inp = .nonce 5#512 ∧ s.board.phase = .ready) := by decide +kernel

/-- A queue with room, and one launch of it. -/
def qp : QueueParams :=
  { ring := 0#64, dev := false, entries := 16, prio := 3#3, cring := 0#64, cdev := false, centries := 16, vec := 5#11 }
def cr : Completion := { tag := 9#64, status := 0, queue := 2, index := 1, cause := 0#32, team := 0xFFFFFFFF#32, late := 0#32, dcc := 0#64 }
def la : Launch :=
  { id := 1, queue := 2, index := 4, prio := 3, tag := 9#64, coop := false, gsize := 1, report := 0#64
    info := { launch := 1, ptroot := 0x20000, key := 5#64 }, args := 0x1000#64, arglen := 64
    entries := 0#32 :: List.replicate 7 0xFFFFFFFF#32, locals := [], lblk := 0x5C00000000, galUnits := 2 }
def rdy (f : HostIf → HostIf) (i : Input) : State := { inp := i, host := f { status := 5#64 }, board := { phase := .ready } }

theorem witness_HostInterface :
    let q (x : LQueue) (i : Input) : State := rdy (fun h => { h with queues := [(2, x)] }) i;
    (({ inp := .write 2#4 0#64 } : State).isReady = false ∧ (rdy id (.write 2#4 0#64)).isReady = true) ∧
    ((q { par := qp } (.write 2#4 3#64)).queue 2 = some { par := qp } ∧ (3 : Nat) ≠ (2#4).toNat ∧
      (q { par := qp } (.write 2#4 3#64)).board.readyAt ≠ some (q { par := qp } (.write 2#4 3#64)).dcc) ∧
    ({ inp := .write 2#4 3#64, dcc := 9#64, board := { readyAt := some 9#64 } } : State).board.readyAt = some 9#64 ∧
    (let s : State := { q { par := qp } (.write 2#4 0x10014#64) with boss := { launches := [la] }, clusters := [(0, { info := la.info })] };
     s.isReady = true ∧ (0x10014#64).getLsbD 16 = true ∧ s.queue 2 = some { par := qp } ∧ (0x10014#64).toNat % 2 ^ 16 % qp.entries = 4 ∧ s.boss.launches.find? (fun l => l.queue = 2 && l.index = 4) = some la ∧
      la.dead = none ∧ (∀ p ∈ s.clusters, p.2.cores.length ≤ 8 ∧ (p.2.info.launch = la.id → p.2.toBoss = none)) ∧
      0 ∈ s.slotsOf la.id ∧ s.retires 0 = false ∧ (s.cluster 0).inHold = false ∧ (s.cluster 0).trapE = none) ∧
    ((rdy id (.reg 0x2100#16 7#64)).inp = .reg 0x2100#16 7#64 ∧ (0x1078#16).toNat = 0x1000 + 8 * 15 ∧ (0x1178#16).toNat = 0x1100 + 8 * 15) ∧
    (queueParamsOk qp = true ∧ (rdy id (.queueNew 2#4 qp)).queue 2 = none) ∧
    (let s := q { par := qp } (.queue 2#4); s.queue 2 = some { par := qp } ∧ (∀ l ∈ s.boss.launches, l.queue ≠ 2)) ∧
    (let x : LQueue := { par := qp, waiting := [cr] }; (q x (.queue 2#4)).queue 2 = some x ∧ x.waiting = cr :: [] ∧ x.room = true ∧
      x.par.cdev = false) ∧
    (let s : State := { rdy id .none with boss := { launches := [la] } };
     s.host.status.getLsbD 2 = true ∧ la ∈ s.boss.launches ∧ la.dead = none ∧ la.galUnits ≠ 0) ∧
    (let s : State := { rdy (fun h => { h with status := 1#64 }) (.verdict true) with links := { retrainAsked := true, retrains := 2 } };
     s.inp = .verdict true ∧ s.host.status.getLsbD 2 = false ∧ s.isReady = true ∧ s.links.retrainAsked = true ∧ s.links.retrains < 3 ∧
      (∀ l ∈ s.boss.launches, l.cut = true → s.slotsOf l.id = [])) ∧
    (let s : State := { rdy (fun h => { h with status := 1#64 }) .none with
        clusters := [(0, { cores := [{}] })], boss := { launches := [{ la with cut := true }] }
        acc := [{ id := 5, slot := 0, core := 0, cls := 0#4, loc := .gal 0x5FFFFF, op := .load, stage := .die, seq := 0, arr := 0, ready := true }] };
     s.isReady = true ∧ s.host.status.getLsbD 2 = false ∧ (slook s.clusters 0).isSome = true ∧ s.crossing 0 = true) := by decide

/-- Device memory with a page table at 0x20000 whose one leaf maps the first GiB to itself, and an image at 0x100000 (R109,
R110): one section of code with a bundle that halts, one core, one stage. -/
def img : TMem :=
  let head : List Byte := leBytes 4 0x52564C4D ++ leBytes 2 1 ++ leBytes 2 1 ++ leBytes 1 1 ++ leBytes 1 1 ++ leBytes 2 1 ++ leBytes 4 0 ++ leBytes 8 5;
  let m : TMem := ((({} : TMem).wrs 0x20000 (leBytes 8 0x40001)).wrs 0x40000 (leBytes 8 0x77)).wrs 0x100000 head;
  let m := m.wrs 0x10001C (List.replicate 28 0xFF#8);
  let m := m.wrs 0x100038 ((List.replicate 15 (leBytes 2 0xFFFF ++ leBytes 6 0)).flatten);
  let m := m.wrs 0x100100 (leBytes 8 1 ++ leBytes 8 0x140 ++ leBytes 8 64 ++ leBytes 8 0 ++ leBytes 8 0x180);
  (m.wrs 0x100140 (leBytes 4 0xE0000004)).wrs 0x100180 (leBytes 8 0xFF)
/-- An entry that submits it with one team and 128 KiB of Gallery (R372), and where Shiftboss places it. -/
def entry (pt : Nat) : BitVec 512 :=
  BitVec.ofNat 512 (0x100000 + 0x3000 * 2 ^ 64 + 64 * 2 ^ 128 + 1 * 2 ^ 160 + pt * 2 ^ 256 + 9 * 2 ^ 384 + 2 * 2 ^ 448 + 1 * 2 ^ 496)
def plan : LoadPlan := { gbase := 0, lblk := 0x5C00000000, code := 0x200000, wins := [] }
def sub : State :=
  { rdy (fun h => { h with queues := [(2, { par := qp, tail := 1#16 })] }) (.submit 2#4 (entry 0x20000) plan) with dram := { mem := img } }

/-- An entry that is refused and one that is accepted. -/
theorem witness_LaunchesAndTeams_submit :
    sub.queue 2 = some { par := qp, tail := 1#16 } ∧ sub.isReady = true ∧ (0#16 : U16) ≠ 1#16 ∧ (2, 0) ∉ sub.host.kills ∧
    sub.refusal (entry 0x20001) (sub.imageOf (entry 0x20001)) = some 3 ∧ sub.refusal (entry 0x20000) (sub.imageOf (entry 0x20000)) = none ∧
    (sub.imageOf (entry 0x20000)).any (fun m => sub.planOk (entry 0x20000) m plan) = true := by decide +kernel

/-- The team of a slot, and its launch. -/
def tm (f : Cluster → Cluster) (i : Input) : State :=
  { inp := i, dcc := 0x10000000#64, clusters := [(0, f { info := la.info, cores := [{}] })], boss := { launches := [{ la with next := 1 }] } }

theorem witness_LaunchesAndTeams :
    (let s : State := { inp := .bindTo 0#6 1 0, boss := { launches := [la] } };
     s.launchOf 1 = some la ∧ s.mayBind 0 1 0 = true ∧ (0 : Nat) < la.info.cores ∧ la.info.cores ≤ 7 ∧ ∀ x ∈ s.boss.saved, ¬(x.launch = la.id ∧ x.team = 0)) ∧
    (let s := tm id (.slot 0#6); (slook s.clusters 0).isSome = true ∧ (s.cluster 0).running = false ∧ (s.cluster 0).saving = false ∧
      (s.cluster 0).start.toNat ≤ s.dcc.toNat) ∧
    (let s := tm (fun c => { c with running := true }) (.slot 0#6); (s.cluster 0).running = true ∧ (s.cluster 0).stopped = false ∧
      (s.cluster 0).lastSlice + s.boss.slice ≤ s.dcc.toNat ∧ (s.cluster 0).drain = none) ∧
    (let s := tm (fun c => { c with running := true, drain := some { since := 0 } }) (.slot 0#6);
     (s.cluster 0).drain = some { since := 0 } ∧ 0 + s.boss.window ≤ s.dcc.toNat) ∧
    (let s := tm (fun c => { c with running := true, saving := true }) (.slot 0#6); s.saveReady 0 = true ∧
      s.launchOf 1 = some { la with next := 1 } ∧ (s.cluster 0).toBoss = none) ∧
    (let s := tm (fun c => { c with running := true, cores := [{ ctl := { halted := true } }] }) (.slot 0#6); s.retires 0 = true) ∧
    (let s := tm (fun c => { c with running := true }) (.govern 0#6 true [(2, 0x3F800000#32)]);
     s.inp = .govern 0#6 true [(2, 0x3F800000#32)] ∧ s.sliceOver 0 = true ∧ (s.launchOf (s.cluster 0).info.launch).isSome = true ∧
      (s.cluster 0).drain = none) ∧
    (let s := tm (fun c => { c with stopped := true, toBoss := some { flt with cls := 12 } }) (.resume 0#6 true);
     (s.cluster 0).stopped = true ∧ (s.cluster 0).saving = false ∧ (s.cluster 0).toBoss = some { flt with cls := 12 }) ∧
    (let g : Launch := { la with gsize := 2, coop := true };
     let s : State := { rdy (fun h => { h with status := 13#64 }) (.gang 9#64 2 0x10000#64) with boss := { launches := [g] } };
     s.boss.launches.find? (fun l => l.tag = 9#64 && l.gsize = 2 && 1 < l.gsize && l.startAt.isNone && l.dead.isNone &&
        s.dcc.toNat ≤ l.taken + 2 ^ 28) = some g ∧
      s.host.status.getLsbD 3 = true ∧ s.dcc.toNat + 2 ^ 16 ≤ (0x10000#64).toNat ∧
      s.boss.launches.find? (fun l => l.tag = 9#64 && l.gsize = 2 && 1 < l.gsize && l.dead.isNone &&
        (1#64 = 1#64 || (l.startAt.isNone && l.taken + 2 ^ 28 ≤ s.dcc.toNat))) = some g) := by decide

/-- A core with one command at the head of a queue. -/
def eng (k : EngKind) (m : Cmd) : Core :=
  match k with
  | .mx => { units := { mxq := [m] } }
  | .wz => { units := { wzq := [m] } }
  | .pan => { units := { panq := [m] } }
/-- The copy and the matrix command above without a token to consume. -/
def free (i : Instr) : Instr :=
  match i with
  | .wzCopy w => .wzCopy { w with c := { w.c with kin0 := 0#6 } }
  | .mxStep w => .mxStep { w with c := { w.c with kin0 := 0#6 } }
  | i => i

/-- A remote copy without a token to consume. -/
def rcp : Instr := .wzRcopy (match free wc with | .wzCopy w => w | _ => ww)

/-- A cluster in slot 0 with one stream, changed as a function says. -/
def k (f : Cluster → Cluster) (i : Input) : State := { inp := i, clusters := [(0, f { running := true, cores := [{ ctl := { started := true } }] })] }

theorem witness_ClusterSteps_winze :
    (∀ i ∈ [free wc, rcp], let m : Cmd := { instr := i, regs := [(kA 5, 5#64)] };
     let s := k (fun c => { c with cores := [eng .wz m], rr := 7 }) (.engine 0#6 0#3 .wz 0);
     0 ∉ (s.cluster 0).took ∧ s.me.wzNext = some (0, m) ∧ s.mayStart .wz 0 m false = true ∧ s.me.failedIn m = none ∧
      (wzOf m.instr).any (fun p => p.1 < 10 && remoteOk (m.a p.2.da)) = true ∧ (s.cluster 0).freeEngine = some 0 ∧ (s.cluster 0).rr < 8 ∧
      ∀ d < (0 + 8 - (s.cluster 0).rr) % 8, s.wzTakes 0 (((s.cluster 0).rr + d) % 8) false = false) ∧
    (let m : Cmd := { instr := rcp, regs := [(kA 5, BitVec.ofNat 64 (2 ^ 57))] };
     let s := k (fun c => { c with cores := [eng .wz m] }) (.engine 0#6 0#3 .wz 0);
     s.me.wzNext = some (0, m) ∧ s.mayStart .wz 0 m false = true ∧ (wzOf m.instr).any (fun p => p.1 = 9 && !(remoteOk (m.a p.2.da))) = true ∧
      (s.cluster 0).freeEngine = some 0) ∧
    (let m : Cmd := { instr := .wzMark (match free wc with | .wzCopy w => w | _ => ww) };
     let s := k (fun c => { c with cores := [eng .wz m] }) (.engine 0#6 0#3 .wz 0);
     s.me.wzNext = some (0, m) ∧ s.mayStart .wz 0 m false = true ∧ s.me.failedIn m = none ∧ (wzOf m.instr).any (fun p => p.1 = 0x0A) = true) ∧
    (let m : Cmd := { instr := wc };
     let s := k (fun c => { c with cores := [{ eng .wz m with tok := [(3, 3#2)] }] }) (.engine 0#6 0#3 .wz 0);
     s.me.wzNext = some (0, m) ∧ s.mayStart .wz 0 m false = true ∧ s.me.failedIn m = some 3) ∧
    (let m : Cmd := { instr := free wc, el := some 0, dur := 24 };
     let s := k (fun c => { c with cores := [eng .wz m] }) (.engine 0#6 0#3 .wz 0);
     s.me.units.wzq[0]? = some m ∧ m.el.isSome = true ∧ (s.wzAdvance 0).isSome = true) := by decide +kernel

theorem witness_ClusterSteps :
    let due : Flight := { left := 0, puts := [] };
    (let s := k (fun c => { c with cores := [{ pipe := { flights := [due] } }] }) (.slot 0#6);
     s.atBoundary 0 = true ∧ (s.cluster 0).cores.length ≤ 8 ∧ ∃ i < 1, ∃ f ∈ ((s.cluster 0).core i).pipe.flights, f.left = 0) ∧
    (let s := k (fun c => { c with xc := [{ dst := 5, src := 0, v := 0#64, left := 0 }] }) (.slot 0#6);
     s.atBoundary 0 = true ∧ ∃ m ∈ (s.cluster 0).xc, m.left = 0) ∧
    (let s := k (fun c => { c with stall := true, cores := [{ ctl := { halted := true }, tok := [(1, 1#2)] }] }) (.slot 0#6);
     s.atBoundary 0 = true ∧ (s.cluster 0).stall = true ∧ nextIs (s.boundary 0) (fun t => !(t.cluster 0).stall && !(t.cluster 0).wait) = true) ∧
    (let s := k (fun c => { c with holdLen := 2 ^ 22 }) (.slot 0#6); (s.cluster 0).stopped = false ∧ (s.cluster 0).saving = false ∧
      s.boss.canary ≤ (s.cluster 0).holdLen) ∧
    (let s := k (fun c => { c with trapE := some 0#64 }) (.slot 0#6); (s.cluster 0).trapE.isSome = true ∧ s.allArrived (s.awaited 0) = true) ∧
    (let s := k (fun c => { c with imem := [(0, 4#8)], cores := [{ ctl := { started := true }, fen := 0x30000#32, armed := true }] }) (.slot 0#6);
     (s.cluster 0).trapE = none ∧ s.atBoundary 0 = true ∧
      nextIs (s.boundary 0) (fun t => trapped s t 0 && !((t.cluster 0).core 0).armed) = true ∧ ((s.cluster 0).core 0).armed = true) ∧
    (let m : Cmd := { instr := free ms };
     let s := k (fun c => { c with cores := [eng .mx m] }) (.engine 0#6 0#3 .mx 0);
     s.me.engQ .mx = m :: [] ∧ m.el = none ∧ s.mayStart .mx 0 m false = true ∧ s.me.failedIn m = none ∧ s.afterBuffers m = true ∧
      wzOf m.instr = none) ∧
    (let m : Cmd := { instr := free ms, stamp := 0#32 };
     let g : Cmd := { instr := ms };
     let s := k (fun c => { c with cores := [{ eng .mx g with tok := [(3, 3#2)] }] }) (.engine 0#6 0#3 .mx 0);
     m.stamp = g.stamp ∧ s.mayStart .mx 0 g false = true ∧ s.afterBuffers g = true ∧ s.me.failedIn g = some 3 ∧
      (engWord g.instr).isSome = true) ∧
    (let m : Cmd := { instr := .mxMark (match free ms with | .mxStep w => w | _ => mw), el := some 1, dur := 1 };
     let s := k (fun c => { c with cores := [eng .mx m] }) (.engine 0#6 0#3 .mx 0);
     s.me.engQ .mx = m :: [] ∧ (engWord m.instr).isSome = true ∧ m.el = some m.dur ∧ m.dur ≠ 0 ∧ s.written m = true) ∧
    (let m : Cmd := { instr := free wc, el := some 24, dur := 24, data := { phase := 2 } };
     let s := k (fun c => { c with cores := [eng .wz m] }) (.engine 0#6 0#3 .wz 0); (s.wzComplete 0).isSome = true) := by decide +kernel

/-- An access at the head of its class queue, of a channel, and of the system channel. -/
def acc (st : Stage) : Access :=
  { id := 5, slot := 0, core := 0, cls := 0#4, loc := .mem 16, op := .load, stage := st, seq := 0, arr := 0, ready := true }
def rep (a : Bool) : Reply :=
  { id := 5, loc := .mem 16, bytes := List.replicate 64 0#8, tag := 0#16, swMeta := 0#64, old := 0#64, status := 0#8, flags := 0#32
    arrived := a }
def pgr (pri sent : Bool) : PageReq := { id := 7#64, va := 0x30000#64, write := false, launch := 1, pri := pri, sent := sent, since := 0 }
/-- A launch whose page table is the one above. -/
def mem1 (i : Input) : State := { inp := i, dram := { mem := img }, boss := { launches := [la] } }

theorem witness_MemorySteps :
    (let s : State := { ct {} with inp := .access 5, acc := [acc .queue] }; s.access 5 = some (acc .queue) ∧ s.mayLeave (acc .queue) = true) ∧
    (let s : State := { ct {} with inp := .access 5, acc := [acc .die] }; s.atHead (acc .die) = true ∧ (acc .die).stage ≠ .system) ∧
    (let s : State := { ct {} with inp := .perform 5 .clean, acc := [acc .system] };
     s.atHead (acc .system) = true ∧ (acc .system).loc.unmapped = none ∧
      ({ acc .system with loc := .mem (0x6000000000 / 64) } : Access).loc.unmapped = some 0x6000000000) ∧
    (let s : State := { inp := .access 5, replies := [rep false] }; (∃ r ∈ s.replies, r.id = 5 ∧ r.arrived = false) ∧ s.waitsFor 5 = false) ∧
    (let s : State := { ct { pipe := { flights := [{ left := 9, puts := [], ids := [5] }] } } with replies := [rep false] }; s.waitsFor 5 = true) ∧
    (granule 3#2 0x5FFFFF = some (.gal 0x5FFFFF) ∧ granule 2#2 0 = some (.mem 0x400000000) ∧ ({} : State).fire.loc = none ∧
      Loc.gal 0x5FFFFF ∉ ({} : State).fire.visited) ∧
    ({ fire := { loc := some (.gal 3), poison := true } } : State).fire.loc = some (.gal 3) ∧
    (let s : State := { inp := .replyRecord 7#128, pages := [pgr false true], host := { rpqTail := 1#32 } };
     s.inp = .replyRecord 7#128 ∧ s.host.rpqHead ≠ s.host.rpqTail ∧
      s.pages.find? (fun p => p.id = (7#128).setWidth 64 && p.pri = false && p.sent) = some (pgr false true) ∧
      s.pages.find? (fun p => p.id = (8#128).setWidth 64 && p.pri = false && p.sent) = none ∧ (7#128 / 2 ^ 64).toNat % 256 = 0 ∧ s.doneHolds 8#64 false = true) ∧
    (let r : BitVec 128 := 7#128 + 2#128 ^ 64; let a : PageAnswer := { id := 7#64, done := false, pri := false, late := false };
     let s : State := { inp := .replyRecord r, pages := [pgr false true], host := { rpqTail := 1#32, answers := [a] } };
     r.toNat / 2 ^ 64 % 256 ≠ 0 ∧ s.host.answers = [a] ∧ s.pages.find? (fun p => p.id = a.id && p.pri = a.pri && p.sent) = some (pgr false true) ∧
      (pgr false true).id.getLsbD 8 = false ∧ s.pages.find? (fun p => p.id = 9#64 && p.pri = a.pri && p.sent) = none) ∧
    (let l : Launch := { la with info := { la.info with maps := [(3, ownLeaf 64)] } };
     let s : State := { pages := [pgr true true], boss := { launches := [l] } }; s.doneHolds 7#64 true = true) ∧
    (let s : State := { inp := .reply 7#64 0#8, pages := [pgr true true], dcc := 0x40000000#64 };
     s.pages.find? (fun p => p.id = 7#64 && p.pri = true && p.sent) = some (pgr true true) ∧
      s.pages.find? (fun p => p.id = 7#64 && s.timedOut p) = some (pgr true true)) ∧
    (let s : State := { pages := [pgr true false] }; s.pages.find? (fun p => p.pri && !p.sent) = some (pgr true false) ∧ s.priGroup = some 0) ∧
    ({ inp := .route 2#4 true 5#20 } : State).inp = .route 2#4 true 5#20 := by decide +kernel

/-- A leaf in memory whose frames are regraded, and a page that the loader mapped. -/
theorem witness_MemorySteps_pages :
    (let c : PteChange := { launch := 1, va := 0x12345#64, level := 1, entry := 0x57#64 };
     let s := mem1 (.pte c);
     s.inp = .pte c ∧ s.launchOf 1 = some la ∧ c.va.toNat < 2 ^ 57 ∧ c.level ≤ 3 ∧
      s.placeOf la.info c.va.toNat c.level = some (.table 0x40000) ∧ s.entryNow la.info (.table 0x40000) = 0x77#64 ∧
      s.quiet c.level 0x77#64 = true ∧ s.planned c.launch c.va.toNat c.level 0x77#64 c.entry = true ∧
      s.mayInstall 0x77#64 c.entry c.level = true ∧ 0x40000 % 8 = 0 ∧ s.rings = [] ∧ s.bad = [] ∧ s.fire.loc = none ∧
      isLeaf 0x77#64 c.level = true ∧ (0x77#64 ^^^ c.entry) &&& 0xFFFFFFFFFFFFFFF7#64 ≠ 0#64) ∧
    (let s := mem1 (.migrate 1 0x12345#64 0x40000000#64);
     s.translate la.info 0x12345 = .leaf 0x77#64 1 ∧ s.placeOf la.info 0x12345 1 = some (.table 0x40000) ∧ (0x77#64).getLsbD 3 = false ∧
      (0x40000000 : Nat) % 2 ^ pageBits 1 = 0 ∧ (memNode 0x40000000).isSome = true ∧ 0x40000000 ≠ entryAddr 0x77#64 ∧
      bossMem 0x40000000 1 = false ∧ s.holdsTable 0x40000000 (2 ^ pageBits 1) = false ∧ s.quiet 1 0x77#64 = true ∧ s.slotsOf 1 = [] ∧
      (s.lend 1 1 0#64).isSome = true) ∧
    (let l : Launch := { la with info := { la.info with maps := [(1, ownLeaf 64)] } };
     let s : State := { mem1 (.migrate 1 0x12345#64 0x500000#64) with boss := { launches := [l] } };
     s.translate l.info 0x12345 = .leaf (ownLeaf 64) 3 ∧ s.placeOf l.info 0x12345 3 = some (.loader 1)) := by decide +kernel

theorem witness_LinksAndSessions :
    let l (f : Links) (i : Input) : State := { inp := i, links := f };
    let h : PeerHello := { sid := 3#32, node := 2#20, keyDigest := 5#512, pub := 0#1056, nonce := 0#256, signed := true };
    let x : Session := { sid := 3#32, node := 2#20, keys := 0#512 };
    (let s := l { up := 0xFFFFFF#24, replays := [(23, 15)] } (.flit 23#5 false); s.links.up.getLsbD (23#5).toNat = true ∧
      15 ≤ sget 0 s.links.replays 23 ∧ sget 0 s.links.replays 22 < 15) ∧
    (let s := l { up := 1#24 } (.flit 0#5 true); sget 0 s.links.acked 0 + 2 ^ 20 ≤ ({ s with dcc := 0x100000#64 } : State).dcc.toNat) ∧
    (let s := l { up := 1#24, node := 1#20 } (.timing 0#5 2#20 (-8)); s.links.up.getLsbD 0 = true ∧ (2#20 : BitVec 20) ≠ s.links.node) ∧
    (let s : State := { rdy id .none with dcc := 0x100000#64 }; s.isReady = true ∧ s.host.status.getLsbD 3 = false ∧ -8 ≤ s.links.offset ∧
      s.links.offset ≤ 8 ∧ s.links.steadySince + 2 ^ 20 ≤ s.dcc.toNat) ∧
    (let r : Remote := { id := 4, slot := 0, core := 0, node := 2#20 };
     (l { sent := [r] } (.remote (.answer 4 .ok 0#32))).links.sent.find? (fun r => r.id = 4) = some r) ∧
    (let b : Inbound := { node := 2#20, id := 4, writes := [9], sum := 7#32 };
     let s := l { inbound := [b] } (.remote (.written 2#20 4));
     s.links.inbound.find? (fun b => b.node = 2#20 && b.id = 4) = some b ∧ ∀ a ∈ s.acc, a.id ∉ b.writes) ∧
    (let s : State := { inp := .hello h, allow := [5#512] }; h.signed = true ∧ h.keyDigest ∈ s.allow ∧ s.sessions.length < 256 ∧
      (∀ y ∈ s.sessions, y.sid ≠ h.sid) ∧ (6#512 : BitVec 512) ∉ s.allow ∧ 256 ≤ (List.replicate 256 x).length) ∧
    (∃ y ∈ ({ inp := .rekey 3#32 0#1056 0#256, sessions := [x] } : State).sessions, y.sid = 3#32) ∧
    (let f : Frame := { sid := 3#32, counter := 1#64, tagGood := true, payload := [5#8] };
     let s : State := { inp := .frame f, sessions := [x] };
     s.inp = .frame f ∧ s.sessions[0]? = some x ∧ x.sid = f.sid ∧ x.accepts s.dcc.toNat f = true ∧ x.accepts s.dcc.toNat { f with tagGood := false } = false) ∧
    (let p : PeerHello := { h with signed := false, node := 0#20 };
     let q : Ring := { launch := 1, crb := 0x400000#64, size := 16#32 };
     let y : Run := { desc := [], table := [(0#20, 0xFFFFF#20, true), (5#20, 0#20, true)], self := 1, depth := 1, own := none, parts := [], late := 0
                      forwarded := false, page := false };
     let s : State := { inp := .hello p, rings := [{ q with run := some y }] };
     p.signed = false ∧ p.node ∈ y.neighbours ∧ s.linked p.node = false) := by decide +kernel

/-- A payload for a page that is mapped, and one for a page that is not. -/
theorem witness_LinksAndSessions_payload :
    let p (da : U64) : Payload := { node := 2#20, id := 4, launch := 1, da := da, bytes := [1#8], blocks := [], ck := 0#2, start := 0#32 };
    let s (da : U64) := mem1 (.remote (.payload (p da)));
    (s 0#64).launchOf 1 = some la ∧ (s 0#64).vaMoving la.info 0x300000 1 = false ∧ (s 0#64).vaOk la.info true 0x300000 1 = true ∧
    (s 0#64).host.inject.getLsbD 63 = false ∧ (p 0#64).bytes ≠ [] ∧ (s 0#64).vaOk la.info true 0x40000000 1 = false := by decide +kernel

/-- A ring in mapped memory, and a collective of two entries under way on it: a sum of FP32 over a tree. -/
def ring : Ring := { launch := 1, crb := 0x400000#64, size := 16#32, tail := 1#32 }
def tree : List (BitVec 20 × BitVec 20 × Bool) := [(0#20, 0xFFFFF#20, true), (1#20, 0#20, true)]
def run (q : Nat) : Run :=
  { desc := [1#8, 0#8, 0#8, 0x22#8] ++ leBytes 4 q ++ List.replicate 56 0#8, table := tree, self := 0, depth := 0, own := none, parts := []
    late := 0, forwarded := false, page := false }

/-- A digest that agrees with the table of the collective, and one that does not. -/
theorem witness_Collectives_digest : tableDigest tree = tableDigest (run 0).table ∧ ~~~(tableDigest tree) ≠ tableDigest (run 0).table :=
  ⟨rfl, fun h => by have := congrArg (·.getLsbD 0) h; simp [run] at this⟩

theorem witness_Collectives :
    (let s := mem1 (.ringMap 1 0x400000#64 16#32); (s.launchOf 1).isSome = true ∧ (0x400000 : Nat) % 65536 = 0 ∧
      (∃ i < 9, (16#32 : U32).toNat = 2 ^ (i + 4)) ∧ (∀ r ∈ s.rings, r.launch ≠ 1) ∧
      s.ringPa { launch := 1, crb := 0x400000#64, size := 16#32 } = some 0x400000 ∧
      s.vaOk (s.ringTeam { launch := 1, crb := 0x400000#64, size := 16#32 }) true 0x400000 (64 + 64 * 16) = true ∧
      s.vaFirst (s.ringTeam { launch := 1, crb := 0x400000#64, size := 16#32 }) 0x400000 (64 + 64 * 16) = true) ∧
    (let s : State := { mem1 (.ring 0) with rings := [ring] }; s.rings[0]? = some ring ∧ ring.run = none ∧ ring.head ≠ ring.tail ∧
      s.vaOk (s.ringTeam ring) false (0x400000 + 0x40) 64 = true) ∧
    (dQuorum (run 1).desc = true ∧ (run 1).forwarded = false ∧ (run 1).close < ((1#64 : U64).toNat : Int)) ∧
    (dQuorum (run 0).desc = false ∧ 1 ∈ (run 0).children ∧ (∀ p ∈ (run 0).parts, p.1 ≠ 1)) ∧
    ((run 0).page = false ∧ (run 1).page = false ∧ ({ run 1 with page := true } : Run).page = true ∧
      (0 ∉ (run 0).children ∧ 1 ∈ (run 1).children) ∧ ({ run 1 with late := 1 } : Run).complete = false ∧ 0 ≠ (1 : Nat)) ∧
    (let s : State := { mem1 (.coll 0 5#32 .abort) with rings := [ring] };
     s.rings[0]? = some ring ∧ ring.run = none ∧ (5#32 - ring.head).toNat < 2 ^ 31) ∧
    (let r : Ring := { ring with head := 1#32, last := some (run 1) };
     2 ^ 31 ≤ (0#32 - r.head).toNat ∧ r.last = some (run 1) ∧ (run 1).index = 0#32) ∧
    (let r : Ring := { ring with run := some (run 0) }; let s : State := { rings := [r] };
     s.rings = [r] ∧ r.run = some (run 0) ∧ (run 0).others.any (fun m => !(s.linked m)) = true) ∧
    (let s : State := { mem1 (.coll 0 0#32 .abort) with rings := [{ ring with run := some (run 0) }] };
     s.rings[0]? = some { ring with run := some (run 0) } ∧ (run 0).index = 0#32 ∧ s.vaMoving (s.ringTeam ring) (dDst (run 0).desc) (dLen (run 0).desc) = false) := by
  decide +kernel

/-- A ring on a page that the loader mapped: whatever device memory holds, the page keeps its place. -/
def lm : Launch := { la with info := { la.info with maps := [(0x40, ownLeaf 0x40)] } }
theorem ring_stays (s u : State) (r : Ring) (va : Nat) (w : Bool) (hu : u.boss = s.boss)
    (h : ((s.launchOf r.launch).map Launch.info).getD {} = lm.info) (hv : va / 65536 = 0x40) (_ : va < 2 ^ 57) :
    u.vaPa (u.ringTeam r) w va = some (0x400000 + va % 65536) := by
  have e : u.ringTeam r = lm.info := by
    rw [State.ringTeam, ← h]; unfold State.launchOf; rw [hu]
  rw [e, State.vaPa, State.translate]
  rw [if_neg (by omega)]
  have : slook lm.info.maps (va / 65536) = some (ownLeaf 0x40) := by rw [hv]; decide
  rw [this]; cases w <;> simp [ownLeaf, leafAddr, entryAddr, pageBits, field]

/-- A store to the doorbell of that ring, at the head of the system channel. -/
def dbA (v : U32) : Access := { acc .system with loc := .mem 0x10000, op := .store (bytesAt 0 (leBytes 4 v.toNat)) none }
def dbS (v : U32) : State := { inp := .perform 5 .clean, acc := [dbA v], boss := { launches := [lm] }, rings := [ring] }

/-- A doorbell that has room and one that has none, at a ring whose control line no table holds; and the map of that ring. -/
theorem witness_Collectives_doorbell :
    ((dbS 2#32).access 5 = some (dbA 2#32) ∧ (dbS 2#32).atHead (dbA 2#32) = true ∧ (dbA 2#32).loc.unmapped = none ∧
      (dbS 2#32).found (dbA 2#32).loc .clean = .clean ∧ (dbA 2#32).loc ∉ (dbS 2#32).bad ∧ (dbS 2#32).rings[0]? = some ring) ∧
    ((dbS 17#32).access 5 = some (dbA 17#32) ∧ (dbS 17#32).atHead (dbA 17#32) = true) ∧
    nextIs (exec .accessPerform (dbS 2#32)) (fun t => t.rings = [{ ring with tail := 2#32, posts := [0] }] && t.readRing ring 0 = 2#32) = true ∧
    nextIs (exec .accessPerform (dbS 17#32)) (fun t => t.rings = [ring] && t.readRing ring 0 = 1#32 && t.readRing ring 12 = 1#32) = true := by
  decide +kernel

theorem witness_Collectives_place :
    (∀ u : State, u.boss = (dbS 2#32).boss → u.ringPa ring = some 0x400000) ∧
    (∀ i ≤ 16, ∀ u : State, u.boss = (dbS 2#32).boss → u.vaPa (u.ringTeam ring) true (0x400000 + 64 * i) = some (0x400000 + 64 * i)) := by
  refine ⟨fun u hu => ring_stays { boss := { launches := [lm] } } u ring 0x400000 false hu (by decide) (by decide) (by decide), ?_⟩
  intro i hi u hu
  rw [ring_stays { boss := { launches := [lm] } } u ring (0x400000 + 64 * i) true hu (by decide) (by omega) (by omega)]
  congr 1; omega

/-! ## Bundles that the spec lists -/

/-- The parcels of a bundle decode to these instructions, with no code of R93. -/
def lists (ps : List U32) (is : List Instr) : Bool := (decodeBundle 0#20 ps).words == is && (decodeBundle 0#20 ps).codes.isEmpty
/-- A word that does not end its bundle, and one that does, with a register or an immediate as its source. -/
def mid (x : Src) : Trig := { g := 0#4, n := false, e := false, src := x }
def fin (x : Src) : Trig := { g := 0#4, n := false, e := true, src := x }
def sR (n : BitVec 6) : Src := .reg 0#5 n
def aR (n : BitVec 6) : Src := .reg 1#5 n

/-- spec/03 R81, R83, R84; spec/04 R114; spec/05 R135, R145, R153. -/
theorem test_listed_short :
    lists [0x20000800#32, 0xA0000604#32] [.move 8#5 0#6 (mid (sR 4#6)), .iaAdd false (fin (sR 3#6))] ∧
    lists [0x00000243#32, 0x00A68B04#32] [.move 0#5 10#6 (fin (.imm1 0x24#28 0x345#11))] ∧
    lists [0xCF135793#32, 0x002468A3#32, 0x045BDF04#32] [.move 1#5 5#6 (fin (.imm2 0xCF13579#28 0x2468A#28 0x5EF#11))] ∧
    lists [0x2C008650#32, 0xAC008154#32] [.move 11#5 0#6 { mid (aR 3#6) with g := 5#4 }, .agAdd true { fin (.imm 64#11) with g := 5#4 }] ∧
    lists [0x044C0204#32] [.move 1#5 4#6 (fin (.reg 0x18#5 1#6))] ∧
    lists [0x24001200#32, 0xA42FFB04#32] [.move 9#5 0#6 (mid (sR 9#6)), .iaAdds true (fin (.imm 0x7FD#11))] ∧
    lists [0x00004003#32, 0xB4028104#32] [.ctlPbr (fin (.imm1 0x400#28 0x140#11))] ∧ lists [0xB4106504#32] [.ctlBr (fin (.imm 0x32#11))] ∧
    lists [0x0D800700#32, 0xB4402304#32] [.move 3#5 24#6 (mid (.imm 3#11)), .ctlLoop (fin (.imm 0x11#11))] ∧
    lists [0xE0000004#32] [.sysHalt (fin (sR 0#6))] := by decide

/-- The values that two of them move: `#0x12345` and `#0x0123_4567_89AB_CDEF` (R83). -/
theorem test_listed_values :
    State.reset.source (.imm1 0x24#28 0x345#11) = 0x12345#64 ∧
    State.reset.source (.imm2 0xCF13579#28 0x2468A#28 0x5EF#11) = 0x0123456789ABCDEF#64 ∧ State.reset.source (.imm 0x7FD#11) = -3#64 := by decide

/-- spec/06 R160, R169, R173; spec/09 R282, R283; spec/19: ls, ga, pan, ver and ag words. -/
theorem test_listed_units :
    lists [0x30200500#32, 0x30000E00#32, 0xB1209204#32] [.move 12#5 2#6 (mid (.imm 2#11)), .move 12#5 0#6 (mid (sR 7#6)), .lsSt 2#2 (fin (aR 9#6))] ∧
    lists [0x30110600#32, 0x30300F00#32, 0x30000500#32, 0xB2209204#32] [.move 12#5 1#6 (mid (.reg 2#5 3#6)), .move 12#5 3#6 (mid (.imm 7#11)),
      .move 12#5 0#6 (mid (.imm 2#11)), .lsVldh (fin (aR 9#6))] ∧
    lists [0x3C000300#32, 0xBC008C04#32] [.move 15#5 0#6 (mid (.imm 1#11)), .gaAdd (fin (aR 6#6))] ∧
    lists [0x4C008800#32, 0xCE008A04#32] [.move 19#5 0#6 (mid (aR 4#6)), .panMerge (fin (aR 5#6))] ∧
    lists [0x50008A00#32, 0x50102800#32, 0x50200500#32, 0xD0100004#32] [.move 20#5 0#6 (mid (aR 5#6)), .move 20#5 1#6 (mid (sR 20#6)),
      .move 20#5 2#6 (mid (.imm 2#11)), .verCand (fin (sR 0#6))] ∧
    lists [0x3C100900#32, 0xBCB09A00#32, 0x2C009A00#32, 0xAC000904#32] [.move 15#5 1#6 (mid (.imm 4#11)), .gaBar (mid (aR 13#6)),
      .move 11#5 0#6 (mid (aR 13#6)), .agAdd true (fin (.imm 4#11))] ∧
    lists [0x00C60000#32, 0xAC901404#32] [.move 0#5 12#6 (mid (.reg 12#5 0#6)), .agKvget true (fin (sR 10#6))] := by decide

/-- spec/07 R205, spec/19: vector words; and the listing of spec/03 R87, whose CLS of 2 without an operand in memory is code 4
by R85. -/
theorem test_listed_vector :
    decodeOne [] [0x00242005#32, 0x00244001#32, 0x1180048A#32] = some ({ codes := [.reserved], instr := some (.vxFma
      { g := 0#4, n := false, e := true, u := false, opm := 0#4, rnd := 0#4, cls := 2#4
        a := { space := 1#3, index := 4#6, rs := 0#6, str := 1#6 }, b := { space := 1#3, index := 5#6, rs := 0#6, str := 1#6 }
        d := { space := 1#3, index := 6#6, rs := 0#6, str := 1#6 } }) }, []) ∧
    lists [0x001C2005#32, 0x00105001#32, 0x12C00486#32] [.vxDot
      { g := 0#4, n := false, e := true, u := false, opm := 0#4, rnd := 0#4, cls := 1#4
        a := { space := 4#3, index := 5#6, rs := 0#6, str := 1#6 }, b := { space := 1#3, index := 3#6, rs := 0#6, str := 0#6 }
        d := { space := 1#3, index := 11#6, rs := 0#6, str := 1#6 } }] ∧
    lists [0x000A6005#32, 0x00041001#32, 0x10800400#32] [.vxRmax
      { g := 0#4, n := false, e := true, u := false, opm := 0#4, rnd := 0#4, cls := 0#4
        a := { space := 1#3, index := 1#6, rs := 0#6, str := 1#6 }, b := { space := 0#3, index := 0#6, rs := 0#6, str := 0#6 }
        d := { space := 1#3, index := 2#6, rs := 0#6, str := 1#6 } }] := by decide

/-- spec/08 R243, R250; spec/03 R89; spec/06 R194; spec/09 R277; spec/18: engine words. -/
def eo (k1 o : BitVec 6) : EngCommon :=
  { g := 0#4, n := false, e := true, kin0 := k1, kin1 := 0#6, kin2 := 0#6, kout := o, stamp := 0#32, rcl := 0#4, aft := 0#16 }
def noOp : Opnd := { space := 0#3, index := 0#6, rs := 0#6, str := 0#6 }
def lA (n : BitVec 6) : Opnd := { space := 4#3, index := n, rs := 0#6, str := 1#6 }

theorem test_listed_mx :
    lists [0x02802406#32, 0x12002000#32, 0x00001402#32, 0x10000300#32, 0#32, 0#32] [.mxStep
      { c := eo 3#6 4#6, zero := false, surv := false, fmt := 0#7, xa := 0#2, bin := noOp, cur := 0#2, es := 10#6, m1 := 0#7, x := lA 9#6
        wo := 1#20, wa := 8#5 }] ∧
    lists [0x00802406#32, 0x12002000#32, 0x00009402#32, 0x10000340#32, 0#32, 0x18000000#32] [.mxStep
      { c := eo 3#6 4#6, zero := true, surv := true, fmt := 0#7, xa := 1#2, bin := noOp, cur := 1#2, es := 10#6, m1 := 0#7, x := lA 9#6
        wo := 0#20, wa := 8#5 }] ∧
    lists [0x0000E406#32, 0x14002000#32, 0x00001602#32, 0x18000540#32, 0#32, 8#32] [.mxDrain
      { c := eo 5#6 6#6, zero := false, surv := false, fmt := 8#7, xa := 1#2, bin := noOp, cur := 0#2, es := 11#6, m1 := 0#7, x := lA 10#6
        wo := 0#20, wa := 0#5 }] = false := by decide

theorem test_listed_wz_pan :
    lists [0x8A406A06#32, 0x00030001#32, 0#32, 0x0C000200#32, 0#32, 0#32] [.wzCopyk
      { c := eo 2#6 3#6, wr := 0#4, df := 0#7, dc := 0#4, pm := 0#2, ce := false, ci := true, ck := 2#2, pa := 0#5, xs := 0#6, ls := 6#6
        da := 5#5, sa := 4#5 }] ∧
    lists [0x02602606#32, 0x400260E0#32, 0#32, 0x08000000#32, 0#32, 0#32] [.panDraw
      { c := eo 0#6 2#6, xs := 0#6, aa := 0#5, ns := 8#6, row1 := 0#7, ts := 9#6, lg := lA 7#6, da := 6#5 }] ∧
    lists [0xD0526A06#32, 0x00000092#32, 0#32, 0x08000100#32, 0#32, 0x800#32] [.wzRcopy
      { c := { eo 1#6 2#6 with aft := 1#16 }, wr := 0#4, df := 0#7, dc := 0#4, pm := 0#2, ce := false, ci := false, ck := 0#2, pa := 0#5
        xs := 9#6, ls := 11#6, da := 8#5, sa := 5#5 }] := by decide

/-! ## Values that the spec works out -/

/-- What a word puts in flight: after how many cycles, and what. -/
def flies (o : Host.Outcome State Fault Refusal) : Option (List (Nat × List Put)) :=
  match o with | .next t => some (t.me.pipe.flights.map (fun f => (f.left, f.puts))) | _ => none
/-- An operation of `ia0` with a value in `o` and a trigger operand in `s1`. -/
def ia (i : Bool → Trig → Instr) (o t : U64) : Option (List (Nat × List Put)) :=
  flies (exec (i false (rg 0#5 1#6)) (ct { regs := [(1, t)], opnd := [(keyOf 8 0, o)] }))
def gives (lat : Nat) (v : U64) : Option (List (Nat × List Put)) := some [(lat, [.port (keyOf 8 0) v])]

/-- Every pair of a list agrees. -/
def agree {α : Type} [BEq α] (l : List (α × α)) : Bool := l.all (fun p => p.1 == p.2)

/-- The table of R138. -/
theorem test_shifts : agree
    [(ia .iaShl 0x80000001#64 1#64, gives 1 2#64), (ia .iaShr 0x80000001#64 1#64, gives 1 0x40000000#64),
      (ia .iaSar 0x80000001#64 1#64, gives 1 0xC0000000#64), (ia .iaRotl 0x80000001#64 1#64, gives 1 3#64),
      (ia .iaShl 0x80000001#64 31#64, gives 1 0x80000000#64), (ia .iaShr 0x80000001#64 31#64, gives 1 1#64),
      (ia .iaSar 0x80000001#64 31#64, gives 1 0xFFFFFFFF#64), (ia .iaRotl 0x80000001#64 31#64, gives 1 0xC0000000#64),
      (ia .iaShl 0x80000001#64 32#64, gives 1 0#64), (ia .iaShr 0x80000001#64 32#64, gives 1 0#64),
      (ia .iaSar 0x80000001#64 32#64, gives 1 0xFFFFFFFF#64), (ia .iaRotl 0x80000001#64 32#64, gives 1 0x80000001#64),
      (ia .iaSar 0x70000000#64 0xFFFFFFFF#64, gives 1 0#64), (ia .iaRotl 0x70000000#64 0xFFFFFFFF#64, gives 1 0x38000000#64)] = true := by decide

/-- The examples of R139 and the table of R140. -/
theorem test_fields_and_division : agree
    [(ia .iaExtu 0xF0F0#64 0x604#64, gives 1 0xF#64), (ia .iaExt 0xF0F0#64 0x604#64, gives 1 0xF#64), (ia .iaExt 0xF0F0#64 0x81C#64, gives 1 0#64),
      (ia .iaDiv 5#64 0#64, gives 18 0xFFFFFFFF#64), (ia .iaRem 5#64 0#64, gives 18 5#64),
      (ia .iaDiv 0x80000000#64 0xFFFFFFFF#64, gives 18 0x80000000#64), (ia .iaRem 0x80000000#64 0xFFFFFFFF#64, gives 18 0#64),
      (ia .iaDiv 0xFFFFFFF9#64 2#64, gives 18 0xFFFFFFFD#64), (ia .iaRem 0xFFFFFFF9#64 2#64, gives 18 0xFFFFFFFF#64)] = true := by decide

/-- The worked example of R142: slot 2, head 1, positions 5 and 8. -/
theorem test_kv :
    let c (o : U64) : Core :=
      { regs := [(1, 0x102#64)], units := { kv := [(2, (8#32, 0#32))] }
        opnd := [(keyOf 10 0, o), (keyOf 10 2, 0x4000000000#64), (keyOf 10 3, 0x10000#64), (keyOf 10 4, 0x40#64), (keyOf 10 5, 0x10#64)] }
    flies (exec (.agKv false (rg 0#5 1#6)) (ct (c 5#64))) = some [(2, [.port (keyOf 10 0) 0x4000020150#64])] ∧
    flies (exec (.agKv false (rg 0#5 1#6)) (ct (c 8#64))) = some [(2, [.port (keyOf 10 0) 0xFFFFFFFFFFFFFFFF#64])] := by decide

/-- The table of R271, with the flag of R58 where λ is inexact. -/
theorem test_merge : agree
    [(mergePair pA (mkPair 0x40400000 9#32) false 0xC0000000#32, (mkPair 0x40549A78 9#32, fNX)),
      (mergePair pA (mkPair 0x40400000 9#32) false 0xD0000000#32, (mkPair 0x40549A78 5#32, fNX)),
      (mergePair (mkPair 0x40000000 5#32) pB false 0x7FFFFFFF#32, (mkPair 0x40400000 9#32, 0#32)),
      (mergePair (mkPair 0x40000000 5#32) pB false 0x80000000#32, (mkPair 0x40400000 5#32, 0#32)),
      (mergePair pA (mkPair 0xFF800000 9#32) false 0#32, (pA, 0#32)), (mergePair emptyPair emptyPair true 0#32, (emptyPair, fEMP)),
      (mergePair (mkPair 0x40F00000 5#32) (mkPair 0x40F00000 2#32) true 0#32, (mkPair 0x40F00000 2#32, 0#32)),
      (mergePair (mkPair 0x7FC00000 5#32) (mkPair 0x40400000 9#32) true 0#32, (emptyPair, fINV)),
      (mergePair (mkPair 0x7F800000 5#32) (mkPair 0x40400000 9#32) true 0#32, (mkPair 0x7F800000 5#32, 0#32))] = true := by decide +kernel

/-- The example of R177: four arrivals at a barrier of target 4. -/
theorem test_barrier :
    (bankNew 11 0x0000000700000000#64 0#64 4#64 0#32).1 = 0x0000000700000001#64 ∧ (bankNew 11 0x0000000700000002#64 0#64 4#64 0#32).2.1 = 0#8 ∧
    (bankNew 11 0x0000000700000003#64 0#64 4#64 0#32).1 = 0x0000000800000000#64 ∧ (bankNew 11 0x0000000700000003#64 0#64 4#64 0#32).2.1 = 0x10#8 := by
  decide

/-- The example of R352 and R163: Gallery offset 0x0C123456. -/
theorem test_gallery_bank : galBank (0x0C123456 / 64) = 2048 + 209 := by decide

/-- The descriptors of R50, the stochastic example of R60, and the AUTO example of R62. -/
theorem test_descriptors :
    mkDesc 4 255 = 0x08FF#16 ∧ mkDesc 0x20 255 = 0x40FF#16 ∧ mkDesc 0x22 255 = 0x44FF#16 ∧ mkDesc 4 258 = 0x0902#16 ∧
    (rndFmt (.flt (b8 4)) { mode := 4, rn := 0xE000 } false (.fin false 41 (-5))).1 = 0x43 ∧
    (rndFmt (.flt (b8 4)) { mode := 4, rn := 0 } false (.fin false 41 (-5))).1 = 0x42 ∧
    blockScale (.flt (b8 4)) false [.fin false 1000 0] = 258 ∧ rndFmt (.flt (b8 4)) rne false (.fin false 125 0) = (0x78, fNX) := by decide +kernel

/-- The edge values of `b8p4sx` under RNE and the other modes (spec/02, after R58). -/
theorem test_edges :
    let r (m : Nat) (x : Val) : Nat × U32 := rndFmt (.flt (b8 4)) { mode := m } false x;
    agree
      [(r 0 (.fin false 17 (-4)), (0x40, fNX)), (r 0 (.fin true 19 (-4)), (0xC2, fNX)), (r 0 (.fin false 232 0), (0x7E, fNX)),
        (r 0 (.fin true 233 0), (0xFF, fOF ||| fNX)), (r 0 (.fin false 300 0), (0x7F, fOF ||| fNX)),
        (r 0 (.fin false 1 (-11)), (0, fUF ||| fNX)), (r 0 (.fin false 3 (-12)), (1, fUF ||| fNX))] = true ∧
    agree [((r 1 (.fin true 19 (-4))).1, 0xC1), ((r 2 (.fin false 17 (-4))).1, 0x41), ((r 2 (.fin false 232 0)).1, 0x7F),
      ((r 1 (.fin false 300 0)).1, 0x7E), ((r 3 (.fin true 1 (-11))).1, 0x81), ((r 3 (.fin false 3 (-12))).1, 0)] = true := by decide +kernel

/-! ## Ill-formed terms, one for each check -/

/-- Every instruction of a list is refused by itself, with the code beside it. -/
def refusedWith (l : List (Instr × Illegal)) : Bool := l.all (fun p => !p.1.wf && (wordCodes p.1).contains p.2)
/-- A vector word of `vx0` that adds `v0` and `v1` into `v2` (R85, R86). -/
def vOp (n : BitVec 6) : Opnd := { space := 1#3, index := n, rs := 0#6, str := 1#6 }
def okV : VWord :=
  { g := 0#4, n := false, e := true, u := false, opm := 0#4, rnd := 0#4, cls := 0#4, a := vOp 0#6, b := vOp 1#6, d := vOp 2#6 }
def okM : MxWord :=
  { c := e4, zero := false, surv := false, fmt := 0#7, xa := 0#2, bin := noOp, cur := 0#2, es := 0#6, m1 := 0#7, x := noOp, wo := 0#20, wa := 0#5 }
def okW : WzWord :=
  { c := e4, wr := 0#4, df := 0#7, dc := 0#4, pm := 0#2, ce := false, ci := false, ck := 0#2, pa := 0#5, xs := 0#6, ls := 6#6, da := 5#5, sa := 4#5 }
def okP : PanWord := { c := eo 0#6 2#6, xs := 0#6, aa := 0#5, ns := 8#6, row1 := 0#7, ts := 9#6, lg := lA 7#6, da := 6#5 }

/-- Short moves: units, selectors, file triggers, token registers, literals (R79, R80, R83, R93, R114). -/
theorem test_ill_formed_short :
    refusedWith [(.move 5#5 0#6 (im 1#11), .unit), (.move 0x1F#5 0#6 (im 1#11), .unit), (.iaAdd false (rg 0x19#5 0#6), .unit),
      (.move 1#5 32#6 (im 1#11), .selector), (.move 3#5 28#6 (im 1#11), .selector), (.iaAdd false (rg 0x08#5 1#6), .selector),
      (.move 0x08#5 2#6 (im 1#11), .selector), (.move 0x10#5 0#6 (im 1#11), .selector), (.move 4#5 3#6 (im 1#11), .fileTrigger),
      (.iaAdd true { im 1#11 with src := .imm2 0#28 0x2000000#28 0#11 }, .reserved)] = true ∧
    Instr.wf (.move 0x18#5 3#6 (im 1#11)) = false ∧ wordCodes (.move 0x18#5 3#6 (im 1#11)) = [] ∧ Instr.wf (.sflagWrite (im 1#11)) = true ∧
    Instr.wf .accessPerform = false ∧ Instr.wf (.iaAdd false (im 1#11)) = true := by decide

/-- Vector words: class, mode, rounding, spaces, specifiers, bound vectors (R85, R86, R125, R208, R225). -/
theorem test_ill_formed_vector :
    refusedWith [(.vxAdd { okV with cls := 1#4 }, .reserved), (.vxAdd { okV with opm := 4#4 }, .reserved),
      (.vxExp2 { okV with opm := 2#4, b := noOp }, .reserved), (.vxAdd { okV with rnd := 5#4 }, .rounding), (.vxAnd { okV with rnd := 1#4 }, .reserved),
      (.vxAbs okV, .space), (.vxAdd { okV with d := noOp }, .space), (.vxAdd { okV with a := vOp 32#6 }, .space),
      (.vxAdd { okV with a := { vOp 0#6 with space := 3#3, index := 8#6 } }, .space),
      (.vxBndAdd { okV with b := { vOp 1#6 with rs := 1#6 } }, .space)] = true ∧
    Instr.wf (.vxAdd okV) = true ∧ Instr.wf (.vxAdd { okV with cls := 1#4, a := { okV.a with space := 4#3 } }) = true := by decide

/-- Engine words: tokens, fields no command reads, formats, spaces, check kinds, rounding (R35, R131, R191, R234, R235,
R274). -/
theorem test_ill_formed_engine :
    refusedWith [(.mxZero { okM with c := { e4 with kin2 := 4#6 } }, .tokenSelf), (.wzCopy { okW with c := { e4 with kin0 := 4#6 } }, .tokenSelf),
      (.panDraw { okP with c := eo 2#6 2#6 }, .tokenSelf), (.mxZero { okM with zero := true }, .reserved), (.mxZero { okM with m1 := 1#7 }, .reserved),
      (.mxZero { okM with es := 1#6 }, .reserved), (.mxZero { okM with wa := 1#5 }, .reserved), (.mxMark { okM with xa := 1#2 }, .reserved),
      (.mxDrain { okM with x := lA 1#6, cur := 1#2 }, .reserved), (.mxStep { okM with x := lA 1#6, fmt := 0x22#7 }, .reserved),
      (.mxDrain { okM with x := lA 1#6, fmt := 8#7 }, .reserved), (.mxDrain { okM with x := { lA 1#6 with space := 7#3, index := 0#6, str := 0#6 } }, .space),
      (.mxAset { okM with x := { lA 1#6 with str := 2#6 } }, .space), (.mxRes { okM with x := lA 1#6, bin := lA 2#6 }, .space),
      (.wzCopy { okW with ck := 3#2 }, .reserved), (.wzCopy { okW with pm := 3#2 }, .reserved), (.wzCopy { okW with wr := 4#4 }, .reserved),
      (.wzCopy { okW with wr := 6#4 }, .rounding), (.wzCopyk okW, .reserved), (.wzFill okW, .reserved), (.wzMark okW, .reserved),
      (.wzExpd { okW with df := 1#7 }, .reserved), (.panFull { okP with aa := 1#5 }, .reserved), (.panDraw { okP with xs := 1#6 }, .reserved),
      (.panPen okP, .reserved), (.panDraw { okP with lg := { lA 7#6 with space := 2#3, str := 0#6 } }, .space)] = true ∧
    (Instr.wf (.mxZero okM) && Instr.wf (.wzCopy okW) && Instr.wf (.panDraw okP)) = true := by decide

/-- The codes of bundles: two writes of one register, two triggers of one unit, five short moves, a stray literal, no end of
bundle, an order that is not canonical, an engine word, a literal with its end bit (R74, R92-R94). -/
theorem test_illegal_bundles :
    ((decodeBundle 0#20 (encode (.move 0#5 1#6 (mid (.imm 1#11))) ++ encode (.move 0#5 1#6 (im 2#11)))).codes = [.twice]) ∧
    ((decodeBundle 0#20 (encode (.iaAdd false (mid (.imm 1#11))) ++ encode (.iaSub false (im 2#11)))).codes = [.triggers]) ∧
    ((decodeBundle 0#20 [0#32, 0#32, 0#32, 0#32, 4#32]).codes = [.count]) ∧
    ((decodeBundle 0#20 [3#32, 4#32]).codes = [.literal]) ∧ ((decodeBundle 0#20 [0#32, 0#32]).codes = [.noEnd]) ∧
    ((decodeBundle 0#20 (encode (.vxAdd { okV with e := false }) ++ encode (.move 0#5 1#6 (im 2#11)))).codes = [.order]) ∧
    hasEngine [.mxZero okM] = true ∧ ((decodeBundle 0#20 [0x1B#32, 0x104#32]).codes = [.badLiteral]) := by decide +kernel

end Sys2Proof.Tests
end

section
/-!
PROOFS. Starts, power, temperature, firmware and attestation (spec/20 R414-R422): what the shared operations of a start do,
and from that what each row answers.
-/
namespace Sys2Proof.Machine

open Sys2Proof

/-! ## The step at which a start fails (R414) -/

theorem fitClusters_eq (r : StartRun) :
    fitClusters r = ((List.range 64).filter (fun k => defectCount (r.defects.getD k 0#8) ≤ 1)).length := by
  simp only [fitClusters, StartMasks, List.filter_map, List.length_map]; rfl

/-- Both dies accept an image when its key and signature are good and it is no older than either counter (R419). -/
theorem board_accepts_iff (b : Board) (i : FwImage) :
    b.accepts i = true ↔ ∀ f : Fuse, f = b.fuseA ∨ f = b.fuseB →
      i.key = f.key ∧ i.good = true ∧ f.rollback.toNat ≤ i.version.toNat := by
  simp [Board.accepts, Fuse.accepts, and_assoc]

theorem board_accepts_iff_fuses (b : Board) (i : FwImage) : b.accepts i = true ↔ i.good = true ∧ i.key = b.fuseA.key ∧
    i.key = b.fuseB.key ∧ b.fuseA.rollback.toNat ≤ i.version.toNat ∧ b.fuseB.rollback.toNat ≤ i.version.toNat := by
  rw [board_accepts_iff]
  simp only [forall_eq_or_imp, forall_eq]
  exact ⟨fun ⟨⟨ka, good, va⟩, kb, _, vb⟩ => ⟨good, ka, kb, va, vb⟩, fun ⟨good, ka, kb, va, vb⟩ => ⟨⟨ka, good, va⟩, kb, good, vb⟩⟩

theorem startFails_none_iff (s : State) (r : StartRun) (warm : Bool) :
    s.startFails r warm false 1 = none ↔ r.fwGood = true ∧ s.board.accepts s.board.nextFw = true ∧
      r.pcieTrains = true ∧ r.dieLinkTrains = true ∧ (warm = true → s.links.retrains < 3) ∧ r.memTrains = true ∧
      32 ≤ fitClusters r ∧ s.board.jpqGood (jpqOf r) = true := by
  simp [State.startFails, and_assoc]

theorem startFails_le {s : State} {r : StartRun} {warm safe : Bool} {k f : Nat} (h : s.startFails r warm safe k = some f) : f ≤ 6 := by
  obtain ⟨p, hp, rfl⟩ := Option.map_eq_some_iff.1 h
  have := List.mem_of_find?_eq_some hp
  simp only [List.mem_cons, List.not_mem_nil, or_false] at this
  rcases this with rfl | rfl | rfl | rfl | rfl <;> simp

/-- What a reset clears has no part in where a start fails: the count of failed retrains falls in a cold start only, where
it is not looked at (R421). -/
theorem startFails_cleared (s : State) (r : StartRun) (warm safe : Bool) (k : Nat) :
    (s.cleared warm).startFails r warm safe k = s.startFails r warm safe k := by
  cases warm <;> rfl

/-! ## The steps of a start (R414) -/

/-- Step 2: the dies run the image that they have accepted. -/
def State.takeFw (s : State) : State := { s with board := { s.board with fw := s.board.nextFw, staged := none } }

/-- Step 6: the measured energy factor is kept. -/
def State.takeJpq (s : State) (r : StartRun) : State := { s with board := { s.board with jpq := jpqOf r } }

/-- A property that each step keeps, where it runs, is one that the steps of a start keep. -/
theorem stepsDone_keeps {P : State → Prop} {s : State} {r : StartRun} {warm : Bool} {k n : Nat} (h : P s)
    (fw : ∀ u, P u → P u.takeFw) (ports : ∀ u, P u → P (u.portsUp r)) (bist : ∀ u, P u → P (u.bist r))
    (jpq : ∀ u, P u → P (u.takeJpq r)) (mem : 7 ≤ n → ∀ u, P u → P (u.initMemory r warm)) : P (s.stepsDone r warm k n) := by
  unfold State.stepsDone
  extract_lets at1 b2 s2 s3 s5 b6 s6
  have h2 : P s2 := iteInduction (fun _ => fw s h) (fun _ => h)
  have h3 : P s3 := iteInduction (fun _ => ports s2 h2) (fun _ => h2)
  have h5 : P s5 := iteInduction (fun _ => bist s3 h3) (fun _ => h3)
  have h6 : P s6 := iteInduction (fun _ => jpq s5 h5) (fun _ => h5)
  refine iteInduction (fun hn => mem ?_ s6 h6) (fun _ => h6)
  simp only [at1, Bool.and_eq_true, decide_eq_true_eq] at hn
  exact hn.2

/-- Steps 2 to 7, one after another. -/
def State.allSteps (s : State) (r : StartRun) (warm : Bool) : State :=
  (((s.takeFw.portsUp r).bist r).takeJpq r).initMemory r warm

/-- The steps of a start left alone are all of them. -/
theorem stepsDone_all (s : State) (r : StartRun) (warm : Bool) : s.stepsDone r warm 1 7 = s.allSteps r warm := rfl

/-- BIST writes the states of the slots and their spares, and nothing else. -/
theorem bist_eq (s : State) (r : StartRun) :
    ∃ x y, s.bist r = { s with boss := { s.boss with slots := x, spare := y } } := by
  refine List.foldlRecOn (motive := fun t : State => ∃ x y, t = { s with boss := { s.boss with slots := x, spare := y } }) _ _
    ⟨s.boss.slots, s.boss.spare, rfl⟩ ?_
  rintro _ ⟨x, y, rfl⟩ p -
  dsimp only
  split
  · exact ⟨_, _, rfl⟩
  · split <;> exact ⟨_, _, rfl⟩

@[simp] theorem bist_gal (s : State) (r : StartRun) : (s.bist r).gal = s.gal := by obtain ⟨x, y, h⟩ := bist_eq s r; rw [h]
@[simp] theorem bist_dram (s : State) (r : StartRun) : (s.bist r).dram = s.dram := by obtain ⟨x, y, h⟩ := bist_eq s r; rw [h]
@[simp] theorem bist_links (s : State) (r : StartRun) : (s.bist r).links = s.links := by obtain ⟨x, y, h⟩ := bist_eq s r; rw [h]
@[simp] theorem bist_board (s : State) (r : StartRun) : (s.bist r).board = s.board := by obtain ⟨x, y, h⟩ := bist_eq s r; rw [h]

theorem initMemory_links (s : State) (r : StartRun) (warm : Bool) : (s.initMemory r warm).links = s.links := by
  unfold State.initMemory; dsimp only; split <;> rfl

theorem initMemory_board (s : State) (r : StartRun) (warm : Bool) :
    (s.initMemory r warm).board = { s.board with memReady := true } := by
  unfold State.initMemory; dsimp only; split <;> rfl

theorem allSteps_board (s : State) (r : StartRun) (warm : Bool) : (s.allSteps r warm).board =
    { s.board with fw := s.board.nextFw, staged := none, jpq := jpqOf r, memReady := true } := by
  show (State.initMemory { State.bist _ r with board := { (State.bist _ r).board with jpq := _ } } r warm).board = _
  rw [initMemory_board, bist_board]; rfl

theorem allSteps_links (s : State) (r : StartRun) (warm : Bool) : (s.allSteps r warm).links =
    { s.links with up := r.portsUp, eth := r.eth, acked := (List.range 24).map (fun p => (p, s.dcc.toNat)) } :=
  (initMemory_links _ r warm).trans (bist_links _ r)

/-- Memory after step 7: a warm start with a sound grade map keeps it (R414). -/
theorem allSteps_gal_dram (s : State) (r : StartRun) (warm : Bool) :
    if warm && r.gradesGood then (s.allSteps r warm).gal = s.gal ∧ (s.allSteps r warm).dram = s.dram
    else (s.allSteps r warm).gal = {} ∧ (s.allSteps r warm).dram = {} := by
  unfold State.allSteps State.initMemory; dsimp only; split
  · exact ⟨bist_gal _ r, bist_dram _ r⟩
  · exact ⟨rfl, rfl⟩

/-- What the last step makes of the board (R415, R416, R419). -/
theorem becomeReady_board (s : State) : s.becomeReady.board = { s.board with
    phase := .ready, fails := 0, raiseTo := none, readyAt := some s.dcc
    fuseA := s.board.fuseA.raise s.board.raiseTo, fuseB := s.board.fuseB.raise s.board.raiseTo } := rfl

/-- The state with everything taken out that the steps of a start may write. -/
def State.besideSteps (s : State) : State :=
  { s with
    gal := {}, dram := {}, errs := [], links := {}
    host := { s.host with status := 0#64 }
    boss := { s.boss with slots := [], spare := [] }
    board := { s.board with fw := ({} : Board).fw, staged := none, jpq := 0#32, memReady := false } }

/-- The frame of the steps of a start. -/
theorem stepsDone_besideSteps (s : State) (r : StartRun) (warm : Bool) (k n : Nat) :
    (s.stepsDone r warm k n).besideSteps = s.besideSteps := by
  refine stepsDone_keeps (P := fun u => u.besideSteps = s.besideSteps) rfl (fun _ h => h) (fun _ h => h) (fun u h => ?_)
    (fun _ h => h) (fun _ u h => ?_)
  · obtain ⟨x, y, e⟩ := bist_eq u r
    rw [e]; exact h
  · rw [← h]; unfold State.initMemory; dsimp only; split <;> rfl

/-- Before step 7 memory stands as it was. -/
theorem stepsDone_gal_dram (s : State) (r : StartRun) (warm : Bool) {k n : Nat} (hn : n < 7) :
    (s.stepsDone r warm k n).gal = s.gal ∧ (s.stepsDone r warm k n).dram = s.dram :=
  stepsDone_keeps (P := fun u => u.gal = s.gal ∧ u.dram = s.dram) ⟨rfl, rfl⟩ (fun _ h => h) (fun _ h => h)
    (fun u h => by simpa using h) (fun _ h => h) (fun h => absurd h (by omega))

/-- What the steps of a start do not write reads as before. -/
theorem stepsDone_same {α : Type} (f : State → α) (hf : ∀ u : State, f u.besideSteps = f u) (s : State) (r : StartRun) (warm : Bool)
    (k n : Nat) : f (s.stepsDone r warm k n) = f s := by
  rw [← hf, stepsDone_besideSteps, hf]

@[simp] theorem stepsDone_dcc (s : State) (r : StartRun) (warm : Bool) (k n : Nat) : (s.stepsDone r warm k n).dcc = s.dcc :=
  stepsDone_same State.dcc (fun _ => rfl) s r warm k n

@[simp] theorem stepsDone_fails (s : State) (r : StartRun) (warm : Bool) (k n : Nat) :
    (s.stepsDone r warm k n).board.fails = s.board.fails :=
  stepsDone_same (fun u => u.board.fails) (fun _ => rfl) s r warm k n

@[simp] theorem stepsDone_failStep (s : State) (r : StartRun) (warm : Bool) (k n : Nat) :
    (s.stepsDone r warm k n).board.failStep = s.board.failStep :=
  stepsDone_same (fun u => u.board.failStep) (fun _ => rfl) s r warm k n

@[simp] theorem stepsDone_failCode (s : State) (r : StartRun) (warm : Bool) (k n : Nat) :
    (s.stepsDone r warm k n).board.failCode = s.board.failCode :=
  stepsDone_same (fun u => u.board.failCode) (fun _ => rfl) s r warm k n

/-! ## How a start ends (R414-R416) -/

/-- The DCC as the last of the steps leaves it (R22, R414). -/
def State.clocked (s : State) (r : StartRun) : State := { s with dcc := if s.dcc.toNat < r.dcc.toNat then r.dcc else s.dcc }

theorem clocked_eq (s : State) (r : StartRun) :
    ({ s with dcc := if s.dcc.toNat < r.dcc.toNat then r.dcc else s.dcc } : State) = s.clocked r := rfl

/-- Where a start fails does not hang on the DCC. -/
theorem startFails_clocked (s : State) (r : StartRun) (warm safe : Bool) (k : Nat) :
    (s.clocked r).startFails r warm safe k = s.startFails r warm safe k := rfl

theorem clocked_dcc_toNat (s : State) (r : StartRun) : (s.clocked r).dcc.toNat = max s.dcc.toNat r.dcc.toNat := by
  unfold State.clocked; dsimp only; split <;> omega

/-- A start that stops at the step that fails. -/
theorem startSteps_of_fails {s : State} {r : StartRun} {warm : Bool} {k f : Nat} (h : s.startFails r warm false k = some f)
    (hf : f ≤ r.upTo) : s.startSteps r warm false k = ((s.clocked r).stepsDone r warm k (min 7 (f - 1))).startFailed f := by
  simp [State.startSteps, clocked_eq, startFails_clocked, h, hf]

/-- A start that the outside world stops after a step. -/
theorem startSteps_of_lt {s : State} {r : StartRun} {warm : Bool} {k : Nat} (h : s.startFails r warm false k = none)
    (hn : r.upTo < 8) :
    s.startSteps r warm false k = ((s.clocked r).stepsDone r warm k (min 7 r.upTo)).stopsAt (.partway r.upTo) := by
  simp [State.startSteps, clocked_eq, startFails_clocked, h, hn]

/-- A start in which every step does what it should. -/
theorem startSteps_of_none {s : State} {r : StartRun} {warm : Bool} {k : Nat} (h : s.startFails r warm false k = none)
    (hn : 8 ≤ r.upTo) : s.startSteps r warm false k = ((s.clocked r).stepsDone r warm k 7).becomeReady := by
  simp [State.startSteps, clocked_eq, startFails_clocked, h, Nat.not_lt.2 hn]

/-- A start into safe mode, whose steps end with step 3. -/
theorem startSteps_safe {s : State} {r : StartRun} {warm : Bool} {k : Nat} (h : s.startFails r warm true k = none)
    (hn : 3 ≤ r.upTo) : s.startSteps r warm true k = ((s.clocked r).stepsDone r warm k 2).enterSafe := by
  simp [State.startSteps, clocked_eq, startFails_clocked, h, Nat.not_lt.2 hn]

/-- What neither a step of a start writes nor the way in which it ends. -/
def State.besideStart (s : State) :
    Store Cluster × List Access × List Launch × Store LQueue × U64 × List (Bool × U64 × List (Nat × Nat)) × U64 :=
  (s.clusters, s.acc, s.boss.launches, s.host.queues, s.host.inject, s.board.trips, s.dcc)

/-- The frame of a start, however it ends. -/
theorem startSteps_besideStart (s : State) (r : StartRun) (warm safe : Bool) (k : Nat) :
    (s.startSteps r warm safe k).besideStart = (s.clocked r).besideStart := by
  have done (n : Nat) : ((s.clocked r).stepsDone r warm k n).besideStart = (s.clocked r).besideStart :=
    stepsDone_same State.besideStart (fun _ => rfl) _ _ _ _ _
  unfold State.startSteps
  dsimp only
  rw [clocked_eq]
  cases safe <;> (repeat' split) <;> exact done _

/-! ## Starts from a reset (R414-R416) -/

/-- Without a lock of the PLL, or interrupted before step 1 has ended, a start waits. -/
theorem start_of_waits {s : State} {r : StartRun} {warm : Bool} (h : r.pllLocks = false ∨ r.upTo = 0) :
    s.start r warm = (s.cleared warm).stopsAt .waitPll := by
  unfold State.start; dsimp only
  exact if_pos (by simpa using h)

/-- With a lock of the PLL the steps from step 2 on run; after three failures they are those of safe mode. -/
theorem start_of_locks {s : State} {r : StartRun} {warm : Bool} (h : r.pllLocks = true) (h0 : r.upTo ≠ 0) :
    s.start r warm = (s.cleared warm).startSteps r warm s.board.toSafe 1 := by
  unfold State.start; dsimp only
  exact if_neg (by simp [h, h0])

theorem toSafe_of_lt {b : Board} (h : b.fails < 3) : b.toSafe = false := by simp [Board.toSafe, h]

theorem toSafe_of_le {b : Board} (h : 3 ≤ b.fails) : b.toSafe = true := by simp [Board.toSafe, h]

/-- A reset puts the DCC at 0, so the DCC of a start is the one that its steps report. -/
theorem cleared_clocked_dcc (s : State) (r : StartRun) (warm : Bool) : ((s.cleared warm).clocked r).dcc = r.dcc := by
  have h0 : (s.cleared warm).dcc.toNat = 0 := rfl
  refine BitVec.eq_of_toNat_eq ?_
  rw [clocked_dcc_toNat, h0, Nat.zero_max]

/-- What every start leaves clear, and the trip records that it keeps. -/
theorem start_clears (s : State) (r : StartRun) (warm : Bool) :
    (s.start r warm).clusters = [] ∧ (s.start r warm).acc = [] ∧ (s.start r warm).boss.launches = [] ∧
      (s.start r warm).host.queues = [] ∧ (s.start r warm).host.inject = 0#64 ∧ (s.start r warm).board.trips = s.board.trips := by
  have h : ∃ d, (s.start r warm).besideStart = ([], [], [], [], 0#64, s.board.trips, d) := by
    unfold State.start; dsimp only
    split
    · exact ⟨_, rfl⟩
    · exact ⟨_, startSteps_besideStart _ _ _ _ _⟩
  obtain ⟨d, h⟩ := h
  simp only [State.besideStart, Prod.mk.injEq] at h
  obtain ⟨hclusters, hacc, hlaunches, hqueues, hinject, htrips, -⟩ := h
  exact ⟨hclusters, hacc, hlaunches, hqueues, hinject, htrips⟩

theorem start_dcc {s : State} {r : StartRun} {warm : Bool} (h : r.pllLocks = true) (h0 : r.upTo ≠ 0) :
    (s.start r warm).dcc = r.dcc := by
  have hf := startSteps_besideStart (s.cleared warm) r warm s.board.toSafe 1
  rw [start_of_locks h h0, ← cleared_clocked_dcc s r warm]
  exact congrArg (fun x => x.2.2.2.2.2.2) hf

/-- A start that fails counts the failure and keeps memory, which step 7 alone writes. -/
theorem start_failed {s : State} {r : StartRun} {warm : Bool} {f : Nat} (h : r.pllLocks = true) (h0 : r.upTo ≠ 0)
    (h3 : s.board.fails < 3) (hf : s.startFails r warm false 1 = some f) (hn : f ≤ r.upTo) :
    (s.start r warm).board.phase = .failed f ∧ (s.start r warm).board.fails = s.board.fails + 1 ∧
      (s.start r warm).board.failStep = f ∧ (s.start r warm).gal = s.gal ∧ (s.start r warm).dram = s.dram := by
  rw [← startFails_cleared] at hf
  have h7 : min 7 (f - 1) < 7 := by have := startFails_le hf; omega
  rw [start_of_locks h h0, toSafe_of_lt h3, startSteps_of_fails hf hn]
  exact ⟨rfl, congrArg (· + 1) (stepsDone_fails ..), rfl, stepsDone_gal_dram _ _ _ h7⟩

theorem start_partway {s : State} {r : StartRun} {warm : Bool} (h : r.pllLocks = true) (h0 : r.upTo ≠ 0)
    (h3 : s.board.fails < 3) (hf : s.startFails r warm false 1 = none) (hn : r.upTo < 8) :
    (s.start r warm).board.phase = .partway r.upTo := by
  rw [← startFails_cleared] at hf
  rw [start_of_locks h h0, toSafe_of_lt h3, startSteps_of_lt hf hn]
  rfl

/-- A start in which every step does what it should: ready, after steps 2 to 7. -/
theorem start_ready {s : State} {r : StartRun} {warm : Bool} (h : r.pllLocks = true) (h3 : s.board.fails < 3)
    (hf : s.startFails r warm false 1 = none) (hn : 8 ≤ r.upTo) :
    s.start r warm = (((s.cleared warm).clocked r).allSteps r warm).becomeReady := by
  rw [← startFails_cleared] at hf
  rw [start_of_locks h (by omega), toSafe_of_lt h3, startSteps_of_none hf hn, stepsDone_all]

/-- A counter ends at the larger of its value and the version that it is raised to (R419). -/
theorem fuse_raise_rollback (f : Fuse) (v : U32) : (f.raise (some v)).rollback.toNat = max f.rollback.toNat v.toNat := by
  unfold Fuse.raise; dsimp only; split
  · exact (Nat.max_eq_right (Nat.le_of_lt ‹_›)).symm
  · exact (Nat.max_eq_left (Nat.le_of_not_lt ‹_›)).symm

/-- The board when a start reaches ready (R414-R416, R419). -/
theorem start_ready_board {s : State} {r : StartRun} {warm : Bool} (h : r.pllLocks = true) (h3 : s.board.fails < 3)
    (hf : s.startFails r warm false 1 = none) (hn : 8 ≤ r.upTo) :
    (s.start r warm).board = { s.board with
      phase := .ready, fails := 0, hot := false, jpq := jpqOf r, memReady := true, fw := s.board.nextFw, staged := none
      raiseTo := none, readyAt := some r.dcc
      fuseA := s.board.fuseA.raise s.board.raiseTo, fuseB := s.board.fuseB.raise s.board.raiseTo } := by
  have hd := start_dcc (s := s) (warm := warm) h (by omega)
  rw [start_ready h h3 hf hn] at hd ⊢
  rw [becomeReady_board, allSteps_board, ← hd]; rfl

/-- Memory when a start reaches ready (R414). -/
theorem start_ready_memory {s : State} {r : StartRun} {warm : Bool} (h : r.pllLocks = true) (h3 : s.board.fails < 3)
    (hf : s.startFails r warm false 1 = none) (hn : 8 ≤ r.upTo) :
    if warm && r.gradesGood then (s.start r warm).gal = s.gal ∧ (s.start r warm).dram = s.dram
    else (s.start r warm).gal = {} ∧ (s.start r warm).dram = {} := by
  rw [start_ready h h3 hf hn]
  exact allSteps_gal_dram ((s.cleared warm).clocked r) r warm

/-- The ports when a start reaches ready (R414). -/
theorem start_ready_links {s : State} {r : StartRun} {warm : Bool} (h : r.pllLocks = true) (h3 : s.board.fails < 3)
    (hf : s.startFails r warm false 1 = none) (hn : 8 ≤ r.upTo) :
    (s.start r warm).links.up = r.portsUp ∧ (s.start r warm).links.eth = r.eth := by
  have hl := allSteps_links ((s.cleared warm).clocked r) r warm
  rw [start_ready h h3 hf hn]
  exact ⟨congrArg Links.up hl, congrArg Links.eth hl⟩

theorem start_ready_status {s : State} {r : StartRun} {warm : Bool} (h : r.pllLocks = true) (h3 : s.board.fails < 3)
    (hf : s.startFails r warm false 1 = none) (hn : 8 ≤ r.upTo) : (s.start r warm).host.status = 5#64 := by
  rw [start_ready h h3 hf hn]; rfl

/-- A start into safe mode reports the failure that led to it (R416). -/
theorem start_safe {s : State} {r : StartRun} {warm : Bool} (h : r.pllLocks = true) (h3 : 3 ≤ s.board.fails)
    (hf : s.startFails r warm true 1 = none) (hn : 3 ≤ r.upTo) :
    (s.start r warm).board.phase = .safe ∧ (s.start r warm).host.status = 2#64 ∧
      (s.start r warm).host.diag = some (s.board.failStep, s.board.failCode) := by
  rw [← startFails_cleared] at hf
  rw [start_of_locks h (by omega), toSafe_of_le h3, startSteps_safe hf hn]
  refine ⟨rfl, rfl, ?_⟩
  show some (_, _) = _
  rw [stepsDone_failStep, stepsDone_failCode]; rfl


/-! ## The rows that start the module -/

/-- The module with the retention flag of its board controller at a value (R414). -/
def State.retaining (s : State) (x : Bool) : State := { s with board := { s.board with retained := x } }

/-- MAIN_POWER_APPLIED and HOST_RESET outside safe mode are starts, of a module whose retention flag the reset has set
(R414, R415). -/
theorem exec_is_start {i : Instr} {s : State} {r : StartRun} {warm : Bool} (hr : s.inp = .start r)
    (h : (i = .mainPowerApplied ∧ s.board.phase = .off ∧ warm = false) ∨
      (i = .hostReset ∧ s.board.phase ≠ .off ∧ s.board.phase ≠ .safe ∧ warm = (r.retained && s.board.memReady))) :
    ∃ x, exec i s = .next ((s.retaining x).start r warm) := by
  rcases h with ⟨rfl, hoff, rfl⟩ | ⟨rfl, hoff, hsafe, rfl⟩
  · have h : execMainPowerApplied s = .next (s.start r false) := by simp [execMainPowerApplied, hr, hoff]
    exact ⟨s.board.retained, h⟩
  · exact ⟨r.retained && s.board.memReady, by simp [execHostReset, hr, hoff, hsafe, State.retaining]⟩

/-- A reset leaves safe mode by a cold start with no failure counted (R416). -/
theorem exec_hostReset_safe {s : State} {r : StartRun} (hr : s.inp = .start r) (h : s.board.phase = .safe) :
    exec .hostReset s = .next (({ s with board := { s.board with fails := 0, retained := false } } : State).start r false) := by
  simp [execHostReset, hr, h]

/-- A cycle in the middle of a start takes the further steps that it brings (log entry 60). -/
theorem exec_bundleIssue_partway {s : State} {r : StartRun} {k : Nat} (hr : s.inp = .start r) (h : s.board.phase = .partway k)
    (hk : k < r.upTo) : exec .bundleIssue s = .next (s.startSteps r s.board.retained s.board.toSafe k) := by
  simp only [exec_bundleIssue, execBundleIssue, h, hr, hk, if_true]

/-- A start that goes on and does what it should reaches ready. -/
theorem startSteps_ready {s : State} {r : StartRun} {warm : Bool} {k : Nat} (h : s.startFails r warm false k = none)
    (hn : 8 ≤ r.upTo) : (s.startSteps r warm false k).board.phase = .ready ∧ (s.startSteps r warm false k).board.fails = 0 ∧
      (s.startSteps r warm false k).host.status = 5#64 ∧
      (s.startSteps r warm false k).dcc.toNat = max s.dcc.toNat r.dcc.toNat := by
  rw [startSteps_of_none h hn]
  refine ⟨rfl, rfl, rfl, ?_⟩
  rw [← clocked_dcc_toNat]
  exact congrArg BitVec.toNat (stepsDone_dcc ..)

/-! ## Temperature (R418) -/

/-- A pre-emption changes the cluster of its slot alone: a drain request that stands is kept, and a team that is not being
saved is asked to drain. -/
theorem preempt_eq (s : State) (j : Nat) : ∃ f, s.preempt j = s.updCluster j f ∧
    (∀ c : Cluster, c.drain.isSome = true → f c = c) ∧
    ((s.cluster j).drain = none → (s.cluster j).saving = false → (f (s.cluster j)).drain = some { since := s.dcc.toNat }) := by
  unfold State.preempt State.raiseDrain; dsimp only
  split <;> rename_i hc
  · exact ⟨_, rfl, fun c h => if_pos h, fun hd _ => by simp [hd]⟩
  · refine ⟨_, rfl, fun c h => by simp [h], fun hd hs => ?_⟩
    have hstop : (s.cluster j).stopped = false := by simpa [hs] using hc
    simp [hd, hs, hstop]

@[simp] theorem preempt_dcc (s : State) (j : Nat) : (s.preempt j).dcc = s.dcc := by
  obtain ⟨f, e, -⟩ := preempt_eq s j; rw [e]; rfl

@[simp] theorem preempt_bound (s : State) (j k : Nat) : (slook (s.preempt j).clusters k).isSome = (slook s.clusters k).isSome := by
  obtain ⟨f, e, -⟩ := preempt_eq s j
  rw [e, State.updCluster]; dsimp only
  rw [slook_smod]; split <;> simp

theorem preempt_cluster_other (s : State) {j k : Nat} (h : k ≠ j) : (s.preempt j).cluster k = s.cluster k := by
  obtain ⟨f, e, -⟩ := preempt_eq s j
  rw [e]; exact cluster_updCluster_other s f h

theorem preempt_drain {s : State} {k : Nat} (h : (slook s.clusters k).isSome = true) (hs : (s.cluster k).saving = false)
    (hd : (s.cluster k).drain = none) : ((s.preempt k).cluster k).drain = some { since := s.dcc.toNat } := by
  obtain ⟨f, e, -, hask⟩ := preempt_eq s k
  rw [e, cluster_updCluster_same f h]; exact hask hd hs

theorem preempt_keeps_drain {s : State} {k : Nat} {d : Drain} (j : Nat) (h : (slook s.clusters k).isSome = true)
    (hd : (s.cluster k).drain = some d) : ((s.preempt j).cluster k).drain = some d := by
  by_cases hj : k = j
  · subst hj
    obtain ⟨f, e, hkeep, -⟩ := preempt_eq s k
    rw [e, cluster_updCluster_same f h, hkeep _ (by rw [hd]; rfl), hd]
  · rw [preempt_cluster_other s hj, hd]

theorem preemptAll_keeps_drain (l : List Nat) {s : State} {k : Nat} {d : Drain} (h : (slook s.clusters k).isSome = true)
    (hd : (s.cluster k).drain = some d) : ((l.foldl State.preempt s).cluster k).drain = some d := by
  induction l generalizing s with
  | nil => exact hd
  | cons j l ih => exact ih (by simpa using h) (preempt_keeps_drain j h hd)

/-- Pre-empting slots one after another asks the team of each of them to drain. -/
theorem preemptAll_drain {l : List Nat} {s : State} {k : Nat} (hk : k ∈ l) (h : (slook s.clusters k).isSome = true)
    (hs : (s.cluster k).saving = false) (hd : (s.cluster k).drain = none) :
    ((l.foldl State.preempt s).cluster k).drain = some { since := s.dcc.toNat } := by
  induction l generalizing s with
  | nil => cases hk
  | cons j l ih =>
    by_cases hj : k = j
    · subst hj
      exact preemptAll_keeps_drain l (by simpa using h) (preempt_drain h hs hd)
    · have hl : k ∈ l := (List.mem_cons.1 hk).resolve_left hj
      rw [← preempt_dcc s j]
      exact ih hl (by simpa using h) (by rwa [preempt_cluster_other s hj]) (by rwa [preempt_cluster_other s hj])

/-- A bound slot stands among the keys of the slots. -/
theorem mem_keys_of_bound {α : Type} {m : Store α} {k : Nat} (h : (slook m k).isSome = true) : k ∈ m.map (·.1) := by
  induction m with
  | nil => cases h
  | cons p t ih =>
    obtain ⟨i, v⟩ := p
    by_cases hi : i = k
    · simp [hi]
    · exact List.mem_cons_of_mem _ (ih (by simpa [slook, hi] using h))

/-- THERMAL_PREEMPT pre-empts every bound slot of a module that is hot from then on, and touches no memory. -/
theorem exec_thermalPreempt_hot {s : State} (hh : s.board.hot = false) (hr : s.isReady = true) :
    Answers .thermalPreempt s (fun t => t.board.hot = true ∧
      (∀ k, (slook s.clusters k).isSome = true → (s.cluster k).drain = none → (s.cluster k).saving = false →
        (t.cluster k).drain = some { since := s.dcc.toNat }) ∧ t.gal = s.gal ∧ t.dram = s.dram) := by
  let u : State := { s with board := { s.board with hot := true } }
  have hw : ((s.clusters.map (·.1)).foldl State.preempt u).watched = u.watched := watched_foldl _ watched_preempt _ _
  refine ⟨(s.clusters.map (·.1)).foldl State.preempt u, by simp [execThermalPreempt, hh, hr, u], ?_, ?_, ?_, ?_⟩
  · rw [watched_board, hw]; rfl
  · intro k h hd hs
    exact preemptAll_drain (s := u) (mem_keys_of_bound h) h hs hd
  · rw [watched_gal, hw]; rfl
  · rw [watched_dram, hw]; rfl

/-- The trip record names the die, the DCC and the launches in progress, and main power goes (R5, R418). -/
theorem exec_thermalTrip_record {s : State} {b : Bool} (hb : s.inp = .die b) (h : s.board.phase ≠ .off) :
    exec .thermalTrip s = .next { s.powerOff with board := { s.powerOff.board with
      trips := s.board.trips ++ [(b, s.dcc, s.boss.launches.map (fun l => (l.queue, l.index)))] } } := by
  simp [execThermalTrip, hb, h]

/-! ## Attestation (R420) -/

@[simp] theorem leBytes_length (n v : Nat) : (leBytes n v).length = n := by
  induction n generalizing v with
  | zero => rfl
  | succ n ih => simp [leBytes, ih]

/-- Little-endian bytes carry the value modulo the range of their number (R7). -/
theorem leNat_leBytes (n v : Nat) : leNat (leBytes n v) = v % 256 ^ n := by
  induction n generalizing v with
  | zero => simp [leBytes, leNat, Nat.mod_one]
  | succ n ih => rw [leBytes, leNat, ih, BitVec.toNat_ofNat, Nat.pow_succ' (m := 256)]; exact Nat.mod_mul.symm

theorem leNat_leBytes_of_lt {n v : Nat} (h : v < 2 ^ (8 * n)) : leNat (leBytes n v) = v := by
  rw [Nat.pow_mul] at h
  rw [leNat_leBytes]; exact Nat.mod_eq_of_lt h

/-- The bytes of a word of that many bytes carry it. -/
theorem leNat_leBytes_toNat {w n : Nat} (x : BitVec w) (h : w = 8 * n) : leNat (leBytes n x.toNat) = x.toNat :=
  leNat_leBytes_of_lt (h ▸ x.isLt)

theorem take_leBytes_append (n v : Nat) (l : List Byte) : (leBytes n v ++ l).take n = leBytes n v :=
  List.take_left' (leBytes_length n v)

theorem drop_leBytes_append {n m : Nat} (v : Nat) (l : List Byte) (h : n ≤ m) : (leBytes n v ++ l).drop m = l.drop (m - n) := by
  rw [List.drop_append, leBytes_length, List.drop_of_length_le (by simpa using h), List.nil_append]

/-- The mask of the slots below `n` that `out` does not take out. -/
def maskBelow (out : Nat → Bool) (n : Nat) : Nat := (List.range n).foldl (fun a i => if out i then a else a + 2 ^ i) 0

theorem maskBelow_succ (out : Nat → Bool) (n : Nat) :
    maskBelow out (n + 1) = if out n then maskBelow out n else maskBelow out n + 2 ^ n := by
  simp [maskBelow, List.range_succ]

theorem maskBelow_lt (out : Nat → Bool) (n : Nat) : maskBelow out n < 2 ^ n := by
  induction n with
  | zero => simp [maskBelow]
  | succ n ih => rw [maskBelow_succ, Nat.pow_succ]; split <;> omega

/-- Bit `k` of the mask says that slot `k` is not taken out. -/
theorem maskBelow_testBit (out : Nat → Bool) {n k : Nat} (h : k < n) : (maskBelow out n).testBit k = !(out k) := by
  induction n with
  | zero => omega
  | succ n ih =>
    have hn : (maskBelow out n).testBit n = false := Nat.testBit_lt_two_pow (maskBelow_lt out n)
    rw [maskBelow_succ]
    rcases Nat.lt_succ_iff_lt_or_eq.1 h with hk | rfl
    · split
      · exact ih hk
      · rw [Nat.add_comm, Nat.testBit_two_pow_add_gt hk, ih hk]
    · split
      · rw [hn]; simp [*]
      · rw [Nat.add_comm, Nat.testBit_two_pow_add_eq, hn]; simp [*]

/-- The slots in service as the report gives them: all but those out of service (R380, R420). -/
def State.serviceMask (s : State) : Nat := maskBelow (fun i => sget 0 s.boss.slots i = 3) 64

theorem reportBody_eq (s : State) (n : BitVec 512) : s.reportBody n =
    leBytes 64 n.toNat ++ (leBytes 64 Config.romDigest.toNat ++ (leBytes 64 s.board.fw.digest.toNat ++
      (leBytes 64 s.board.fw.shadow.toNat ++ (leBytes 4 s.board.fw.version.toNat ++ (leBytes 4 s.board.fuseA.rollback.toNat ++
        (leBytes 8 s.serviceMask ++ (leBytes 4 (if s.board.phase = .safe then 1 else 0) ++ List.replicate 12 0#8))))))) := by
  simp only [State.reportBody, State.serviceMask, maskBelow, List.append_assoc, decide_eq_true_eq]

/-- What the report says, field by field (R420). -/
theorem reportBody_fields (s : State) (n : BitVec 512) :
    let b := s.reportBody n
    b.length = 288 ∧ leNat (b.take 64) = n.toNat ∧ leNat ((b.drop 64).take 64) = Config.romDigest.toNat ∧
    leNat ((b.drop 128).take 64) = s.board.fw.digest.toNat ∧ leNat ((b.drop 192).take 64) = s.board.fw.shadow.toNat ∧
    leNat ((b.drop 256).take 4) = s.board.fw.version.toNat ∧ leNat ((b.drop 260).take 4) = s.board.fuseA.rollback.toNat ∧
    leNat ((b.drop 264).take 8) = s.serviceMask ∧ leNat ((b.drop 272).take 4) = (if s.board.phase = .safe then 1 else 0) := by
  have h512 (x : BitVec 512) : leNat (leBytes 64 x.toNat) = x.toNat := leNat_leBytes_toNat x rfl
  have h32 (x : BitVec 32) : leNat (leBytes 4 x.toNat) = x.toNat := leNat_leBytes_toNat x rfl
  have hmask : leNat (leBytes 8 s.serviceMask) = s.serviceMask := leNat_leBytes_of_lt (maskBelow_lt _ 64)
  have hsafe : leNat (leBytes 4 (if s.board.phase = .safe then 1 else 0)) = if s.board.phase = .safe then 1 else 0 :=
    leNat_leBytes_of_lt (by split <;> decide)
  dsimp only
  rw [reportBody_eq]
  refine ⟨by simp, ?_, ?_, ?_, ?_, ?_, ?_, ?_, ?_⟩ <;>
    simp only [drop_leBytes_append, take_leBytes_append, Nat.reduceLeDiff, Nat.reduceSub, List.drop_zero, h512, h32, hmask, hsafe]

/-- Settles O54: every start is `State.start` or the steps that go on with one, whose outcomes the lemmas above give by the
step that fails; the other rows are an equation each. -/
theorem startsAndBoard : Obligations.StartsAndBoard := by
  unfold Obligations.StartsAndBoard
  refine ⟨?fails, ?start, ?leaveSafe, ?goOn, ?noLock, ?powerOff, ?hot, ?cool, ?trip, ?tripRead, ?firmware, ?report⟩
  case fails =>
    intro s r warm
    rw [startFails_none_iff, board_accepts_iff, fitClusters_eq]
  case start =>
    intro i s r warm hr h
    obtain ⟨x, hx⟩ := exec_is_start hr h
    obtain ⟨hclusters, hacc, hlaunches, hqueues, hinject, htrips⟩ := start_clears (s.retaining x) r warm
    refine ⟨_, hx, hclusters, hacc, hlaunches, hqueues, hinject, htrips, fun hw => ?waits, fun hl h0 => ⟨start_dcc hl h0,
      fun h3 => ⟨fun k hf hk => start_failed hl h0 h3 hf hk, fun hf hn => start_partway hl h0 h3 hf hn, fun hf hn => ?ready⟩,
      fun h3 hf hn => start_safe hl h3 hf hn⟩⟩
    case waits => rw [start_of_waits hw]; exact ⟨rfl, rfl⟩
    case ready =>
      have hb := start_ready_board (s := s.retaining x) hl h3 hf hn
      obtain ⟨hup, heth⟩ := start_ready_links (s := s.retaining x) hl h3 hf hn
      have hm := start_ready_memory (s := s.retaining x) hl h3 hf hn
      refine ⟨by rw [hb], by rw [hb], start_ready_status hl h3 hf hn, by rw [hb], by rw [hb], hup, heth, by rw [hb]; rfl,
        by rw [hb], fun v hv => ?_, hm⟩
      have hv' : (s.retaining x).board.raiseTo = some v := hv
      rw [hb, hv']
      exact ⟨fuse_raise_rollback _ v, fuse_raise_rollback _ v⟩
  case leaveSafe =>
    intro s r hr hs hl hf hn
    have h3 : (0 : Nat) < 3 := by decide
    have hb := start_ready_board (s := { s with board := { s.board with fails := 0, retained := false } }) hl h3 hf hn
    have hm := start_ready_memory (s := { s with board := { s.board with fails := 0, retained := false } }) hl h3 hf hn
    exact ⟨_, exec_hostReset_safe hr hs, by rw [hb], by rw [hb], hm⟩
  case goOn =>
    intro s r k hr hp hk hn h3 hf
    have hx := exec_bundleIssue_partway hr hp hk
    rw [toSafe_of_lt h3] at hx
    exact ⟨_, hx, startSteps_ready hf hn⟩
  case noLock =>
    intro s h
    simp [execPllLockTimeout, h, State.startFailed]
  case powerOff =>
    intro s h
    exact ⟨s.powerOff, by simp [execMainPowerRemoved, h], rfl, rfl, rfl, rfl, rfl, rfl, rfl⟩
  case hot => exact fun s hh hr => exec_thermalPreempt_hot hh hr
  case cool =>
    intro s h
    simp [execThermalRecover, h]
  case trip =>
    intro s b hb h
    exact ⟨_, exec_thermalTrip_record hb h, rfl, rfl, rfl, _, rfl, fun x => List.mem_map⟩
  case tripRead =>
    intro s x rest hr h
    simp [execThermalTripRecordRead, hr, h]
  case firmware =>
    intro s f hf hs
    have hok := board_accepts_iff_fuses s.board f
    exact ⟨fun ok => by simp [execFirmwareUpdate, hf, hs, hok.2 ok], fun ok => by simp [execFirmwareUpdate, hf, hs, mt hok.1 ok]⟩
  case report =>
    intro s n hn hp
    obtain ⟨hlen, hnonce, hrom, hdigest, hshadow, hver, hctr, hmask, hsafe⟩ := reportBody_fields s n
    refine ⟨s.reportBody n, by simp [execAttestationRequest, hn, hp], hlen, hnonce, hrom, hdigest, hshadow, hver, hctr,
      fun k hk => ?_, hsafe⟩
    rw [hmask, State.serviceMask, maskBelow_testBit _ hk]
    rfl

end Sys2Proof.Machine
end
